-- ==== Sys2Proof/Word.lean ====
section
/-!
DEFINITION. The word types of the machine, bit fields of natural numbers, and the plain data types of
exact numbers (a decoded value, a float format, the sticky flags). No rule of the spec is computed here.
-/
namespace Sys2Proof

/-- A byte of memory. -/
abbrev Byte := BitVec 8

/-- A 64-bit word: a W register, a constant word, a queue or mailbox word. -/
abbrev Word := BitVec 64

/-- Bits `lo + n - 1 : lo` of `x`. -/
def fld (x lo n : Nat) : Nat := x / 2 ^ lo % 2 ^ n

/-- Bit `i` of `x`. -/
def bitAt (x i : Nat) : Bool := x / 2 ^ i % 2 == 1

/-- `x` with bits `lo + n - 1 : lo` replaced by `v` (taken modulo `2 ^ n`). -/
def setFld (x lo n v : Nat) : Nat :=
  x - fld x lo n * 2 ^ lo + v % 2 ^ n * 2 ^ lo

/-- The two's-complement reading of the low `n` bits of `x`. -/
def signed (n x : Nat) : Int :=
  let y := x % 2 ^ n
  if 2 * y < 2 ^ n then (y : Int) else (y : Int) - (2 ^ n : Nat)

/-- An integer taken modulo `2 ^ n`. -/
def wrapN (n : Nat) (i : Int) : Nat := (i % ((2 ^ n : Nat) : Int)).toNat

/-- The least multiple of `a` that is at least `n`, for `a > 0`. -/
def alignUp (n a : Nat) : Nat := (n + a - 1) / a * a

/-- A decoded element value (04 R51): a signed finite dyadic `(-1)^neg · m · 2^e` (the zeros keep their sign),
an infinity, or a NaN with its payload and the payload's width. -/
inductive Val where
  | fin (neg : Bool) (m : Nat) (e : Int)
  | inf (neg : Bool)
  | nan (neg : Bool) (payload width : Nat)
  deriving DecidableEq, Repr

/-- How a float format spells NaN (04 Table 4-2). -/
inductive NanKind where
  | absent      -- E3M2, E2M3, E2M1
  | ieee        -- exponent all ones, mantissa not zero
  | allOnes     -- E4M3: 0x7F and 0xFF only
  deriving DecidableEq, Repr

/-- A float format (04 Table 4-2): exponent width, mantissa width, bias, whether it has infinities, its NaNs. -/
structure FloatFormat where
  eb     : Nat
  mb     : Nat
  bias   : Nat
  hasInf : Bool
  nans   : NanKind
  deriving DecidableEq, Repr

/-- The sticky flags an operation raises (02 Table 2-8, ST bits 13:8). -/
structure FFlags where
  nv  : Bool := false
  dz  : Bool := false
  of  : Bool := false
  uf  : Bool := false
  nx  : Bool := false
  sat : Bool := false
  deriving DecidableEq, Repr

/-- Both sets of flags raised. -/
def FFlags.or (x y : FFlags) : FFlags :=
  ⟨x.nv || y.nv, x.dz || y.dz, x.of || y.of, x.uf || y.uf, x.nx || y.nx, x.sat || y.sat⟩

/-- The lane operations (03 Table 3-2, 05 Table 5-3). -/
inductive LaneOp where
  | add | sub | mul | div | min | max | fma | fms
  | and | or | xor | andn | shl | shr | sar | neg | abs | not
  deriving DecidableEq, Repr

/-- The relations of the compares (R79). -/
inductive LaneRel where
  | eq | lt | le
  deriving DecidableEq, Repr

/-- Where a lane instruction takes its b operand from (R76, R78): a V field, a constant word, an immediate count, a
relative field. -/
inductive BSrc where
  | field (f : Nat)
  | const (k : Nat)
  | imm (c : Nat)
  | rel (f : Nat)
  deriving DecidableEq, Repr

end Sys2Proof
end

