-- ==== Sys2Proof/Syntax.lean ====
section
/-!
DEFINITION. The instructions and events of the machine as syntax. An encoded instruction carries its fields as
they stand in the word; an event of the opcode table, which has no encoding, carries what it concerns: a message, a
request, a frame. Nodes are numbered 64y + x for the 2,048 vats (R147), then 2048 + 2 · cluster + SVC for the service
cores; a core is numbered 4 · node + core, with core 3 on a service node.
-/
namespace Sys2Proof

/-- A message on its route (R148, R155, R160): from core `src` to channel `chan` of core `dst`. `ret` is the channel of
the source core that a refusal goes to, `lid` the launch id of the sender's rectangle, `oid` the outstanding slot; `owed`, for a REPLY to a SENDR of
its own rectangle, the core and channel of the reply tag as 16 · core + channel + 1. -/
structure Message where
  src   : Nat
  dst   : Nat
  chan  : Nat
  dword : Word
  words : List Word
  kind  : Nat
  ret   : Nat
  lid   : Nat
  oid   : Nat
  owed  : Nat := 0
  deriving DecidableEq, Repr

/-- What a memory request does to its word (R203, R217). -/
inductive MemOp where
  | read | write | cas | add | and | or | xor | min | max | minu | swap
  deriving DecidableEq, Repr

/-- A request for a near word (R203, R218): `addr` is node · 2^21 + offset, `cmp` the compare value of CAS, `reg` the
destination register. -/
structure NearReq where
  src  : Nat
  ent  : Nat
  op   : MemOp
  addr : Nat
  data : Word
  cmp  : Word
  reg  : Nat
  lid  : Nat
  oid  : Nat
  deriving DecidableEq, Repr

/-- Where the reply of a far request goes (R212, R214). -/
inductive ReplyTo where
  /-- RDF, WRF: reply channel, TAG and SIZE of the request word. -/
  | chan (c tag size : Nat)
  /-- LDF: the destination operand field. -/
  | load (d : Nat)
  /-- STF. -/
  | store
  /-- An atomic: the destination W register. -/
  | atomic (d : Nat)
  deriving DecidableEq, Repr

/-- A far request (R212, R214, R217) of `size` bytes at virtual address `va`, physical address `pa`; `data` is the bytes
to write, little-endian; `phase` the phase of remote reads of its entry, `pos` the bytes performed so far, `got` the bytes read, `bad`
whether a word of them is poisoned. -/
structure FarReq where
  src  : Nat
  ent  : Nat
  op   : MemOp
  va   : Nat
  pa   : Nat
  size : Nat
  data : Nat
  cmp  : Nat
  replyTo   : ReplyTo
  lid  : Nat
  oid  : Nat
  phase : Nat
  pos  : Nat := 0
  got  : Nat := 0
  bad  : Bool := false
  deriving DecidableEq, Repr

/-- A fold request (R180). -/
structure FoldReq where
  src     : Nat
  dst     : Nat
  lid     : Nat
  target  : Word
  header  : Word
  payload : Nat
  tag     : Nat
  ret     : Nat
  oid     : Nat
  deriving DecidableEq, Repr

/-- The group of a PHASE barrier: a rectangle of vats of launch `lid` (R228, R233). -/
structure PhaseKey where
  lid : Nat
  x   : Nat
  y   : Nat
  w   : Nat
  h   : Nat
  deriving DecidableEq, Repr

/-- A chain reservation (R114): entry `ent` of core `src` of launch `lid` asks for the inbox of vat `dst`. -/
structure ChainReq where
  src : Nat
  ent : Nat
  dst : Nat
  lid : Nat
  deriving DecidableEq, Repr

/-- The contents of an accumulator run in flight or in an inbox (R114): banks, format code (0 ZERO), the 32-bit elements in row order, the
poison bits of its rows. -/
structure Partial where
  count  : Nat
  afmt   : Nat
  elems  : List Nat
  poison : List Bool
  deriving DecidableEq, Repr

/-- An array die and a junction temperature of it in °C (R356). -/
structure DieTemp where
  die  : Nat
  temp : Nat
  deriving DecidableEq, Repr

/-- A tagged fabric message that arrives (R331): `src` is the fabric address it comes from; for a message of this device,
`node` and `cmd` name the command that sent it. `data` is the payload's bytes, the poison marks of its 8-byte words above them; `at'` is the
matching entry it has taken and the bytes written so far. -/
structure FabricMsg where
  src  : Nat
  node : Nat
  cmd  : Nat
  mtag : Nat
  len  : Nat
  data : Nat
  at'  : Option (Nat × Nat) := none
  deriving DecidableEq, Repr

/-- A protocol frame (R334): header fields and the payload's bytes, little-endian in `payload`; `held` says that the device has accepted it and that it
waits its turn (R335). -/
structure Frame where
  magic    : Nat
  type     : Nat
  len      : Nat
  seq      : Nat
  ack      : Nat
  epoch    : Nat
  reserved : Nat
  payload  : Nat
  held     : Bool := false
  deriving DecidableEq, Repr

/-- A handler entry of a service core, as the SERVICE record sets it (R241, R354). -/
structure ServiceEntry where
  node  : Nat
  ws    : Nat
  prio  : Nat
  msk   : Bool
  vregs : Nat
  entry : Nat
  chans : Nat
  lnch  : Bool
  deriving DecidableEq, Repr

/-- The outcomes of the two signature checks of an object of the boot flash (R352). -/
structure Signatures where
  ecdsa : Bool
  lms   : Bool
  deriving DecidableEq, Repr

/-- The HEALTH thresholds with their defaults (23 Table 23-4): margins in 1/1024 UI and mV, corrected errors per line, junction limit in
°C, scrub period in hours. -/
structure Health where
  hmarg    : Nat := 96
  vmarg    : Nat := 18
  ecc      : Nat := 16
  junction : Nat := 105
  scrub    : Nat := 24
  deriving DecidableEq, Repr

/-- The payload of a configuration record: the words of ISLAND; for the types whose layout the spec does not give, what they say: the device's
fabric address and the domain of each address, the HEALTH thresholds, the BADPAGE frames, the SERVICE entries and program bytes, the
vendor voltage of IDENT. -/
inductive RecordBody where
  | island (words : List Nat)
  | fabric (addr : Nat) (domains : List (Nat × Nat))
  | health (h : Health)
  | badpage (frames : List Nat)
  | service (entries : List ServiceEntry) (code : List (Nat × Nat × Nat))
  | ident (mv : Nat)
  | unknown (bytes : Nat)
  deriving DecidableEq, Repr

/-- A configuration or identity record (R353): its header word, its payload, and its signature checks. -/
structure FlashRecord where
  header : Nat
  body   : RecordBody
  signed : Signatures
  deriving DecidableEq, Repr

/-- What the boot flash holds and the bring-up measures (R352 to R357): firmware copies A and B, the records in the order of their flash
offsets, and the margins of lanes in LSEL layout. -/
structure BootRecords where
  copyA   : Signatures
  copyB   : Signatures
  records : List FlashRecord
  margins : List (Nat × Nat × Nat)
  deriving DecidableEq, Repr

/-- A memory error (R207, R359). Addresses are keys of the state's stores. -/
inductive EccError where
  /-- Corrected: the word is rewritten with its own value. -/
  | scratchCorrected (word : Nat)
  | accCorrected (row : Nat)
  /-- Uncorrectable in a scratchpad word: a poison mark. -/
  | scratch (word : Nat)
  /-- Uncorrectable in an accumulator row. -/
  | acc (row : Nat)
  /-- Corrected in far memory: counts toward the threshold of the line. -/
  | farCorrected (line : Nat)
  /-- Uncorrectable in an 8-byte far word. -/
  | far (word : Nat)
  /-- Uncorrectable on a link, in LSEL bits 17:10: KIND and UNIT (R358). -/
  | link (link : Nat)
  /-- Uncorrectable in handler tables, mailboxes, queues, outstanding slots, tile tables or command state. -/
  | control
  deriving DecidableEq, Repr

/-- The events that can stand in the state as pending, or come from outside: the rows of the opcode table without encoding, but for
those that a core makes as it issues (the start of an activation, an illegal encoding, the SRR and SRW forms). -/
inductive Event where
  | messageAccept (m : Message)
  | refusalArrival (m : Message) (code : Nat)
  | neverRefusedEntry (ck chan : Nat)
  | launchReserve (node lid : Nat)
  | launchCommit (node lid : Nat)
  | launchReject (lid : Nat)
  | rectangleEnd (lid : Nat)
  | nearReadRequest (r : NearReq)
  | nearReadReply (r : NearReq) (data : Nat) (poisoned : Bool)
  | nearStoreArrival (r : NearReq)
  | nearAtomicArrival (r : NearReq)
  | farMemoryAccess (r : FarReq)
  | farAtomicService (r : FarReq)
  | farReplyArrival (r : FarReq) (status data : Nat)
  | foldRequestArrival (f : FoldReq)
  | foldRefusalArrival (f : FoldReq) (rsn : Nat)
  | mqDispatch (node slot : Nat)
  | dispatchDelivery (node slot : Nat)
  | ageTick (node : Nat)
  | phaseDeparture (g : PhaseKey)
  | chainReserveRequest (c : ChainReq)
  | chainGrant (c : ChainReq)
  | chainPartialArrival (c : ChainReq) (p : Partial)
  | arrayRetire (node : Nat)
  | walkStepCommit (node : Nat)
  | faultReplyArrival (requester : Nat) (retry : Bool)
  | engineCompletion (node cmd : Nat)
  | xferUnit (node cmd : Nat)
  | gatherStage (node cmd : Nat)
  | gatherElementIssue (node cmd : Nat)
  | gatherElementLand (node cmd elem : Nat)
  | streamFetch (node unit : Nat)
  | mcastUnit (node cmd recv : Nat)
  | bufferFreeAcknowledgement (node cmd : Nat)
  | glzPoint (node cmd : Nat)
  | fabricAcknowledgement (node cmd status : Nat)
  | fabricArrival (m : FabricMsg)
  | imageStop (node lid : Nat)
  | vatImage (node lid : Nat)
  | imageVerdict (lid : Nat)
  | resumeReserve (node job : Nat)
  | resumeRestore (job : Nat)
  | debugHalt (ck : Nat)
  | debugRelease (ck : Nat)
  | debugStep (ck : Nat)
  | debugSetHob (ck hob : Nat)
  | fatalFault
  | deviceReset
  | boot (b : BootRecords)
  | throttleStep (die : DieTemp)
  | throttleRecover (die : DieTemp)
  | eccError (e : EccError)
  | scrub (far : List (Nat × Nat))
  | marginMessage (lane vmarg hmarg : Nat)
  | retrainDone (link : Nat)
  | loadFrame (f : Frame)
  | launchFrame (f : Frame)
  | readFrame (f : Frame)
  | syncFrame (f : Frame)
  | peersFrame (f : Frame)
  | peersApply
  | frameResend (seq : Nat)
  | fabricDeliveryFailure (node cmd : Nat)
  deriving DecidableEq, Repr

/-- The instructions of form S (opcodes 0x5E and 0x5F), as the decoder reads them. Compiled code cannot build the
constructors of an inductive beyond the first 244, so the running machine holds these instructions and the events in types of
their own; `SysInstr.toInstr` and `Event.toInstr` name the constructors of `Instr` they stand for. -/
inductive SysInstr where
  | srr (r n : Nat)
  | srw (r n : Nat)
  | trap (n : Nat)
  | bkpt (n : Nat)
  | mirror (s i f : Nat)
  | eret
  | halt (r : Nat)
  | image (r : Nat)
  | resume (r : Nat)
  | tlbw (r : Nat)
  | tlbiDrain (r : Nat)
  | tlbiConfirm (r : Nat)
  | fltrplRetry (r : Nat)
  | fltrplFail (r : Nat)
  deriving DecidableEq, Repr

/-- One constructor per row of the opcode table: the 258 encoded instructions, with their fields in ascending bit
order, then the 74 operations and events that have no encoding, with what each concerns. -/
inductive Instr where
  | mov16 (d b : Nat)
  | add16 (d b k : Nat)
  | sub16 (d b k : Nat)
  | mul16 (d b k : Nat)
  | min16 (d b k : Nat)
  | max16 (d b k : Nat)
  | and16 (d b k : Nat)
  | or16 (d b k : Nat)
  | xor16 (d b k : Nat)
  | andn16 (d b k : Nat)
  | shl16 (d b k : Nat)
  | shr16 (d b k : Nat)
  | sar16 (d b k : Nat)
  | neg16 (d b k : Nat)
  | abs16 (d b k : Nat)
  | not16 (d b k : Nat)
  | add (d a b : Nat)
  | sub (d a b : Nat)
  | mul (d a b : Nat)
  | mulh (d a b : Nat)
  | mulhu (d a b : Nat)
  | div (d a b : Nat)
  | divu (d a b : Nat)
  | rem (d a b : Nat)
  | and (d a b : Nat)
  | or (d a b : Nat)
  | xor (d a b : Nat)
  | andn (d a b : Nat)
  | shl (d a b : Nat)
  | shr (d a b : Nat)
  | sar (d a b : Nat)
  | ror (d a b : Nat)
  | min (d a b : Nat)
  | max (d a b : Nat)
  | minu (d a b : Nat)
  | maxu (d a b : Nat)
  | slt (d a b : Nat)
  | sltu (d a b : Nat)
  | seq (d a b : Nat)
  | remu (d a b : Nat)
  | mov (d a : Nat)
  | clz (d a : Nat)
  | ctz (d a : Nat)
  | popc (d a : Nat)
  | bswap (d a : Nat)
  | sext (d a b : Nat)
  | arel (d a b : Nat)
  | axy (d a b : Nat)
  | addK (d a k : Nat)
  | subK (d a k : Nat)
  | mulK (d a k : Nat)
  | mulhK (d a k : Nat)
  | andK (d a k : Nat)
  | orK (d a k : Nat)
  | xorK (d a k : Nat)
  | andnK (d a k : Nat)
  | minK (d a k : Nat)
  | maxK (d a k : Nat)
  | minuK (d a k : Nat)
  | maxuK (d a k : Nat)
  | sltK (d a k : Nat)
  | sltuK (d a k : Nat)
  | seqK (d a k : Nat)
  | movK (d k : Nat)
  | divK (d a k : Nat)
  | divuK (d a k : Nat)
  | arelK (d a k : Nat)
  | axyK (d a k : Nat)
  | shlImm (d a c : Nat)
  | shrImm (d a c : Nat)
  | sarImm (d a c : Nat)
  | rorImm (d a c : Nat)
  | beq (a b i : Nat)
  | bne (a b i : Nat)
  | blt (a b i : Nat)
  | bge (a b i : Nat)
  | bltu (a b i : Nat)
  | bgeu (a b i : Nat)
  | loop (a i : Nat)
  | j (i : Nat)
  | call (i : Nat)
  | jr (a : Nat)
  | callr (a : Nat)
  | nop
  | vadd (d a b m : Nat)
  | vsub (d a b m : Nat)
  | vmul (d a b m : Nat)
  | vdiv (d a b m : Nat)
  | vmin (d a b m : Nat)
  | vmax (d a b m : Nat)
  | vfma (d a b m : Nat)
  | vfms (d a b m : Nat)
  | vand (d a b m : Nat)
  | vor (d a b m : Nat)
  | vxor (d a b m : Nat)
  | vandn (d a b m : Nat)
  | vshl (d a b m : Nat)
  | vshr (d a b m : Nat)
  | vsar (d a b m : Nat)
  | vsel (d a b m : Nat)
  | vcmpeq (d a b m : Nat)
  | vcmplt (d a b m : Nat)
  | vcmple (d a b m : Nat)
  | vdot (d a b m : Nat)
  | vperm (d a b m : Nat)
  | vbcast (d a b m : Nat)
  | vext (d a b m : Nat)
  | vins (d a b m : Nat)
  | vmov (d a m : Nat)
  | vabs (d a m : Nat)
  | vneg (d a m : Nat)
  | vsqrt (d a m : Nat)
  | vcvt (d a b m : Nat)
  | vtag (d a b m : Nat)
  | vred (d a b m : Nat)
  | vnzs (d a b m : Nat)
  | vaddK (d a k m : Nat)
  | vsubK (d a k m : Nat)
  | vmulK (d a k m : Nat)
  | vfmaK (d a k m : Nat)
  | vminK (d a k m : Nat)
  | vmaxK (d a k m : Nat)
  | vandK (d a k m : Nat)
  | vorK (d a k m : Nat)
  | vxorK (d a k m : Nat)
  | vandnK (d a k m : Nat)
  | vcmpeqK (d a k m : Nat)
  | vcmpltK (d a k m : Nat)
  | vcmpleK (d a k m : Nat)
  | vbcastK (d a k m : Nat)
  | vshlImm (d a c m : Nat)
  | vshrImm (d a c m : Nat)
  | vsarImm (d a c m : Nat)
  | vaddRel (d a b m : Nat)
  | vsubRel (d a b m : Nat)
  | vmulRel (d a b m : Nat)
  | vdivRel (d a b m : Nat)
  | vminRel (d a b m : Nat)
  | vmaxRel (d a b m : Nat)
  | vfmaRel (d a b m : Nat)
  | vfmsRel (d a b m : Nat)
  | vandRel (d a b m : Nat)
  | vorRel (d a b m : Nat)
  | vxorRel (d a b m : Nat)
  | vandnRel (d a b m : Nat)
  | vshlRel (d a b m : Nat)
  | vshrRel (d a b m : Nat)
  | vsarRel (d a b m : Nat)
  | vselRel (d a b m : Nat)
  | vcmpeqRel (d a b m : Nat)
  | vcmpltRel (d a b m : Nat)
  | vcmpleRel (d a b m : Nat)
  | vdotRel (d a b m : Nat)
  | vpermRel (d a b m : Nat)
  | vmovRelA (d a m : Nat)
  | vmovRelD (d a m : Nat)
  | mand (d a b : Nat)
  | mor (d a b : Nat)
  | mxor (d a b : Nat)
  | mnot (d a : Nat)
  | mmov (d a : Nat)
  | mma (z f p e : Nat)
  | mmaz (z f p e : Nat)
  | achain (z w : Nat)
  | tset (t k : Nat)
  | aalloc (z k : Nat)
  | afree (z : Nat)
  | azero (z : Nat)
  | astore (z x w : Nat)
  | aload (z x w : Nat)
  | amovv (z v s : Nat)
  | winit (p r : Nat)
  | walk (z f p e k : Nat)
  | wstep (z f p e : Nat)
  | wres (p d s : Nat)
  | wfix (p s : Nat)
  | wcnt (p x d : Nat)
  | send (a b n : Nat)
  | sendr (d a b n : Nat)
  | reply (a b n : Nat)
  | bind (d a : Nat)
  | unbind (d : Nat)
  | hmask (a b : Nat)
  | hprio (a b : Nat)
  | peek (d a : Nat)
  | drop (a : Nat)
  | yield
  | exit
  | launch (d a : Nat)
  | mqfold (d a b : Nat)
  | mqbind (a b : Nat)
  | mqdrain (a : Nat)
  | mqstat (d a : Nat)
  | mqcfg (a b : Nat)
  | ldB (d b i : Nat)
  | ldH (d b i : Nat)
  | ldW (d b i : Nat)
  | ldD (d b i : Nat)
  | ldSb (d b i : Nat)
  | ldSh (d b i : Nat)
  | ldSw (d b i : Nat)
  | stB (d b i : Nat)
  | stH (d b i : Nat)
  | stW (d b i : Nat)
  | stD (d b i : Nat)
  | ldv (v b t i : Nat)
  | stv (v b t i : Nat)
  | rld (d a : Nat)
  | rst (a b : Nat)
  | rdf (a b : Nat)
  | wrf (d a b : Nat)
  | ldf (d a : Nat)
  | stf (a b : Nat)
  | cas (d a b : Nat)
  | amoAdd (d a b : Nat)
  | amoAnd (d a b : Nat)
  | amoOr (d a b : Nat)
  | amoXor (d a b : Nat)
  | amoMin (d a b : Nat)
  | amoMax (d a b : Nat)
  | amoMinu (d a b : Nat)
  | amoSwap (d a b : Nat)
  | phase (a s : Nat)
  | fence (s : Nat)
  | tstate (d a : Nat)
  | twait (a b : Nat)
  | lfill (a b : Nat)
  | lempty (a b : Nat)
  | semp (a : Nat)
  | semv (a : Nat)
  | semr (d a : Nat)
  | strm (d a : Nat)
  | strmx (d a b : Nat)
  | strmoff (d : Nat)
  | xfer (d a b : Nat)
  | gath (d a b : Nat)
  | gend
  | mcast (d a b : Nat)
  | engq (d a : Nat)
  | glz (d a : Nat)
  | plane (d a b : Nat)
  | unplane (d a b : Nat)
  | lkenc (d a b : Nat)
  | lkdec (d a b : Nat)
  | srr (r n : Nat)
  | srw (r n : Nat)
  | trap (n : Nat)
  | bkpt (n : Nat)
  | mirror (s i f : Nat)
  | eret
  | halt (r : Nat)
  | image (r : Nat)
  | resume (r : Nat)
  | tlbw (r : Nat)
  | tlbiDrain (r : Nat)
  | tlbiConfirm (r : Nat)
  | fltrplRetry (r : Nat)
  | fltrplFail (r : Nat)
  /-- ACTIVATION_START (R153): entry `ent` of core `ck` starts an activation. -/
  | activationStart (ck ent : Nat)
  /-- MESSAGE_ACCEPT (R150): `m` arrives at its mailbox. -/
  | messageAccept (m : Message)
  /-- REFUSAL_ARRIVAL (R160): the refusal of `m` reaches the channel of its sender. -/
  | refusalArrival (m : Message) (code : Nat)
  /-- NEVER_REFUSED_ENTRY (R161): the oldest item waiting for the channel enters it. -/
  | neverRefusedEntry (ck chan : Nat)
  /-- LAUNCH_RESERVE (R169): vat `node` tests the reserve request of launch `lid`. -/
  | launchReserve (node lid : Nat)
  /-- LAUNCH_COMMIT (R170): vat `node` commits launch `lid`. -/
  | launchCommit (node lid : Nat)
  /-- LAUNCH_REJECT (R170): launch `lid` is rejected on every vat. -/
  | launchReject (lid : Nat)
  /-- RECTANGLE_END (R172): rectangle `lid` is quiet on every vat and ends. -/
  | rectangleEnd (lid : Nat)
  /-- NEAR_READ_REQUEST (R203): an RLD request is performed at its target. -/
  | nearReadRequest (r : NearReq)
  /-- NEAR_READ_REPLY (R203): the reply of a near read or near atomic retires its instruction. -/
  | nearReadReply (r : NearReq) (data : Nat) (poisoned : Bool)
  /-- NEAR_STORE_ARRIVAL (R203): an RST arrives at its target. -/
  | nearStoreArrival (r : NearReq)
  /-- NEAR_ATOMIC_ARRIVAL (R218): a near atomic arrives at the owning vat. -/
  | nearAtomicArrival (r : NearReq)
  /-- FAR_MEMORY_ACCESS (R212): far memory performs a read or a write. -/
  | farMemoryAccess (r : FarReq)
  /-- FAR_ATOMIC_SERVICE (R219): the home atomic engine performs a far atomic. -/
  | farAtomicService (r : FarReq)
  /-- FAR_REPLY_ARRIVAL (R214): the reply of a far request arrives. -/
  | farReplyArrival (r : FarReq) (status data : Nat)
  /-- FOLD_REQUEST_ARRIVAL (R183): a fold request arrives at a Mordant queue. -/
  | foldRequestArrival (f : FoldReq)
  /-- FOLD_REFUSAL_ARRIVAL (R181): a fold refusal reaches the channel of its sender. -/
  | foldRefusalArrival (f : FoldReq) (rsn : Nat)
  /-- MQ_DISPATCH (R182): phase 1 of the slot's queue. -/
  | mqDispatch (node slot : Nat)
  /-- DISPATCH_DELIVERY (R185): phase 3 of the slot's queue. -/
  | dispatchDelivery (node slot : Nat)
  /-- AGE_TICK (R175): 256 cycles of the vat's island clock pass. -/
  | ageTick (node : Nat)
  /-- PHASE_DEPARTURE (R233): the open generation of a group is complete and its handlers depart. -/
  | phaseDeparture (g : PhaseKey)
  /-- CHAIN_RESERVE_REQUEST (R114): a chain reservation request stands at its successor. -/
  | chainReserveRequest (c : ChainReq)
  /-- CHAIN_GRANT (R114): a grant reaches the sender of the request. -/
  | chainGrant (c : ChainReq)
  /-- CHAIN_PARTIAL_ARRIVAL (R114): a partial enters the inbox reserved for it. -/
  | chainPartialArrival (c : ChainReq) (p : Partial)
  /-- ARRAY_RETIRE (R110): the instruction in the matrix array retires. -/
  | arrayRetire (node : Nat)
  /-- WALK_STEP_COMMIT (R128): the walk step in the matrix array commits. -/
  | walkStepCommit (node : Nat)
  /-- FAULT_REPLY_ARRIVAL (R246): an FLTRPL reply reaches its requester. -/
  | faultReplyArrival (requester : Nat) (retry : Bool)
  /-- ENGINE_COMPLETION (R255): command slot `cmd`, or stream unit `cmd - 8`, posts its completion. -/
  | engineCompletion (node cmd : Nat)
  /-- XFER_UNIT (R261): the copy engine moves its next unit. -/
  | xferUnit (node cmd : Nat)
  /-- GATHER_STAGE (R263): the gather stages its next index line. -/
  | gatherStage (node cmd : Nat)
  /-- GATHER_ELEMENT_ISSUE (R263): the gather issues or skips its next element. -/
  | gatherElementIssue (node cmd : Nat)
  /-- GATHER_ELEMENT_LAND (R263): an issued element lands. -/
  | gatherElementLand (node cmd elem : Nat)
  /-- STREAM_FETCH (R259): the stream unit fetches its next strip. -/
  | streamFetch (node unit : Nat)
  /-- MCAST_UNIT (R267): receiver `recv` writes its next multicast unit. -/
  | mcastUnit (node cmd recv : Nat)
  /-- BUFFER_FREE_ACKNOWLEDGEMENT (R267): the combined acknowledgement of a multicast arrives. -/
  | bufferFreeAcknowledgement (node cmd : Nat)
  /-- GLZ_POINT (R278): the Glaze engine computes and writes its next destination unit. -/
  | glzPoint (node cmd : Nat)
  /-- TILE_ENTRY_WRITE (R221): SRW of W[r] to word 0 of tile-table entry `e`. -/
  | tileEntryWrite (r e : Nat)
  /-- TILE_ENTRY_ARM (R221): SRW of W[r] to word 1 of tile-table entry `e`. -/
  | tileEntryArm (r e : Nat)
  /-- FAULT_QUEUE_POP (R250): SRR of 0x0300 into W[r]. -/
  | faultQueuePop (r : Nat)
  /-- FAULT_QUEUE_CLEAR_OVF (R250): SRW of W[r] to 0x0301. -/
  | faultQueueClearOvf (r : Nat)
  /-- FABRIC_SEND (R327): SRW of W[r] to FSEND. -/
  | fabricSend (r : Nat)
  /-- FABRIC_ACKNOWLEDGEMENT (R327): the target has acknowledged a fabric send, or found no entry for it. -/
  | fabricAcknowledgement (node cmd status : Nat)
  /-- FABRIC_ARRIVAL (R331): a tagged message arrives at the matching table, or its next unit is written. -/
  | fabricArrival (m : FabricMsg)
  /-- MATCH_ARM (R330): SRW of W[r], with V = 1, to word 3 of matching entry `e`. -/
  | matchArm (r e : Nat)
  /-- MATCH_DISARM (R330): SRW of W[r], with V = 0, to word 3 of matching entry `e`. -/
  | matchDisarm (r e : Nat)
  /-- IMAGE_STOP (R308): a stop takes effect on a vat of rectangle `lid`. -/
  | imageStop (node lid : Nat)
  /-- VAT_IMAGE (R309): a stopped vat of rectangle `lid` writes its image. -/
  | vatImage (node lid : Nat)
  /-- IMAGE_VERDICT (R312): every vat of the image job of `lid` is done. -/
  | imageVerdict (lid : Nat)
  /-- RESUME_RESERVE (R311): vat `node` tests the reserve request of resume job `job`. -/
  | resumeReserve (node job : Nat)
  /-- RESUME_RESTORE (R313): every vat of a resume job restores, or the job is refused. -/
  | resumeRestore (job : Nat)
  /-- DEBUG_HALT (R314): core `ck` halts. -/
  | debugHalt (ck : Nat)
  /-- DEBUG_RELEASE (R314): core `ck` is released. -/
  | debugRelease (ck : Nat)
  /-- DEBUG_STEP (R314): the halted core `ck` may issue one instruction. -/
  | debugStep (ck : Nat)
  /-- DEBUG_SET_HOB (R314): HOB of core `ck` is set. -/
  | debugSetHob (ck hob : Nat)
  /-- FATAL_FAULT (R316): a fault that the device cannot contain. -/
  | fatalFault
  /-- DEVICE_RESET (R3): device reset. -/
  | deviceReset
  /-- BOOT (R354): Uzocel brings the device up. -/
  | boot (b : BootRecords)
  /-- THROTTLE_STEP (R356): 10 µs pass; the temperature is the die's junction temperature. -/
  | throttleStep (die : DieTemp)
  /-- THROTTLE_RECOVER (R356): 10 µs pass; the temperature is the die's highest junction temperature of the last 1 ms. -/
  | throttleRecover (die : DieTemp)
  /-- ECC_ERROR (R207): a memory error is detected. -/
  | eccError (e : EccError)
  /-- SCRUB (R360): a scrub period passes; `far` is the far lines corrected and the corrections made in each, which are added to their counts. -/
  | scrub (far : List (Nat × Nat))
  /-- MARGIN_MESSAGE (R358): a lane margin, in LSEL layout `lane`, is measured. -/
  | marginMessage (lane vmarg hmarg : Nat)
  /-- LANE_RETRAIN (R358): SRW of W[r], with OP 1, to LCMD. -/
  | laneRetrain (r : Nat)
  /-- RETRAIN_DONE (R358): the retraining pause of a link ends. -/
  | retrainDone (link : Nat)
  /-- LANE_REPAIR (R358): SRW of W[r], with OP 2, to LCMD. -/
  | laneRepair (r : Nat)
  /-- LOAD_FRAME (R334): a LOAD frame arrives. -/
  | loadFrame (f : Frame)
  /-- LAUNCH_FRAME (R363): a LAUNCH frame arrives. -/
  | launchFrame (f : Frame)
  /-- READ_FRAME (R334): a READ frame arrives. -/
  | readFrame (f : Frame)
  /-- SYNC_FRAME (R336): a SYNC frame arrives. -/
  | syncFrame (f : Frame)
  /-- PEERS_FRAME (R328): a PEERS frame arrives. -/
  | peersFrame (f : Frame)
  /-- PEERS_APPLY (R328): the held PEERS frame is applied. -/
  | peersApply
  /-- FRAME_RESEND (R335): 100 µs pass since the last sending of device frame `seq`. -/
  | frameResend (seq : Nat)
  /-- ILLEGAL_ENCODING (R46): the core fetches `w`, an encoding of `nbits` bits that is no instruction. -/
  | illegalEncoding (nbits w : Nat)
  /-- FABRIC_DELIVERY_FAILURE (R327): the delivery of a fabric send fails. -/
  | fabricDeliveryFailure (node cmd : Nat)
  deriving DecidableEq, Repr

/-- The instruction that a form S instruction is. -/
noncomputable def SysInstr.toInstr : SysInstr → Instr
  | .srr r n => .srr r n
  | .srw r n => .srw r n
  | .trap n => .trap n
  | .bkpt n => .bkpt n
  | .mirror s i f => .mirror s i f
  | .eret => .eret 
  | .halt r => .halt r
  | .image r => .image r
  | .resume r => .resume r
  | .tlbw r => .tlbw r
  | .tlbiDrain r => .tlbiDrain r
  | .tlbiConfirm r => .tlbiConfirm r
  | .fltrplRetry r => .fltrplRetry r
  | .fltrplFail r => .fltrplFail r

/-- The constructor of `Instr` that an event is. -/
noncomputable def Event.toInstr : Event → Instr
  | .messageAccept m => .messageAccept m
  | .refusalArrival m code => .refusalArrival m code
  | .neverRefusedEntry ck chan => .neverRefusedEntry ck chan
  | .launchReserve node lid => .launchReserve node lid
  | .launchCommit node lid => .launchCommit node lid
  | .launchReject lid => .launchReject lid
  | .rectangleEnd lid => .rectangleEnd lid
  | .nearReadRequest r => .nearReadRequest r
  | .nearReadReply r data poisoned => .nearReadReply r data poisoned
  | .nearStoreArrival r => .nearStoreArrival r
  | .nearAtomicArrival r => .nearAtomicArrival r
  | .farMemoryAccess r => .farMemoryAccess r
  | .farAtomicService r => .farAtomicService r
  | .farReplyArrival r status data => .farReplyArrival r status data
  | .foldRequestArrival f => .foldRequestArrival f
  | .foldRefusalArrival f rsn => .foldRefusalArrival f rsn
  | .mqDispatch node slot => .mqDispatch node slot
  | .dispatchDelivery node slot => .dispatchDelivery node slot
  | .ageTick node => .ageTick node
  | .phaseDeparture g => .phaseDeparture g
  | .chainReserveRequest c => .chainReserveRequest c
  | .chainGrant c => .chainGrant c
  | .chainPartialArrival c p => .chainPartialArrival c p
  | .arrayRetire node => .arrayRetire node
  | .walkStepCommit node => .walkStepCommit node
  | .faultReplyArrival requester retry => .faultReplyArrival requester retry
  | .engineCompletion node cmd => .engineCompletion node cmd
  | .xferUnit node cmd => .xferUnit node cmd
  | .gatherStage node cmd => .gatherStage node cmd
  | .gatherElementIssue node cmd => .gatherElementIssue node cmd
  | .gatherElementLand node cmd elem => .gatherElementLand node cmd elem
  | .streamFetch node unit => .streamFetch node unit
  | .mcastUnit node cmd recv => .mcastUnit node cmd recv
  | .bufferFreeAcknowledgement node cmd => .bufferFreeAcknowledgement node cmd
  | .glzPoint node cmd => .glzPoint node cmd
  | .fabricAcknowledgement node cmd status => .fabricAcknowledgement node cmd status
  | .fabricArrival m => .fabricArrival m
  | .imageStop node lid => .imageStop node lid
  | .vatImage node lid => .vatImage node lid
  | .imageVerdict lid => .imageVerdict lid
  | .resumeReserve node job => .resumeReserve node job
  | .resumeRestore job => .resumeRestore job
  | .debugHalt ck => .debugHalt ck
  | .debugRelease ck => .debugRelease ck
  | .debugStep ck => .debugStep ck
  | .debugSetHob ck hob => .debugSetHob ck hob
  | .fatalFault => .fatalFault 
  | .deviceReset => .deviceReset 
  | .boot b => .boot b
  | .throttleStep die => .throttleStep die
  | .throttleRecover die => .throttleRecover die
  | .eccError e => .eccError e
  | .scrub far => .scrub far
  | .marginMessage lane vmarg hmarg => .marginMessage lane vmarg hmarg
  | .retrainDone link => .retrainDone link
  | .loadFrame f => .loadFrame f
  | .launchFrame f => .launchFrame f
  | .readFrame f => .readFrame f
  | .syncFrame f => .syncFrame f
  | .peersFrame f => .peersFrame f
  | .peersApply => .peersApply 
  | .frameResend seq => .frameResend seq
  | .fabricDeliveryFailure node cmd => .fabricDeliveryFailure node cmd

end Sys2Proof
end

