-- ==== Sys2Proof/WellFormed.lean ====
section
/-!
DEFINITION. Which instructions are well formed: every field fits the bits that its encoding gives it (03 Table 3-12), and every number of
an event fits the range of what it names.
-/
namespace Sys2Proof

/-- Each listed value fits its number of bits. -/
def fits : List (Nat × Nat) → Bool
  | [] => true
  | (v, n) :: r => v < 2 ^ n && fits r

/-- The values of an instruction with the bits each must fit. -/
def rangesOf : Instr → List (Nat × Nat)
  | .mov16 d b => [(d, 5), (b, 5)]
  | .add16 d b k => [(d, 5), (b, 5), (k, 1)]
  | .sub16 d b k => [(d, 5), (b, 5), (k, 1)]
  | .mul16 d b k => [(d, 5), (b, 5), (k, 1)]
  | .min16 d b k => [(d, 5), (b, 5), (k, 1)]
  | .max16 d b k => [(d, 5), (b, 5), (k, 1)]
  | .and16 d b k => [(d, 5), (b, 5), (k, 1)]
  | .or16 d b k => [(d, 5), (b, 5), (k, 1)]
  | .xor16 d b k => [(d, 5), (b, 5), (k, 1)]
  | .andn16 d b k => [(d, 5), (b, 5), (k, 1)]
  | .shl16 d b k => [(d, 5), (b, 5), (k, 1)]
  | .shr16 d b k => [(d, 5), (b, 5), (k, 1)]
  | .sar16 d b k => [(d, 5), (b, 5), (k, 1)]
  | .neg16 d b k => [(d, 5), (b, 5), (k, 1)]
  | .abs16 d b k => [(d, 5), (b, 5), (k, 1)]
  | .not16 d b k => [(d, 5), (b, 5), (k, 1)]
  | .add d a b => [(d, 6), (a, 6), (b, 6)]
  | .sub d a b => [(d, 6), (a, 6), (b, 6)]
  | .mul d a b => [(d, 6), (a, 6), (b, 6)]
  | .mulh d a b => [(d, 6), (a, 6), (b, 6)]
  | .mulhu d a b => [(d, 6), (a, 6), (b, 6)]
  | .div d a b => [(d, 6), (a, 6), (b, 6)]
  | .divu d a b => [(d, 6), (a, 6), (b, 6)]
  | .rem d a b => [(d, 6), (a, 6), (b, 6)]
  | .and d a b => [(d, 6), (a, 6), (b, 6)]
  | .or d a b => [(d, 6), (a, 6), (b, 6)]
  | .xor d a b => [(d, 6), (a, 6), (b, 6)]
  | .andn d a b => [(d, 6), (a, 6), (b, 6)]
  | .shl d a b => [(d, 6), (a, 6), (b, 6)]
  | .shr d a b => [(d, 6), (a, 6), (b, 6)]
  | .sar d a b => [(d, 6), (a, 6), (b, 6)]
  | .ror d a b => [(d, 6), (a, 6), (b, 6)]
  | .min d a b => [(d, 6), (a, 6), (b, 6)]
  | .max d a b => [(d, 6), (a, 6), (b, 6)]
  | .minu d a b => [(d, 6), (a, 6), (b, 6)]
  | .maxu d a b => [(d, 6), (a, 6), (b, 6)]
  | .slt d a b => [(d, 6), (a, 6), (b, 6)]
  | .sltu d a b => [(d, 6), (a, 6), (b, 6)]
  | .seq d a b => [(d, 6), (a, 6), (b, 6)]
  | .remu d a b => [(d, 6), (a, 6), (b, 6)]
  | .mov d a => [(d, 6), (a, 6)]
  | .clz d a => [(d, 6), (a, 6)]
  | .ctz d a => [(d, 6), (a, 6)]
  | .popc d a => [(d, 6), (a, 6)]
  | .bswap d a => [(d, 6), (a, 6)]
  | .sext d a b => [(d, 6), (a, 6), (b, 6)]
  | .arel d a b => [(d, 6), (a, 6), (b, 6)]
  | .axy d a b => [(d, 6), (a, 6), (b, 6)]
  | .addK d a k => [(d, 6), (a, 6), (k, 8)]
  | .subK d a k => [(d, 6), (a, 6), (k, 8)]
  | .mulK d a k => [(d, 6), (a, 6), (k, 8)]
  | .mulhK d a k => [(d, 6), (a, 6), (k, 8)]
  | .andK d a k => [(d, 6), (a, 6), (k, 8)]
  | .orK d a k => [(d, 6), (a, 6), (k, 8)]
  | .xorK d a k => [(d, 6), (a, 6), (k, 8)]
  | .andnK d a k => [(d, 6), (a, 6), (k, 8)]
  | .minK d a k => [(d, 6), (a, 6), (k, 8)]
  | .maxK d a k => [(d, 6), (a, 6), (k, 8)]
  | .minuK d a k => [(d, 6), (a, 6), (k, 8)]
  | .maxuK d a k => [(d, 6), (a, 6), (k, 8)]
  | .sltK d a k => [(d, 6), (a, 6), (k, 8)]
  | .sltuK d a k => [(d, 6), (a, 6), (k, 8)]
  | .seqK d a k => [(d, 6), (a, 6), (k, 8)]
  | .movK d k => [(d, 6), (k, 8)]
  | .divK d a k => [(d, 6), (a, 6), (k, 8)]
  | .divuK d a k => [(d, 6), (a, 6), (k, 8)]
  | .arelK d a k => [(d, 6), (a, 6), (k, 8)]
  | .axyK d a k => [(d, 6), (a, 6), (k, 8)]
  | .shlImm d a c => [(d, 6), (a, 6), (c, 6)]
  | .shrImm d a c => [(d, 6), (a, 6), (c, 6)]
  | .sarImm d a c => [(d, 6), (a, 6), (c, 6)]
  | .rorImm d a c => [(d, 6), (a, 6), (c, 6)]
  | .beq a b i => [(a, 6), (b, 6), (i, 12)]
  | .bne a b i => [(a, 6), (b, 6), (i, 12)]
  | .blt a b i => [(a, 6), (b, 6), (i, 12)]
  | .bge a b i => [(a, 6), (b, 6), (i, 12)]
  | .bltu a b i => [(a, 6), (b, 6), (i, 12)]
  | .bgeu a b i => [(a, 6), (b, 6), (i, 12)]
  | .loop a i => [(a, 6), (i, 12)]
  | .j i => [(i, 24)]
  | .call i => [(i, 24)]
  | .jr a => [(a, 6)]
  | .callr a => [(a, 6)]
  | .nop => []
  | .vadd d a b m => [(d, 6), (a, 6), (b, 6), (m, 3)]
  | .vsub d a b m => [(d, 6), (a, 6), (b, 6), (m, 3)]
  | .vmul d a b m => [(d, 6), (a, 6), (b, 6), (m, 3)]
  | .vdiv d a b m => [(d, 6), (a, 6), (b, 6), (m, 3)]
  | .vmin d a b m => [(d, 6), (a, 6), (b, 6), (m, 3)]
  | .vmax d a b m => [(d, 6), (a, 6), (b, 6), (m, 3)]
  | .vfma d a b m => [(d, 6), (a, 6), (b, 6), (m, 3)]
  | .vfms d a b m => [(d, 6), (a, 6), (b, 6), (m, 3)]
  | .vand d a b m => [(d, 6), (a, 6), (b, 6), (m, 3)]
  | .vor d a b m => [(d, 6), (a, 6), (b, 6), (m, 3)]
  | .vxor d a b m => [(d, 6), (a, 6), (b, 6), (m, 3)]
  | .vandn d a b m => [(d, 6), (a, 6), (b, 6), (m, 3)]
  | .vshl d a b m => [(d, 6), (a, 6), (b, 6), (m, 3)]
  | .vshr d a b m => [(d, 6), (a, 6), (b, 6), (m, 3)]
  | .vsar d a b m => [(d, 6), (a, 6), (b, 6), (m, 3)]
  | .vsel d a b m => [(d, 6), (a, 6), (b, 6), (m, 3)]
  | .vcmpeq d a b m => [(d, 6), (a, 6), (b, 6), (m, 3)]
  | .vcmplt d a b m => [(d, 6), (a, 6), (b, 6), (m, 3)]
  | .vcmple d a b m => [(d, 6), (a, 6), (b, 6), (m, 3)]
  | .vdot d a b m => [(d, 6), (a, 6), (b, 6), (m, 3)]
  | .vperm d a b m => [(d, 6), (a, 6), (b, 6), (m, 3)]
  | .vbcast d a b m => [(d, 6), (a, 6), (b, 6), (m, 3)]
  | .vext d a b m => [(d, 6), (a, 6), (b, 6), (m, 3)]
  | .vins d a b m => [(d, 6), (a, 6), (b, 6), (m, 3)]
  | .vmov d a m => [(d, 6), (a, 6), (m, 3)]
  | .vabs d a m => [(d, 6), (a, 6), (m, 3)]
  | .vneg d a m => [(d, 6), (a, 6), (m, 3)]
  | .vsqrt d a m => [(d, 6), (a, 6), (m, 3)]
  | .vcvt d a b m => [(d, 6), (a, 6), (b, 6), (m, 3)]
  | .vtag d a b m => [(d, 6), (a, 6), (b, 6), (m, 3)]
  | .vred d a b m => [(d, 6), (a, 6), (b, 6), (m, 3)]
  | .vnzs d a b m => [(d, 6), (a, 6), (b, 6), (m, 3)]
  | .vaddK d a k m => [(d, 6), (a, 6), (k, 8), (m, 3)]
  | .vsubK d a k m => [(d, 6), (a, 6), (k, 8), (m, 3)]
  | .vmulK d a k m => [(d, 6), (a, 6), (k, 8), (m, 3)]
  | .vfmaK d a k m => [(d, 6), (a, 6), (k, 8), (m, 3)]
  | .vminK d a k m => [(d, 6), (a, 6), (k, 8), (m, 3)]
  | .vmaxK d a k m => [(d, 6), (a, 6), (k, 8), (m, 3)]
  | .vandK d a k m => [(d, 6), (a, 6), (k, 8), (m, 3)]
  | .vorK d a k m => [(d, 6), (a, 6), (k, 8), (m, 3)]
  | .vxorK d a k m => [(d, 6), (a, 6), (k, 8), (m, 3)]
  | .vandnK d a k m => [(d, 6), (a, 6), (k, 8), (m, 3)]
  | .vcmpeqK d a k m => [(d, 6), (a, 6), (k, 8), (m, 3)]
  | .vcmpltK d a k m => [(d, 6), (a, 6), (k, 8), (m, 3)]
  | .vcmpleK d a k m => [(d, 6), (a, 6), (k, 8), (m, 3)]
  | .vbcastK d a k m => [(d, 6), (a, 6), (k, 8), (m, 3)]
  | .vshlImm d a c m => [(d, 6), (a, 6), (c, 6), (m, 3)]
  | .vshrImm d a c m => [(d, 6), (a, 6), (c, 6), (m, 3)]
  | .vsarImm d a c m => [(d, 6), (a, 6), (c, 6), (m, 3)]
  | .vaddRel d a b m => [(d, 6), (a, 6), (b, 6), (m, 3)]
  | .vsubRel d a b m => [(d, 6), (a, 6), (b, 6), (m, 3)]
  | .vmulRel d a b m => [(d, 6), (a, 6), (b, 6), (m, 3)]
  | .vdivRel d a b m => [(d, 6), (a, 6), (b, 6), (m, 3)]
  | .vminRel d a b m => [(d, 6), (a, 6), (b, 6), (m, 3)]
  | .vmaxRel d a b m => [(d, 6), (a, 6), (b, 6), (m, 3)]
  | .vfmaRel d a b m => [(d, 6), (a, 6), (b, 6), (m, 3)]
  | .vfmsRel d a b m => [(d, 6), (a, 6), (b, 6), (m, 3)]
  | .vandRel d a b m => [(d, 6), (a, 6), (b, 6), (m, 3)]
  | .vorRel d a b m => [(d, 6), (a, 6), (b, 6), (m, 3)]
  | .vxorRel d a b m => [(d, 6), (a, 6), (b, 6), (m, 3)]
  | .vandnRel d a b m => [(d, 6), (a, 6), (b, 6), (m, 3)]
  | .vshlRel d a b m => [(d, 6), (a, 6), (b, 6), (m, 3)]
  | .vshrRel d a b m => [(d, 6), (a, 6), (b, 6), (m, 3)]
  | .vsarRel d a b m => [(d, 6), (a, 6), (b, 6), (m, 3)]
  | .vselRel d a b m => [(d, 6), (a, 6), (b, 6), (m, 3)]
  | .vcmpeqRel d a b m => [(d, 6), (a, 6), (b, 6), (m, 3)]
  | .vcmpltRel d a b m => [(d, 6), (a, 6), (b, 6), (m, 3)]
  | .vcmpleRel d a b m => [(d, 6), (a, 6), (b, 6), (m, 3)]
  | .vdotRel d a b m => [(d, 6), (a, 6), (b, 6), (m, 3)]
  | .vpermRel d a b m => [(d, 6), (a, 6), (b, 6), (m, 3)]
  | .vmovRelA d a m => [(d, 6), (a, 6), (m, 3)]
  | .vmovRelD d a m => [(d, 6), (a, 6), (m, 3)]
  | .mand d a b => [(d, 6), (a, 6), (b, 6)]
  | .mor d a b => [(d, 6), (a, 6), (b, 6)]
  | .mxor d a b => [(d, 6), (a, 6), (b, 6)]
  | .mnot d a => [(d, 6), (a, 6)]
  | .mmov d a => [(d, 6), (a, 6)]
  | .mma z f p e => [(z, 3), (f, 3), (p, 3), (e, 1)]
  | .mmaz z f p e => [(z, 3), (f, 3), (p, 3), (e, 1)]
  | .achain z w => [(z, 3), (w, 4)]
  | .tset t k => [(t, 3), (k, 8)]
  | .aalloc z k => [(z, 3), (k, 8)]
  | .afree z => [(z, 3)]
  | .azero z => [(z, 3)]
  | .astore z x w => [(z, 3), (x, 1), (w, 4)]
  | .aload z x w => [(z, 3), (x, 1), (w, 4)]
  | .amovv z v s => [(z, 3), (v, 4), (s, 4)]
  | .winit p r => [(p, 3), (r, 4)]
  | .walk z f p e k => [(z, 3), (f, 3), (p, 3), (e, 1), (k, 8)]
  | .wstep z f p e => [(z, 3), (f, 3), (p, 3), (e, 1)]
  | .wres p d s => [(p, 3), (d, 4), (s, 4)]
  | .wfix p s => [(p, 3), (s, 4)]
  | .wcnt p x d => [(p, 3), (x, 3), (d, 4)]
  | .send a b n => [(a, 6), (b, 6), (n, 3)]
  | .sendr d a b n => [(d, 6), (a, 6), (b, 6), (n, 3)]
  | .reply a b n => [(a, 6), (b, 6), (n, 3)]
  | .bind d a => [(d, 6), (a, 6)]
  | .unbind d => [(d, 6)]
  | .hmask a b => [(a, 6), (b, 6)]
  | .hprio a b => [(a, 6), (b, 6)]
  | .peek d a => [(d, 6), (a, 6)]
  | .drop a => [(a, 6)]
  | .yield => []
  | .exit => []
  | .launch d a => [(d, 6), (a, 6)]
  | .mqfold d a b => [(d, 6), (a, 6), (b, 6)]
  | .mqbind a b => [(a, 6), (b, 6)]
  | .mqdrain a => [(a, 6)]
  | .mqstat d a => [(d, 6), (a, 6)]
  | .mqcfg a b => [(a, 6), (b, 6)]
  | .ldB d b i => [(d, 4), (b, 4), (i, 10)]
  | .ldH d b i => [(d, 4), (b, 4), (i, 10)]
  | .ldW d b i => [(d, 4), (b, 4), (i, 10)]
  | .ldD d b i => [(d, 4), (b, 4), (i, 10)]
  | .ldSb d b i => [(d, 4), (b, 4), (i, 10)]
  | .ldSh d b i => [(d, 4), (b, 4), (i, 10)]
  | .ldSw d b i => [(d, 4), (b, 4), (i, 10)]
  | .stB d b i => [(d, 4), (b, 4), (i, 10)]
  | .stH d b i => [(d, 4), (b, 4), (i, 10)]
  | .stW d b i => [(d, 4), (b, 4), (i, 10)]
  | .stD d b i => [(d, 4), (b, 4), (i, 10)]
  | .ldv v b t i => [(v, 4), (b, 4), (t, 5), (i, 10)]
  | .stv v b t i => [(v, 4), (b, 4), (t, 5), (i, 10)]
  | .rld d a => [(d, 6), (a, 6)]
  | .rst a b => [(a, 6), (b, 6)]
  | .rdf a b => [(a, 6), (b, 6)]
  | .wrf d a b => [(d, 6), (a, 6), (b, 6)]
  | .ldf d a => [(d, 6), (a, 6)]
  | .stf a b => [(a, 6), (b, 6)]
  | .cas d a b => [(d, 6), (a, 6), (b, 6)]
  | .amoAdd d a b => [(d, 6), (a, 6), (b, 6)]
  | .amoAnd d a b => [(d, 6), (a, 6), (b, 6)]
  | .amoOr d a b => [(d, 6), (a, 6), (b, 6)]
  | .amoXor d a b => [(d, 6), (a, 6), (b, 6)]
  | .amoMin d a b => [(d, 6), (a, 6), (b, 6)]
  | .amoMax d a b => [(d, 6), (a, 6), (b, 6)]
  | .amoMinu d a b => [(d, 6), (a, 6), (b, 6)]
  | .amoSwap d a b => [(d, 6), (a, 6), (b, 6)]
  | .phase a s => [(a, 6), (s, 6)]
  | .fence s => [(s, 6)]
  | .tstate d a => [(d, 6), (a, 6)]
  | .twait a b => [(a, 6), (b, 6)]
  | .lfill a b => [(a, 6), (b, 6)]
  | .lempty a b => [(a, 6), (b, 6)]
  | .semp a => [(a, 6)]
  | .semv a => [(a, 6)]
  | .semr d a => [(d, 6), (a, 6)]
  | .strm d a => [(d, 6), (a, 6)]
  | .strmx d a b => [(d, 6), (a, 6), (b, 6)]
  | .strmoff d => [(d, 6)]
  | .xfer d a b => [(d, 6), (a, 6), (b, 6)]
  | .gath d a b => [(d, 6), (a, 6), (b, 6)]
  | .gend => []
  | .mcast d a b => [(d, 6), (a, 6), (b, 6)]
  | .engq d a => [(d, 6), (a, 6)]
  | .glz d a => [(d, 6), (a, 6)]
  | .plane d a b => [(d, 6), (a, 6), (b, 6)]
  | .unplane d a b => [(d, 6), (a, 6), (b, 6)]
  | .lkenc d a b => [(d, 6), (a, 6), (b, 6)]
  | .lkdec d a b => [(d, 6), (a, 6), (b, 6)]
  | .srr r n => [(r, 6), (n, 14)]
  | .srw r n => [(r, 6), (n, 14)]
  | .trap n => [(n, 14)]
  | .bkpt n => [(n, 14)]
  | .mirror s i f => [(s, 2), (i, 8), (f, 1)]
  | .eret => []
  | .halt r => [(r, 6)]
  | .image r => [(r, 6)]
  | .resume r => [(r, 6)]
  | .tlbw r => [(r, 6)]
  | .tlbiDrain r => [(r, 6)]
  | .tlbiConfirm r => [(r, 6)]
  | .fltrplRetry r => [(r, 6)]
  | .fltrplFail r => [(r, 6)]
  | .activationStart ck ent => [(ck, 14), (ent, 5)]
  | .messageAccept _ => []
  | .refusalArrival _ code => [(code, 8)]
  | .neverRefusedEntry ck chan => [(ck, 14), (chan, 4)]
  | .launchReserve node lid => [(node, 12), (lid, 32)]
  | .launchCommit node lid => [(node, 12), (lid, 32)]
  | .launchReject lid => [(lid, 32)]
  | .rectangleEnd lid => [(lid, 32)]
  | .nearReadRequest _ => []
  | .nearReadReply _ _ _ => []
  | .nearStoreArrival _ => []
  | .nearAtomicArrival _ => []
  | .farMemoryAccess _ => []
  | .farAtomicService _ => []
  | .farReplyArrival _ status _ => [(status, 8)]
  | .foldRequestArrival _ => []
  | .foldRefusalArrival _ rsn => [(rsn, 8)]
  | .mqDispatch node slot => [(node, 12), (slot, 2)]
  | .dispatchDelivery node slot => [(node, 12), (slot, 2)]
  | .ageTick node => [(node, 12)]
  | .phaseDeparture _ => []
  | .chainReserveRequest _ => []
  | .chainGrant _ => []
  | .chainPartialArrival _ _ => []
  | .arrayRetire node => [(node, 12)]
  | .walkStepCommit node => [(node, 12)]
  | .faultReplyArrival requester _ => [(requester, 64)]
  | .engineCompletion node cmd => [(node, 12), (cmd, 4)]
  | .xferUnit node cmd => [(node, 12), (cmd, 4)]
  | .gatherStage node cmd => [(node, 12), (cmd, 4)]
  | .gatherElementIssue node cmd => [(node, 12), (cmd, 4)]
  | .gatherElementLand node cmd elem => [(node, 12), (cmd, 4), (elem, 24)]
  | .streamFetch node unit => [(node, 12), (unit, 2)]
  | .mcastUnit node cmd recv => [(node, 12), (cmd, 4), (recv, 11)]
  | .bufferFreeAcknowledgement node cmd => [(node, 12), (cmd, 4)]
  | .glzPoint node cmd => [(node, 12), (cmd, 4)]
  | .tileEntryWrite r e => [(r, 6), (e, 6)]
  | .tileEntryArm r e => [(r, 6), (e, 6)]
  | .faultQueuePop r => [(r, 6)]
  | .faultQueueClearOvf r => [(r, 6)]
  | .fabricSend r => [(r, 6)]
  | .fabricAcknowledgement node cmd status => [(node, 12), (cmd, 4), (status, 8)]
  | .fabricArrival _ => []
  | .matchArm r e => [(r, 6), (e, 7)]
  | .matchDisarm r e => [(r, 6), (e, 7)]
  | .imageStop node lid => [(node, 12), (lid, 32)]
  | .vatImage node lid => [(node, 12), (lid, 32)]
  | .imageVerdict lid => [(lid, 32)]
  | .resumeReserve node job => [(node, 12), (job, 64)]
  | .resumeRestore job => [(job, 64)]
  | .debugHalt ck => [(ck, 14)]
  | .debugRelease ck => [(ck, 14)]
  | .debugStep ck => [(ck, 14)]
  | .debugSetHob ck hob => [(ck, 14), (hob, 1)]
  | .fatalFault => []
  | .deviceReset => []
  | .boot _ => []
  | .throttleStep d => [(d.die, 3)]
  | .throttleRecover d => [(d.die, 3)]
  | .eccError _ => []
  | .scrub _ => []
  | .marginMessage lane vmarg hmarg => [(lane, 18), (vmarg, 16), (hmarg, 16)]
  | .laneRetrain r => [(r, 6)]
  | .retrainDone link => [(link, 8)]
  | .laneRepair r => [(r, 6)]
  | .loadFrame _ => []
  | .launchFrame _ => []
  | .readFrame _ => []
  | .syncFrame _ => []
  | .peersFrame _ => []
  | .peersApply => []
  | .frameResend seq => [(seq, 64)]
  | .illegalEncoding nbits w => [(nbits, 6), (w, nbits)]
  | .fabricDeliveryFailure node cmd => [(node, 12), (cmd, 4)]

/-- The instruction is well formed. -/
def Instr.wf (i : Instr) : Bool := fits (rangesOf i)

end Sys2Proof
end

