-- ==== Sys2Proof/Decode.lean ====
section
/-!
DEFINITION. The decoder (03 R32 to R47): total on any bytes, rejecting by name, then the encoder, from the same tables of the spec.
-/
namespace Sys2Proof

/-- Why bytes are no instruction (R46). -/
inductive Reject where
  /-- Fewer bytes than the form needs. -/
  | truncated
  /-- A halfword with bit 0 clear, op4 = 0 and k = 0. -/
  | zero
  /-- Opcodes 0x60 to 0x6F and 0x7F. -/
  | reserved
  /-- Opcodes 0x70 to 0x7E, for the emulation trap. -/
  | emulated
  /-- An assigned opcode with a sub-op, variant or reserved field that Table 3-12 does not list. -/
  | unlisted
  deriving DecidableEq, Repr

/-- An instruction as decoded: one of form S is held as such. -/
inductive Decoded where
  | ins (i : Instr)
  | sys (i : SysInstr)
  deriving DecidableEq, Repr

/-- The instruction decoded. -/
noncomputable def Decoded.toInstr : Decoded → Instr
  | .ins i => i
  | .sys i => i.toInstr

/-- The 16-bit form (R33, R34): op4 in bits 4:1, d in 9:5, b in 14:10, k in 15. -/
def decode16 (w : Nat) : Option Instr :=
  match fld w 1 4 with
  | 0 => if fld w 15 1 == 1 then some (.mov16 (fld w 5 5) (fld w 10 5)) else none
  | 1 => some (.add16 (fld w 5 5) (fld w 10 5) (fld w 15 1))
  | 2 => some (.sub16 (fld w 5 5) (fld w 10 5) (fld w 15 1))
  | 3 => some (.mul16 (fld w 5 5) (fld w 10 5) (fld w 15 1))
  | 4 => some (.min16 (fld w 5 5) (fld w 10 5) (fld w 15 1))
  | 5 => some (.max16 (fld w 5 5) (fld w 10 5) (fld w 15 1))
  | 6 => some (.and16 (fld w 5 5) (fld w 10 5) (fld w 15 1))
  | 7 => some (.or16 (fld w 5 5) (fld w 10 5) (fld w 15 1))
  | 8 => some (.xor16 (fld w 5 5) (fld w 10 5) (fld w 15 1))
  | 9 => some (.andn16 (fld w 5 5) (fld w 10 5) (fld w 15 1))
  | 10 => some (.shl16 (fld w 5 5) (fld w 10 5) (fld w 15 1))
  | 11 => some (.shr16 (fld w 5 5) (fld w 10 5) (fld w 15 1))
  | 12 => some (.sar16 (fld w 5 5) (fld w 10 5) (fld w 15 1))
  | 13 => some (.neg16 (fld w 5 5) (fld w 10 5) (fld w 15 1))
  | 14 => some (.abs16 (fld w 5 5) (fld w 10 5) (fld w 15 1))
  | 15 => some (.not16 (fld w 5 5) (fld w 10 5) (fld w 15 1))
  | _ => none

/-- Opcode 0x00. -/
def decodeOp00 (w : Nat) : Option Decoded :=
  match fld w 26 6 with
  | 0 => some (.ins (.add (fld w 8 6) (fld w 14 6) (fld w 20 6)))
  | 1 => some (.ins (.sub (fld w 8 6) (fld w 14 6) (fld w 20 6)))
  | 2 => some (.ins (.mul (fld w 8 6) (fld w 14 6) (fld w 20 6)))
  | 3 => some (.ins (.mulh (fld w 8 6) (fld w 14 6) (fld w 20 6)))
  | 4 => some (.ins (.mulhu (fld w 8 6) (fld w 14 6) (fld w 20 6)))
  | 5 => some (.ins (.div (fld w 8 6) (fld w 14 6) (fld w 20 6)))
  | 6 => some (.ins (.divu (fld w 8 6) (fld w 14 6) (fld w 20 6)))
  | 7 => some (.ins (.rem (fld w 8 6) (fld w 14 6) (fld w 20 6)))
  | _ => none

/-- Opcode 0x01. -/
def decodeOp01 (w : Nat) : Option Decoded :=
  match fld w 26 6 with
  | 0 => some (.ins (.and (fld w 8 6) (fld w 14 6) (fld w 20 6)))
  | 1 => some (.ins (.or (fld w 8 6) (fld w 14 6) (fld w 20 6)))
  | 2 => some (.ins (.xor (fld w 8 6) (fld w 14 6) (fld w 20 6)))
  | 3 => some (.ins (.andn (fld w 8 6) (fld w 14 6) (fld w 20 6)))
  | 4 => some (.ins (.shl (fld w 8 6) (fld w 14 6) (fld w 20 6)))
  | 5 => some (.ins (.shr (fld w 8 6) (fld w 14 6) (fld w 20 6)))
  | 6 => some (.ins (.sar (fld w 8 6) (fld w 14 6) (fld w 20 6)))
  | 7 => some (.ins (.ror (fld w 8 6) (fld w 14 6) (fld w 20 6)))
  | _ => none

/-- Opcode 0x02. -/
def decodeOp02 (w : Nat) : Option Decoded :=
  match fld w 26 6 with
  | 0 => some (.ins (.min (fld w 8 6) (fld w 14 6) (fld w 20 6)))
  | 1 => some (.ins (.max (fld w 8 6) (fld w 14 6) (fld w 20 6)))
  | 2 => some (.ins (.minu (fld w 8 6) (fld w 14 6) (fld w 20 6)))
  | 3 => some (.ins (.maxu (fld w 8 6) (fld w 14 6) (fld w 20 6)))
  | 4 => some (.ins (.slt (fld w 8 6) (fld w 14 6) (fld w 20 6)))
  | 5 => some (.ins (.sltu (fld w 8 6) (fld w 14 6) (fld w 20 6)))
  | 6 => some (.ins (.seq (fld w 8 6) (fld w 14 6) (fld w 20 6)))
  | 7 => some (.ins (.remu (fld w 8 6) (fld w 14 6) (fld w 20 6)))
  | _ => none

/-- Opcode 0x03. -/
def decodeOp03 (w : Nat) : Option Decoded :=
  match fld w 26 6 with
  | 0 => if fld w 20 6 == 0 then some (.ins (.mov (fld w 8 6) (fld w 14 6))) else none
  | 1 => if fld w 20 6 == 0 then some (.ins (.clz (fld w 8 6) (fld w 14 6))) else none
  | 2 => if fld w 20 6 == 0 then some (.ins (.ctz (fld w 8 6) (fld w 14 6))) else none
  | 3 => if fld w 20 6 == 0 then some (.ins (.popc (fld w 8 6) (fld w 14 6))) else none
  | 4 => if fld w 20 6 == 0 then some (.ins (.bswap (fld w 8 6) (fld w 14 6))) else none
  | 5 => some (.ins (.sext (fld w 8 6) (fld w 14 6) (fld w 20 6)))
  | 6 => some (.ins (.arel (fld w 8 6) (fld w 14 6) (fld w 20 6)))
  | 7 => some (.ins (.axy (fld w 8 6) (fld w 14 6) (fld w 20 6)))
  | _ => none

/-- Opcode 0x04. -/
def decodeOp04 (w : Nat) : Option Decoded :=
  match fld w 28 4 with
  | 0 => some (.ins (.addK (fld w 8 6) (fld w 14 6) (fld w 20 8)))
  | 1 => some (.ins (.subK (fld w 8 6) (fld w 14 6) (fld w 20 8)))
  | _ => none

/-- Opcode 0x05. -/
def decodeOp05 (w : Nat) : Option Decoded :=
  match fld w 28 4 with
  | 0 => some (.ins (.mulK (fld w 8 6) (fld w 14 6) (fld w 20 8)))
  | 1 => some (.ins (.mulhK (fld w 8 6) (fld w 14 6) (fld w 20 8)))
  | _ => none

/-- Opcode 0x06. -/
def decodeOp06 (w : Nat) : Option Decoded :=
  match fld w 28 4 with
  | 0 => some (.ins (.andK (fld w 8 6) (fld w 14 6) (fld w 20 8)))
  | 1 => some (.ins (.orK (fld w 8 6) (fld w 14 6) (fld w 20 8)))
  | _ => none

/-- Opcode 0x07. -/
def decodeOp07 (w : Nat) : Option Decoded :=
  match fld w 28 4 with
  | 0 => some (.ins (.xorK (fld w 8 6) (fld w 14 6) (fld w 20 8)))
  | 1 => some (.ins (.andnK (fld w 8 6) (fld w 14 6) (fld w 20 8)))
  | _ => none

/-- Opcode 0x08. -/
def decodeOp08 (w : Nat) : Option Decoded :=
  match fld w 28 4 with
  | 0 => some (.ins (.minK (fld w 8 6) (fld w 14 6) (fld w 20 8)))
  | 1 => some (.ins (.maxK (fld w 8 6) (fld w 14 6) (fld w 20 8)))
  | _ => none

/-- Opcode 0x09. -/
def decodeOp09 (w : Nat) : Option Decoded :=
  match fld w 28 4 with
  | 0 => some (.ins (.minuK (fld w 8 6) (fld w 14 6) (fld w 20 8)))
  | 1 => some (.ins (.maxuK (fld w 8 6) (fld w 14 6) (fld w 20 8)))
  | _ => none

/-- Opcode 0x0A. -/
def decodeOp0A (w : Nat) : Option Decoded :=
  match fld w 28 4 with
  | 0 => some (.ins (.sltK (fld w 8 6) (fld w 14 6) (fld w 20 8)))
  | 1 => some (.ins (.sltuK (fld w 8 6) (fld w 14 6) (fld w 20 8)))
  | _ => none

/-- Opcode 0x0B. -/
def decodeOp0B (w : Nat) : Option Decoded :=
  match fld w 28 4 with
  | 0 => some (.ins (.seqK (fld w 8 6) (fld w 14 6) (fld w 20 8)))
  | 1 => if fld w 14 6 == 0 then some (.ins (.movK (fld w 8 6) (fld w 20 8))) else none
  | _ => none

/-- Opcode 0x0C. -/
def decodeOp0C (w : Nat) : Option Decoded :=
  match fld w 28 4 with
  | 0 => some (.ins (.divK (fld w 8 6) (fld w 14 6) (fld w 20 8)))
  | 1 => some (.ins (.divuK (fld w 8 6) (fld w 14 6) (fld w 20 8)))
  | _ => none

/-- Opcode 0x0D. -/
def decodeOp0D (w : Nat) : Option Decoded :=
  match fld w 28 4 with
  | 0 => some (.ins (.arelK (fld w 8 6) (fld w 14 6) (fld w 20 8)))
  | 1 => some (.ins (.axyK (fld w 8 6) (fld w 14 6) (fld w 20 8)))
  | _ => none

/-- Opcode 0x0E. -/
def decodeOp0E (w : Nat) : Option Decoded :=
  match fld w 26 6 with
  | 0 => some (.ins (.shlImm (fld w 8 6) (fld w 14 6) (fld w 20 6)))
  | 4 => some (.ins (.shrImm (fld w 8 6) (fld w 14 6) (fld w 20 6)))
  | _ => none

/-- Opcode 0x0F. -/
def decodeOp0F (w : Nat) : Option Decoded :=
  match fld w 26 6 with
  | 0 => some (.ins (.sarImm (fld w 8 6) (fld w 14 6) (fld w 20 6)))
  | 4 => some (.ins (.rorImm (fld w 8 6) (fld w 14 6) (fld w 20 6)))
  | _ => none

/-- Opcodes 0x00 to 0x0F: scalar instructions on W registers. -/
def decodeScalar (op w : Nat) : Option Decoded :=
  match op with
  | 0x00 => decodeOp00 w
  | 0x01 => decodeOp01 w
  | 0x02 => decodeOp02 w
  | 0x03 => decodeOp03 w
  | 0x04 => decodeOp04 w
  | 0x05 => decodeOp05 w
  | 0x06 => decodeOp06 w
  | 0x07 => decodeOp07 w
  | 0x08 => decodeOp08 w
  | 0x09 => decodeOp09 w
  | 0x0a => decodeOp0A w
  | 0x0b => decodeOp0B w
  | 0x0c => decodeOp0C w
  | 0x0d => decodeOp0D w
  | 0x0e => decodeOp0E w
  | 0x0f => decodeOp0F w
  | _ => none

/-- Opcode 0x19. -/
def decodeOp19 (w : Nat) : Option Decoded :=
  match fld w 20 12 with
  | 0 => if fld w 8 6 == 0 then some (.ins (.jr (fld w 14 6))) else none
  | 64 => if fld w 8 6 == 0 then some (.ins (.callr (fld w 14 6))) else none
  | 128 => if fld w 8 12 == 0 then some (.ins (.nop)) else none
  | _ => none

/-- Opcodes 0x10 to 0x19: control instructions. -/
def decodeControl (op w : Nat) : Option Decoded :=
  match op with
  | 0x10 => some (.ins (.beq (fld w 8 6) (fld w 14 6) (fld w 20 12)))
  | 0x11 => some (.ins (.bne (fld w 8 6) (fld w 14 6) (fld w 20 12)))
  | 0x12 => some (.ins (.blt (fld w 8 6) (fld w 14 6) (fld w 20 12)))
  | 0x13 => some (.ins (.bge (fld w 8 6) (fld w 14 6) (fld w 20 12)))
  | 0x14 => some (.ins (.bltu (fld w 8 6) (fld w 14 6) (fld w 20 12)))
  | 0x15 => some (.ins (.bgeu (fld w 8 6) (fld w 14 6) (fld w 20 12)))
  | 0x16 => if fld w 14 6 == 0 then some (.ins (.loop (fld w 8 6) (fld w 20 12))) else none
  | 0x17 => some (.ins (.j (fld w 8 24)))
  | 0x18 => some (.ins (.call (fld w 8 24)))
  | 0x19 => decodeOp19 w
  | _ => none

/-- Opcode 0x1A. -/
def decodeOp1A (w : Nat) : Option Decoded :=
  match fld w 26 3 with
  | 0 => some (.ins (.vadd (fld w 8 6) (fld w 14 6) (fld w 20 6) (fld w 29 3)))
  | 1 => some (.ins (.vsub (fld w 8 6) (fld w 14 6) (fld w 20 6) (fld w 29 3)))
  | 2 => some (.ins (.vmul (fld w 8 6) (fld w 14 6) (fld w 20 6) (fld w 29 3)))
  | 3 => some (.ins (.vdiv (fld w 8 6) (fld w 14 6) (fld w 20 6) (fld w 29 3)))
  | 4 => some (.ins (.vmin (fld w 8 6) (fld w 14 6) (fld w 20 6) (fld w 29 3)))
  | 5 => some (.ins (.vmax (fld w 8 6) (fld w 14 6) (fld w 20 6) (fld w 29 3)))
  | 6 => some (.ins (.vfma (fld w 8 6) (fld w 14 6) (fld w 20 6) (fld w 29 3)))
  | 7 => some (.ins (.vfms (fld w 8 6) (fld w 14 6) (fld w 20 6) (fld w 29 3)))
  | _ => none

/-- Opcode 0x1B. -/
def decodeOp1B (w : Nat) : Option Decoded :=
  match fld w 26 3 with
  | 0 => some (.ins (.vand (fld w 8 6) (fld w 14 6) (fld w 20 6) (fld w 29 3)))
  | 1 => some (.ins (.vor (fld w 8 6) (fld w 14 6) (fld w 20 6) (fld w 29 3)))
  | 2 => some (.ins (.vxor (fld w 8 6) (fld w 14 6) (fld w 20 6) (fld w 29 3)))
  | 3 => some (.ins (.vandn (fld w 8 6) (fld w 14 6) (fld w 20 6) (fld w 29 3)))
  | 4 => some (.ins (.vshl (fld w 8 6) (fld w 14 6) (fld w 20 6) (fld w 29 3)))
  | 5 => some (.ins (.vshr (fld w 8 6) (fld w 14 6) (fld w 20 6) (fld w 29 3)))
  | 6 => some (.ins (.vsar (fld w 8 6) (fld w 14 6) (fld w 20 6) (fld w 29 3)))
  | 7 => some (.ins (.vsel (fld w 8 6) (fld w 14 6) (fld w 20 6) (fld w 29 3)))
  | _ => none

/-- Opcode 0x1C. -/
def decodeOp1C (w : Nat) : Option Decoded :=
  match fld w 26 3 with
  | 0 => some (.ins (.vcmpeq (fld w 8 6) (fld w 14 6) (fld w 20 6) (fld w 29 3)))
  | 1 => some (.ins (.vcmplt (fld w 8 6) (fld w 14 6) (fld w 20 6) (fld w 29 3)))
  | 2 => some (.ins (.vcmple (fld w 8 6) (fld w 14 6) (fld w 20 6) (fld w 29 3)))
  | 3 => some (.ins (.vdot (fld w 8 6) (fld w 14 6) (fld w 20 6) (fld w 29 3)))
  | 4 => some (.ins (.vperm (fld w 8 6) (fld w 14 6) (fld w 20 6) (fld w 29 3)))
  | 5 => some (.ins (.vbcast (fld w 8 6) (fld w 14 6) (fld w 20 6) (fld w 29 3)))
  | 6 => some (.ins (.vext (fld w 8 6) (fld w 14 6) (fld w 20 6) (fld w 29 3)))
  | 7 => some (.ins (.vins (fld w 8 6) (fld w 14 6) (fld w 20 6) (fld w 29 3)))
  | _ => none

/-- Opcode 0x1D. -/
def decodeOp1D (w : Nat) : Option Decoded :=
  match fld w 26 3 with
  | 0 => if fld w 20 6 == 0 then some (.ins (.vmov (fld w 8 6) (fld w 14 6) (fld w 29 3))) else none
  | 1 => if fld w 20 6 == 0 then some (.ins (.vabs (fld w 8 6) (fld w 14 6) (fld w 29 3))) else none
  | 2 => if fld w 20 6 == 0 then some (.ins (.vneg (fld w 8 6) (fld w 14 6) (fld w 29 3))) else none
  | 3 => if fld w 20 6 == 0 then some (.ins (.vsqrt (fld w 8 6) (fld w 14 6) (fld w 29 3))) else none
  | 4 => some (.ins (.vcvt (fld w 8 6) (fld w 14 6) (fld w 20 6) (fld w 29 3)))
  | 5 => some (.ins (.vtag (fld w 8 6) (fld w 14 6) (fld w 20 6) (fld w 29 3)))
  | 6 => some (.ins (.vred (fld w 8 6) (fld w 14 6) (fld w 20 6) (fld w 29 3)))
  | 7 => some (.ins (.vnzs (fld w 8 6) (fld w 14 6) (fld w 20 6) (fld w 29 3)))
  | _ => none

/-- Opcode 0x1E. -/
def decodeOp1E (w : Nat) : Option Decoded :=
  match fld w 28 1 with
  | 0 => some (.ins (.vaddK (fld w 8 6) (fld w 14 6) (fld w 20 8) (fld w 29 3)))
  | 1 => some (.ins (.vsubK (fld w 8 6) (fld w 14 6) (fld w 20 8) (fld w 29 3)))
  | _ => none

/-- Opcode 0x1F. -/
def decodeOp1F (w : Nat) : Option Decoded :=
  match fld w 28 1 with
  | 0 => some (.ins (.vmulK (fld w 8 6) (fld w 14 6) (fld w 20 8) (fld w 29 3)))
  | 1 => some (.ins (.vfmaK (fld w 8 6) (fld w 14 6) (fld w 20 8) (fld w 29 3)))
  | _ => none

/-- Opcode 0x20. -/
def decodeOp20 (w : Nat) : Option Decoded :=
  match fld w 28 1 with
  | 0 => some (.ins (.vminK (fld w 8 6) (fld w 14 6) (fld w 20 8) (fld w 29 3)))
  | 1 => some (.ins (.vmaxK (fld w 8 6) (fld w 14 6) (fld w 20 8) (fld w 29 3)))
  | _ => none

/-- Opcode 0x21. -/
def decodeOp21 (w : Nat) : Option Decoded :=
  match fld w 28 1 with
  | 0 => some (.ins (.vandK (fld w 8 6) (fld w 14 6) (fld w 20 8) (fld w 29 3)))
  | 1 => some (.ins (.vorK (fld w 8 6) (fld w 14 6) (fld w 20 8) (fld w 29 3)))
  | _ => none

/-- Opcode 0x22. -/
def decodeOp22 (w : Nat) : Option Decoded :=
  match fld w 28 1 with
  | 0 => some (.ins (.vxorK (fld w 8 6) (fld w 14 6) (fld w 20 8) (fld w 29 3)))
  | 1 => some (.ins (.vandnK (fld w 8 6) (fld w 14 6) (fld w 20 8) (fld w 29 3)))
  | _ => none

/-- Opcode 0x23. -/
def decodeOp23 (w : Nat) : Option Decoded :=
  match fld w 28 1 with
  | 0 => some (.ins (.vcmpeqK (fld w 8 6) (fld w 14 6) (fld w 20 8) (fld w 29 3)))
  | 1 => some (.ins (.vcmpltK (fld w 8 6) (fld w 14 6) (fld w 20 8) (fld w 29 3)))
  | _ => none

/-- Opcode 0x24. -/
def decodeOp24 (w : Nat) : Option Decoded :=
  match fld w 28 1 with
  | 0 => some (.ins (.vcmpleK (fld w 8 6) (fld w 14 6) (fld w 20 8) (fld w 29 3)))
  | 1 => some (.ins (.vbcastK (fld w 8 6) (fld w 14 6) (fld w 20 8) (fld w 29 3)))
  | _ => none

/-- Opcode 0x25. -/
def decodeOp25 (w : Nat) : Option Decoded :=
  match fld w 26 3 with
  | 0 => some (.ins (.vshlImm (fld w 8 6) (fld w 14 6) (fld w 20 6) (fld w 29 3)))
  | 4 => some (.ins (.vshrImm (fld w 8 6) (fld w 14 6) (fld w 20 6) (fld w 29 3)))
  | _ => none

/-- Opcode 0x27. -/
def decodeOp27 (w : Nat) : Option Decoded :=
  match fld w 26 3 with
  | 0 => some (.ins (.vaddRel (fld w 8 6) (fld w 14 6) (fld w 20 6) (fld w 29 3)))
  | 1 => some (.ins (.vsubRel (fld w 8 6) (fld w 14 6) (fld w 20 6) (fld w 29 3)))
  | 2 => some (.ins (.vmulRel (fld w 8 6) (fld w 14 6) (fld w 20 6) (fld w 29 3)))
  | 3 => some (.ins (.vdivRel (fld w 8 6) (fld w 14 6) (fld w 20 6) (fld w 29 3)))
  | 4 => some (.ins (.vminRel (fld w 8 6) (fld w 14 6) (fld w 20 6) (fld w 29 3)))
  | 5 => some (.ins (.vmaxRel (fld w 8 6) (fld w 14 6) (fld w 20 6) (fld w 29 3)))
  | 6 => some (.ins (.vfmaRel (fld w 8 6) (fld w 14 6) (fld w 20 6) (fld w 29 3)))
  | 7 => some (.ins (.vfmsRel (fld w 8 6) (fld w 14 6) (fld w 20 6) (fld w 29 3)))
  | _ => none

/-- Opcode 0x28. -/
def decodeOp28 (w : Nat) : Option Decoded :=
  match fld w 26 3 with
  | 0 => some (.ins (.vandRel (fld w 8 6) (fld w 14 6) (fld w 20 6) (fld w 29 3)))
  | 1 => some (.ins (.vorRel (fld w 8 6) (fld w 14 6) (fld w 20 6) (fld w 29 3)))
  | 2 => some (.ins (.vxorRel (fld w 8 6) (fld w 14 6) (fld w 20 6) (fld w 29 3)))
  | 3 => some (.ins (.vandnRel (fld w 8 6) (fld w 14 6) (fld w 20 6) (fld w 29 3)))
  | 4 => some (.ins (.vshlRel (fld w 8 6) (fld w 14 6) (fld w 20 6) (fld w 29 3)))
  | 5 => some (.ins (.vshrRel (fld w 8 6) (fld w 14 6) (fld w 20 6) (fld w 29 3)))
  | 6 => some (.ins (.vsarRel (fld w 8 6) (fld w 14 6) (fld w 20 6) (fld w 29 3)))
  | 7 => some (.ins (.vselRel (fld w 8 6) (fld w 14 6) (fld w 20 6) (fld w 29 3)))
  | _ => none

/-- Opcode 0x29. -/
def decodeOp29 (w : Nat) : Option Decoded :=
  match fld w 26 3 with
  | 0 => some (.ins (.vcmpeqRel (fld w 8 6) (fld w 14 6) (fld w 20 6) (fld w 29 3)))
  | 1 => some (.ins (.vcmpltRel (fld w 8 6) (fld w 14 6) (fld w 20 6) (fld w 29 3)))
  | 2 => some (.ins (.vcmpleRel (fld w 8 6) (fld w 14 6) (fld w 20 6) (fld w 29 3)))
  | 3 => some (.ins (.vdotRel (fld w 8 6) (fld w 14 6) (fld w 20 6) (fld w 29 3)))
  | 4 => some (.ins (.vpermRel (fld w 8 6) (fld w 14 6) (fld w 20 6) (fld w 29 3)))
  | _ => none

/-- Opcode 0x2A. -/
def decodeOp2A (w : Nat) : Option Decoded :=
  match fld w 20 9 with
  | 0 => some (.ins (.vmovRelA (fld w 8 6) (fld w 14 6) (fld w 29 3)))
  | 64 => some (.ins (.vmovRelD (fld w 8 6) (fld w 14 6) (fld w 29 3)))
  | _ => none

/-- Opcode 0x2B. -/
def decodeOp2B (w : Nat) : Option Decoded :=
  match fld w 26 6 with
  | 0 => some (.ins (.mand (fld w 8 6) (fld w 14 6) (fld w 20 6)))
  | 1 => some (.ins (.mor (fld w 8 6) (fld w 14 6) (fld w 20 6)))
  | 2 => some (.ins (.mxor (fld w 8 6) (fld w 14 6) (fld w 20 6)))
  | 3 => if fld w 20 6 == 0 then some (.ins (.mnot (fld w 8 6) (fld w 14 6))) else none
  | 4 => if fld w 20 6 == 0 then some (.ins (.mmov (fld w 8 6) (fld w 14 6))) else none
  | _ => none

/-- Opcodes 0x1A to 0x2B: vector and mask instructions. -/
def decodeVector (op w : Nat) : Option Decoded :=
  match op with
  | 0x1a => decodeOp1A w
  | 0x1b => decodeOp1B w
  | 0x1c => decodeOp1C w
  | 0x1d => decodeOp1D w
  | 0x1e => decodeOp1E w
  | 0x1f => decodeOp1F w
  | 0x20 => decodeOp20 w
  | 0x21 => decodeOp21 w
  | 0x22 => decodeOp22 w
  | 0x23 => decodeOp23 w
  | 0x24 => decodeOp24 w
  | 0x25 => decodeOp25 w
  | 0x26 => if fld w 26 3 == 0 then some (.ins (.vsarImm (fld w 8 6) (fld w 14 6) (fld w 20 6) (fld w 29 3))) else none
  | 0x27 => decodeOp27 w
  | 0x28 => decodeOp28 w
  | 0x29 => decodeOp29 w
  | 0x2a => decodeOp2A w
  | 0x2b => decodeOp2B w
  | _ => none

/-- Opcodes 0x2C to 0x3B: matrix and walk instructions. -/
def decodeMatrix (op w : Nat) : Option Decoded :=
  match op with
  | 0x2c => if fld w 18 14 == 0 then some (.ins (.mma (fld w 8 3) (fld w 11 3) (fld w 14 3) (fld w 17 1))) else none
  | 0x2d => if fld w 18 14 == 0 then some (.ins (.mmaz (fld w 8 3) (fld w 11 3) (fld w 14 3) (fld w 17 1))) else none
  | 0x2e => if fld w 11 9 == 0 && fld w 24 8 == 0 then some (.ins (.achain (fld w 8 3) (fld w 20 4))) else none
  | 0x2f => if fld w 8 3 == 0 && fld w 14 6 == 0 && fld w 28 4 == 0 then some (.ins (.tset (fld w 11 3) (fld w 20 8))) else none
  | 0x30 => if fld w 11 9 == 0 && fld w 28 4 == 0 then some (.ins (.aalloc (fld w 8 3) (fld w 20 8))) else none
  | 0x31 => if fld w 11 21 == 0 then some (.ins (.afree (fld w 8 3))) else none
  | 0x32 => if fld w 11 21 == 0 then some (.ins (.azero (fld w 8 3))) else none
  | 0x33 => if fld w 11 6 == 0 && fld w 18 2 == 0 && fld w 24 8 == 0 then some (.ins (.astore (fld w 8 3) (fld w 17 1) (fld w 20 4))) else none
  | 0x34 => if fld w 11 6 == 0 && fld w 18 2 == 0 && fld w 24 8 == 0 then some (.ins (.aload (fld w 8 3) (fld w 17 1) (fld w 20 4))) else none
  | 0x35 => if fld w 11 9 == 0 && fld w 28 4 == 0 then some (.ins (.amovv (fld w 8 3) (fld w 20 4) (fld w 24 4))) else none
  | 0x36 => if fld w 8 6 == 0 && fld w 17 3 == 0 && fld w 24 8 == 0 then some (.ins (.winit (fld w 14 3) (fld w 20 4))) else none
  | 0x37 => if fld w 18 2 == 0 && fld w 28 4 == 0 then some (.ins (.walk (fld w 8 3) (fld w 11 3) (fld w 14 3) (fld w 17 1) (fld w 20 8))) else none
  | 0x38 => if fld w 18 14 == 0 then some (.ins (.wstep (fld w 8 3) (fld w 11 3) (fld w 14 3) (fld w 17 1))) else none
  | 0x39 => if fld w 8 6 == 0 && fld w 17 3 == 0 && fld w 28 4 == 0 then some (.ins (.wres (fld w 14 3) (fld w 20 4) (fld w 24 4))) else none
  | 0x3a => if fld w 8 6 == 0 && fld w 17 7 == 0 && fld w 28 4 == 0 then some (.ins (.wfix (fld w 14 3) (fld w 24 4))) else none
  | 0x3b => if fld w 8 6 == 0 && fld w 24 8 == 0 then some (.ins (.wcnt (fld w 14 3) (fld w 17 3) (fld w 20 4))) else none
  | _ => none

/-- Opcode 0x4B. -/
def decodeOp4B (w : Nat) : Option Decoded :=
  match fld w 26 6 with
  | 0 => if fld w 20 6 == 0 then some (.ins (.mqstat (fld w 8 6) (fld w 14 6))) else none
  | 1 => if fld w 8 6 == 0 then some (.ins (.mqcfg (fld w 14 6) (fld w 20 6))) else none
  | _ => none

/-- Opcodes 0x3C to 0x4B: message, handler and Mordant instructions. -/
def decodeHandler (op w : Nat) : Option Decoded :=
  match op with
  | 0x3c => if fld w 8 6 == 0 && fld w 29 3 == 0 then some (.ins (.send (fld w 14 6) (fld w 20 6) (fld w 26 3))) else none
  | 0x3d => if fld w 29 3 == 0 then some (.ins (.sendr (fld w 8 6) (fld w 14 6) (fld w 20 6) (fld w 26 3))) else none
  | 0x3e => if fld w 8 6 == 0 && fld w 29 3 == 0 then some (.ins (.reply (fld w 14 6) (fld w 20 6) (fld w 26 3))) else none
  | 0x3f => if fld w 20 12 == 0 then some (.ins (.bind (fld w 8 6) (fld w 14 6))) else none
  | 0x40 => if fld w 14 18 == 0 then some (.ins (.unbind (fld w 8 6))) else none
  | 0x41 => if fld w 8 6 == 0 && fld w 26 6 == 0 then some (.ins (.hmask (fld w 14 6) (fld w 20 6))) else none
  | 0x42 => if fld w 8 6 == 0 && fld w 26 6 == 0 then some (.ins (.hprio (fld w 14 6) (fld w 20 6))) else none
  | 0x43 => if fld w 20 12 == 0 then some (.ins (.peek (fld w 8 6) (fld w 14 6))) else none
  | 0x44 => if fld w 8 6 == 0 && fld w 20 12 == 0 then some (.ins (.drop (fld w 14 6))) else none
  | 0x45 => if fld w 8 24 == 0 then some (.ins (.yield)) else none
  | 0x46 => if fld w 8 24 == 0 then some (.ins (.exit)) else none
  | 0x47 => if fld w 20 12 == 0 then some (.ins (.launch (fld w 8 6) (fld w 14 6))) else none
  | 0x48 => if fld w 26 6 == 0 then some (.ins (.mqfold (fld w 8 6) (fld w 14 6) (fld w 20 6))) else none
  | 0x49 => if fld w 8 6 == 0 && fld w 26 6 == 0 then some (.ins (.mqbind (fld w 14 6) (fld w 20 6))) else none
  | 0x4a => if fld w 8 6 == 0 && fld w 20 12 == 0 then some (.ins (.mqdrain (fld w 14 6))) else none
  | 0x4b => decodeOp4B w
  | _ => none

/-- Opcode 0x4C. -/
def decodeOp4C (w : Nat) : Option Decoded :=
  match fld w 18 3 with
  | 0 => if fld w 12 2 == 0 && fld w 31 1 == 0 then some (.ins (.ldB (fld w 8 4) (fld w 14 4) (fld w 21 10))) else none
  | 1 => if fld w 12 2 == 0 && fld w 31 1 == 0 then some (.ins (.ldH (fld w 8 4) (fld w 14 4) (fld w 21 10))) else none
  | 2 => if fld w 12 2 == 0 && fld w 31 1 == 0 then some (.ins (.ldW (fld w 8 4) (fld w 14 4) (fld w 21 10))) else none
  | 3 => if fld w 12 2 == 0 && fld w 31 1 == 0 then some (.ins (.ldD (fld w 8 4) (fld w 14 4) (fld w 21 10))) else none
  | 4 => if fld w 12 2 == 0 && fld w 31 1 == 0 then some (.ins (.ldSb (fld w 8 4) (fld w 14 4) (fld w 21 10))) else none
  | 5 => if fld w 12 2 == 0 && fld w 31 1 == 0 then some (.ins (.ldSh (fld w 8 4) (fld w 14 4) (fld w 21 10))) else none
  | 6 => if fld w 12 2 == 0 && fld w 31 1 == 0 then some (.ins (.ldSw (fld w 8 4) (fld w 14 4) (fld w 21 10))) else none
  | _ => none

/-- Opcode 0x4D. -/
def decodeOp4D (w : Nat) : Option Decoded :=
  match fld w 18 3 with
  | 0 => if fld w 12 2 == 0 && fld w 31 1 == 0 then some (.ins (.stB (fld w 8 4) (fld w 14 4) (fld w 21 10))) else none
  | 1 => if fld w 12 2 == 0 && fld w 31 1 == 0 then some (.ins (.stH (fld w 8 4) (fld w 14 4) (fld w 21 10))) else none
  | 2 => if fld w 12 2 == 0 && fld w 31 1 == 0 then some (.ins (.stW (fld w 8 4) (fld w 14 4) (fld w 21 10))) else none
  | 3 => if fld w 12 2 == 0 && fld w 31 1 == 0 then some (.ins (.stD (fld w 8 4) (fld w 14 4) (fld w 21 10))) else none
  | _ => none

/-- Opcode 0x57. -/
def decodeOp57 (w : Nat) : Option Decoded :=
  match fld w 26 6 with
  | 0 => some (.ins (.amoAdd (fld w 8 6) (fld w 14 6) (fld w 20 6)))
  | 1 => some (.ins (.amoAnd (fld w 8 6) (fld w 14 6) (fld w 20 6)))
  | 2 => some (.ins (.amoOr (fld w 8 6) (fld w 14 6) (fld w 20 6)))
  | 3 => some (.ins (.amoXor (fld w 8 6) (fld w 14 6) (fld w 20 6)))
  | 4 => some (.ins (.amoMin (fld w 8 6) (fld w 14 6) (fld w 20 6)))
  | 5 => some (.ins (.amoMax (fld w 8 6) (fld w 14 6) (fld w 20 6)))
  | 6 => some (.ins (.amoMinu (fld w 8 6) (fld w 14 6) (fld w 20 6)))
  | 7 => some (.ins (.amoSwap (fld w 8 6) (fld w 14 6) (fld w 20 6)))
  | _ => none

/-- Opcode 0x58. -/
def decodeOp58 (w : Nat) : Option Decoded :=
  match fld w 26 6 with
  | 0 => if fld w 8 6 == 0 then some (.ins (.phase (fld w 14 6) (fld w 20 6))) else none
  | 1 => if fld w 8 12 == 0 then some (.ins (.fence (fld w 20 6))) else none
  | _ => none

/-- Opcode 0x59. -/
def decodeOp59 (w : Nat) : Option Decoded :=
  match fld w 26 6 with
  | 0 => if fld w 20 6 == 0 then some (.ins (.tstate (fld w 8 6) (fld w 14 6))) else none
  | 1 => if fld w 8 6 == 0 then some (.ins (.twait (fld w 14 6) (fld w 20 6))) else none
  | 2 => if fld w 8 6 == 0 then some (.ins (.lfill (fld w 14 6) (fld w 20 6))) else none
  | 3 => if fld w 8 6 == 0 then some (.ins (.lempty (fld w 14 6) (fld w 20 6))) else none
  | _ => none

/-- Opcode 0x5A. -/
def decodeOp5A (w : Nat) : Option Decoded :=
  match fld w 20 12 with
  | 0 => if fld w 8 6 == 0 then some (.ins (.semp (fld w 14 6))) else none
  | 64 => if fld w 8 6 == 0 then some (.ins (.semv (fld w 14 6))) else none
  | 128 => some (.ins (.semr (fld w 8 6) (fld w 14 6)))
  | _ => none

/-- Opcodes 0x4C to 0x5A: memory, ordering and tile-table instructions. -/
def decodeMemory (op w : Nat) : Option Decoded :=
  match op with
  | 0x4c => decodeOp4C w
  | 0x4d => decodeOp4D w
  | 0x4e => if fld w 31 1 == 0 then some (.ins (.ldv (fld w 8 4) (fld w 12 4) (fld w 16 5) (fld w 21 10))) else none
  | 0x4f => if fld w 31 1 == 0 then some (.ins (.stv (fld w 8 4) (fld w 12 4) (fld w 16 5) (fld w 21 10))) else none
  | 0x50 => if fld w 20 12 == 0 then some (.ins (.rld (fld w 8 6) (fld w 14 6))) else none
  | 0x51 => if fld w 8 6 == 0 && fld w 26 6 == 0 then some (.ins (.rst (fld w 14 6) (fld w 20 6))) else none
  | 0x52 => if fld w 8 6 == 0 && fld w 26 6 == 0 then some (.ins (.rdf (fld w 14 6) (fld w 20 6))) else none
  | 0x53 => if fld w 26 6 == 0 then some (.ins (.wrf (fld w 8 6) (fld w 14 6) (fld w 20 6))) else none
  | 0x54 => if fld w 20 12 == 0 then some (.ins (.ldf (fld w 8 6) (fld w 14 6))) else none
  | 0x55 => if fld w 8 6 == 0 && fld w 26 6 == 0 then some (.ins (.stf (fld w 14 6) (fld w 20 6))) else none
  | 0x56 => if fld w 26 6 == 0 then some (.ins (.cas (fld w 8 6) (fld w 14 6) (fld w 20 6))) else none
  | 0x57 => decodeOp57 w
  | 0x58 => decodeOp58 w
  | 0x59 => decodeOp59 w
  | 0x5a => decodeOp5A w
  | _ => none

/-- Opcode 0x5B. -/
def decodeOp5B (w : Nat) : Option Decoded :=
  match fld w 26 6 with
  | 0 => if fld w 20 6 == 0 then some (.ins (.strm (fld w 8 6) (fld w 14 6))) else none
  | 1 => some (.ins (.strmx (fld w 8 6) (fld w 14 6) (fld w 20 6)))
  | 2 => if fld w 14 12 == 0 then some (.ins (.strmoff (fld w 8 6))) else none
  | 3 => some (.ins (.xfer (fld w 8 6) (fld w 14 6) (fld w 20 6)))
  | 4 => some (.ins (.gath (fld w 8 6) (fld w 14 6) (fld w 20 6)))
  | 5 => if fld w 8 18 == 0 then some (.ins (.gend)) else none
  | 6 => some (.ins (.mcast (fld w 8 6) (fld w 14 6) (fld w 20 6)))
  | 7 => if fld w 20 6 == 0 then some (.ins (.engq (fld w 8 6) (fld w 14 6))) else none
  | _ => none

/-- Opcode 0x5D. -/
def decodeOp5D (w : Nat) : Option Decoded :=
  match fld w 26 6 with
  | 0 => some (.ins (.plane (fld w 8 6) (fld w 14 6) (fld w 20 6)))
  | 1 => some (.ins (.unplane (fld w 8 6) (fld w 14 6) (fld w 20 6)))
  | 2 => some (.ins (.lkenc (fld w 8 6) (fld w 14 6) (fld w 20 6)))
  | 3 => some (.ins (.lkdec (fld w 8 6) (fld w 14 6) (fld w 20 6)))
  | _ => none

/-- Opcode 0x5E. -/
def decodeOp5E (w : Nat) : Option Decoded :=
  match fld w 28 4 with
  | 0 => some (.sys (.srr (fld w 8 6) (fld w 14 14)))
  | 1 => some (.sys (.srw (fld w 8 6) (fld w 14 14)))
  | 2 => if fld w 8 6 == 0 then some (.sys (.trap (fld w 14 14))) else none
  | 3 => if fld w 8 6 == 0 then some (.sys (.bkpt (fld w 14 14))) else none
  | 4 => if fld w 10 4 == 0 && fld w 22 5 == 0 then some (.sys (.mirror (fld w 8 2) (fld w 14 8) (fld w 27 1))) else none
  | 5 => if fld w 8 20 == 0 then some (.sys (.eret)) else none
  | 6 => if fld w 14 14 == 0 then some (.sys (.halt (fld w 8 6))) else none
  | _ => none

/-- Opcode 0x5F. -/
def decodeOp5F (w : Nat) : Option Decoded :=
  match fld w 14 18 with
  | 0 => some (.sys (.image (fld w 8 6)))
  | 16384 => some (.sys (.resume (fld w 8 6)))
  | 32768 => some (.sys (.tlbw (fld w 8 6)))
  | 49152 => some (.sys (.tlbiDrain (fld w 8 6)))
  | 49153 => some (.sys (.tlbiConfirm (fld w 8 6)))
  | 65536 => some (.sys (.fltrplRetry (fld w 8 6)))
  | 65537 => some (.sys (.fltrplFail (fld w 8 6)))
  | _ => none

/-- Opcodes 0x5B to 0x5F: engine, shaping and system instructions. -/
def decodeEngine (op w : Nat) : Option Decoded :=
  match op with
  | 0x5b => decodeOp5B w
  | 0x5c => if fld w 20 12 == 0 then some (.ins (.glz (fld w 8 6) (fld w 14 6))) else none
  | 0x5d => decodeOp5D w
  | 0x5e => decodeOp5E w
  | 0x5f => decodeOp5F w
  | _ => none

/-- The 32-bit forms (Table 3-12), by major opcode. -/
def decodeForm (w : Nat) : Option Decoded :=
  let op := fld w 1 7
  if op < 0x10 then decodeScalar op w
  else if op < 0x1a then decodeControl op w
  else if op < 0x2c then decodeVector op w
  else if op < 0x3c then decodeMatrix op w
  else if op < 0x4c then decodeHandler op w
  else if op < 0x5b then decodeMemory op w
  else decodeEngine op w

/-- A 32-bit word (R47): reserved and emulated opcodes first, then Table 3-12. -/
def decode32 (w : Nat) : Except Reject Decoded :=
  let op := fld w 1 7
  if 0x70 ≤ op && op ≤ 0x7E then .error .emulated
  else if 0x60 ≤ op then .error .reserved
  else
    match decodeForm w with
    | some i => .ok i
    | none => .error .unlisted

/-- A halfword with bit 0 clear. -/
def decodeHalf (h : Nat) : Except Reject Decoded :=
  match decode16 h with
  | some i => .ok (.ins i)
  | none => .error .zero

/-- Decode the first instruction of a list of bytes (R32): the instruction and the bytes after it. -/
def decodeBytes : List Byte → Except Reject (Decoded × List Byte)
  | b0 :: b1 :: r =>
    let h := b0.toNat + 256 * b1.toNat
    if h % 2 == 0 then (decodeHalf h).map (fun i => (i, r))
    else
      match r with
      | b2 :: b3 :: r' => (decode32 (h + 65536 * (b2.toNat + 256 * b3.toNat))).map (fun i => (i, r'))
      | _ => .error .truncated
  | _ => .error .truncated

/-- The low `n` bytes of a word, little-endian. -/
def wordBytes : Nat → Nat → List Byte
  | 0, _ => []
  | n + 1, w => BitVec.ofNat 8 w :: wordBytes n (w / 256)

/-- The instruction that the decoder reads from an instruction whose bits are `w` (bit 0 the least significant bit of the first halfword);
the bits above `nbits` are 0. -/
noncomputable def decodeTableWord (nbits w : Nat) : Option Instr :=
  match decodeBytes (wordBytes 4 (w % 2 ^ nbits)) with
  | .ok (i, _) => some i.toInstr
  | .error _ => none

/-! ### The encoder -/

/-- Fields at their lowest bits. -/
def place : List (Nat × Nat) → Nat
  | [] => 0
  | (lo, v) :: r => 2 ^ lo * v + place r

/-- The word of `n` bits with the fixed bits `m` and these fields. -/
def word (n m : Nat) (fs : List (Nat × Nat)) : Option (Nat × Nat) := some (n, m + place fs)

/-- The bits and the word of an encoded instruction; none for an operation without encoding. -/
def encode : Instr → Option (Nat × Nat)
  | .mov16 d b => word 16 0x8000 [(5, d), (10, b)]
  | .add16 d b k => word 16 0x0002 [(5, d), (10, b), (15, k)]
  | .sub16 d b k => word 16 0x0004 [(5, d), (10, b), (15, k)]
  | .mul16 d b k => word 16 0x0006 [(5, d), (10, b), (15, k)]
  | .min16 d b k => word 16 0x0008 [(5, d), (10, b), (15, k)]
  | .max16 d b k => word 16 0x000a [(5, d), (10, b), (15, k)]
  | .and16 d b k => word 16 0x000c [(5, d), (10, b), (15, k)]
  | .or16 d b k => word 16 0x000e [(5, d), (10, b), (15, k)]
  | .xor16 d b k => word 16 0x0010 [(5, d), (10, b), (15, k)]
  | .andn16 d b k => word 16 0x0012 [(5, d), (10, b), (15, k)]
  | .shl16 d b k => word 16 0x0014 [(5, d), (10, b), (15, k)]
  | .shr16 d b k => word 16 0x0016 [(5, d), (10, b), (15, k)]
  | .sar16 d b k => word 16 0x0018 [(5, d), (10, b), (15, k)]
  | .neg16 d b k => word 16 0x001a [(5, d), (10, b), (15, k)]
  | .abs16 d b k => word 16 0x001c [(5, d), (10, b), (15, k)]
  | .not16 d b k => word 16 0x001e [(5, d), (10, b), (15, k)]
  | .add d a b => word 32 0x00000001 [(8, d), (14, a), (20, b)]
  | .sub d a b => word 32 0x04000001 [(8, d), (14, a), (20, b)]
  | .mul d a b => word 32 0x08000001 [(8, d), (14, a), (20, b)]
  | .mulh d a b => word 32 0x0c000001 [(8, d), (14, a), (20, b)]
  | .mulhu d a b => word 32 0x10000001 [(8, d), (14, a), (20, b)]
  | .div d a b => word 32 0x14000001 [(8, d), (14, a), (20, b)]
  | .divu d a b => word 32 0x18000001 [(8, d), (14, a), (20, b)]
  | .rem d a b => word 32 0x1c000001 [(8, d), (14, a), (20, b)]
  | .and d a b => word 32 0x00000003 [(8, d), (14, a), (20, b)]
  | .or d a b => word 32 0x04000003 [(8, d), (14, a), (20, b)]
  | .xor d a b => word 32 0x08000003 [(8, d), (14, a), (20, b)]
  | .andn d a b => word 32 0x0c000003 [(8, d), (14, a), (20, b)]
  | .shl d a b => word 32 0x10000003 [(8, d), (14, a), (20, b)]
  | .shr d a b => word 32 0x14000003 [(8, d), (14, a), (20, b)]
  | .sar d a b => word 32 0x18000003 [(8, d), (14, a), (20, b)]
  | .ror d a b => word 32 0x1c000003 [(8, d), (14, a), (20, b)]
  | .min d a b => word 32 0x00000005 [(8, d), (14, a), (20, b)]
  | .max d a b => word 32 0x04000005 [(8, d), (14, a), (20, b)]
  | .minu d a b => word 32 0x08000005 [(8, d), (14, a), (20, b)]
  | .maxu d a b => word 32 0x0c000005 [(8, d), (14, a), (20, b)]
  | .slt d a b => word 32 0x10000005 [(8, d), (14, a), (20, b)]
  | .sltu d a b => word 32 0x14000005 [(8, d), (14, a), (20, b)]
  | .seq d a b => word 32 0x18000005 [(8, d), (14, a), (20, b)]
  | .remu d a b => word 32 0x1c000005 [(8, d), (14, a), (20, b)]
  | .mov d a => word 32 0x00000007 [(8, d), (14, a)]
  | .clz d a => word 32 0x04000007 [(8, d), (14, a)]
  | .ctz d a => word 32 0x08000007 [(8, d), (14, a)]
  | .popc d a => word 32 0x0c000007 [(8, d), (14, a)]
  | .bswap d a => word 32 0x10000007 [(8, d), (14, a)]
  | .sext d a b => word 32 0x14000007 [(8, d), (14, a), (20, b)]
  | .arel d a b => word 32 0x18000007 [(8, d), (14, a), (20, b)]
  | .axy d a b => word 32 0x1c000007 [(8, d), (14, a), (20, b)]
  | .addK d a k => word 32 0x00000009 [(8, d), (14, a), (20, k)]
  | .subK d a k => word 32 0x10000009 [(8, d), (14, a), (20, k)]
  | .mulK d a k => word 32 0x0000000b [(8, d), (14, a), (20, k)]
  | .mulhK d a k => word 32 0x1000000b [(8, d), (14, a), (20, k)]
  | .andK d a k => word 32 0x0000000d [(8, d), (14, a), (20, k)]
  | .orK d a k => word 32 0x1000000d [(8, d), (14, a), (20, k)]
  | .xorK d a k => word 32 0x0000000f [(8, d), (14, a), (20, k)]
  | .andnK d a k => word 32 0x1000000f [(8, d), (14, a), (20, k)]
  | .minK d a k => word 32 0x00000011 [(8, d), (14, a), (20, k)]
  | .maxK d a k => word 32 0x10000011 [(8, d), (14, a), (20, k)]
  | .minuK d a k => word 32 0x00000013 [(8, d), (14, a), (20, k)]
  | .maxuK d a k => word 32 0x10000013 [(8, d), (14, a), (20, k)]
  | .sltK d a k => word 32 0x00000015 [(8, d), (14, a), (20, k)]
  | .sltuK d a k => word 32 0x10000015 [(8, d), (14, a), (20, k)]
  | .seqK d a k => word 32 0x00000017 [(8, d), (14, a), (20, k)]
  | .movK d k => word 32 0x10000017 [(8, d), (20, k)]
  | .divK d a k => word 32 0x00000019 [(8, d), (14, a), (20, k)]
  | .divuK d a k => word 32 0x10000019 [(8, d), (14, a), (20, k)]
  | .arelK d a k => word 32 0x0000001b [(8, d), (14, a), (20, k)]
  | .axyK d a k => word 32 0x1000001b [(8, d), (14, a), (20, k)]
  | .shlImm d a c => word 32 0x0000001d [(8, d), (14, a), (20, c)]
  | .shrImm d a c => word 32 0x1000001d [(8, d), (14, a), (20, c)]
  | .sarImm d a c => word 32 0x0000001f [(8, d), (14, a), (20, c)]
  | .rorImm d a c => word 32 0x1000001f [(8, d), (14, a), (20, c)]
  | .beq a b i => word 32 0x00000021 [(8, a), (14, b), (20, i)]
  | .bne a b i => word 32 0x00000023 [(8, a), (14, b), (20, i)]
  | .blt a b i => word 32 0x00000025 [(8, a), (14, b), (20, i)]
  | .bge a b i => word 32 0x00000027 [(8, a), (14, b), (20, i)]
  | .bltu a b i => word 32 0x00000029 [(8, a), (14, b), (20, i)]
  | .bgeu a b i => word 32 0x0000002b [(8, a), (14, b), (20, i)]
  | .loop a i => word 32 0x0000002d [(8, a), (20, i)]
  | .j i => word 32 0x0000002f [(8, i)]
  | .call i => word 32 0x00000031 [(8, i)]
  | .jr a => word 32 0x00000033 [(14, a)]
  | .callr a => word 32 0x04000033 [(14, a)]
  | .nop => word 32 0x08000033 []
  | .vadd d a b m => word 32 0x00000035 [(8, d), (14, a), (20, b), (29, m)]
  | .vsub d a b m => word 32 0x04000035 [(8, d), (14, a), (20, b), (29, m)]
  | .vmul d a b m => word 32 0x08000035 [(8, d), (14, a), (20, b), (29, m)]
  | .vdiv d a b m => word 32 0x0c000035 [(8, d), (14, a), (20, b), (29, m)]
  | .vmin d a b m => word 32 0x10000035 [(8, d), (14, a), (20, b), (29, m)]
  | .vmax d a b m => word 32 0x14000035 [(8, d), (14, a), (20, b), (29, m)]
  | .vfma d a b m => word 32 0x18000035 [(8, d), (14, a), (20, b), (29, m)]
  | .vfms d a b m => word 32 0x1c000035 [(8, d), (14, a), (20, b), (29, m)]
  | .vand d a b m => word 32 0x00000037 [(8, d), (14, a), (20, b), (29, m)]
  | .vor d a b m => word 32 0x04000037 [(8, d), (14, a), (20, b), (29, m)]
  | .vxor d a b m => word 32 0x08000037 [(8, d), (14, a), (20, b), (29, m)]
  | .vandn d a b m => word 32 0x0c000037 [(8, d), (14, a), (20, b), (29, m)]
  | .vshl d a b m => word 32 0x10000037 [(8, d), (14, a), (20, b), (29, m)]
  | .vshr d a b m => word 32 0x14000037 [(8, d), (14, a), (20, b), (29, m)]
  | .vsar d a b m => word 32 0x18000037 [(8, d), (14, a), (20, b), (29, m)]
  | .vsel d a b m => word 32 0x1c000037 [(8, d), (14, a), (20, b), (29, m)]
  | .vcmpeq d a b m => word 32 0x00000039 [(8, d), (14, a), (20, b), (29, m)]
  | .vcmplt d a b m => word 32 0x04000039 [(8, d), (14, a), (20, b), (29, m)]
  | .vcmple d a b m => word 32 0x08000039 [(8, d), (14, a), (20, b), (29, m)]
  | .vdot d a b m => word 32 0x0c000039 [(8, d), (14, a), (20, b), (29, m)]
  | .vperm d a b m => word 32 0x10000039 [(8, d), (14, a), (20, b), (29, m)]
  | .vbcast d a b m => word 32 0x14000039 [(8, d), (14, a), (20, b), (29, m)]
  | .vext d a b m => word 32 0x18000039 [(8, d), (14, a), (20, b), (29, m)]
  | .vins d a b m => word 32 0x1c000039 [(8, d), (14, a), (20, b), (29, m)]
  | .vmov d a m => word 32 0x0000003b [(8, d), (14, a), (29, m)]
  | .vabs d a m => word 32 0x0400003b [(8, d), (14, a), (29, m)]
  | .vneg d a m => word 32 0x0800003b [(8, d), (14, a), (29, m)]
  | .vsqrt d a m => word 32 0x0c00003b [(8, d), (14, a), (29, m)]
  | .vcvt d a b m => word 32 0x1000003b [(8, d), (14, a), (20, b), (29, m)]
  | .vtag d a b m => word 32 0x1400003b [(8, d), (14, a), (20, b), (29, m)]
  | .vred d a b m => word 32 0x1800003b [(8, d), (14, a), (20, b), (29, m)]
  | .vnzs d a b m => word 32 0x1c00003b [(8, d), (14, a), (20, b), (29, m)]
  | .vaddK d a k m => word 32 0x0000003d [(8, d), (14, a), (20, k), (29, m)]
  | .vsubK d a k m => word 32 0x1000003d [(8, d), (14, a), (20, k), (29, m)]
  | .vmulK d a k m => word 32 0x0000003f [(8, d), (14, a), (20, k), (29, m)]
  | .vfmaK d a k m => word 32 0x1000003f [(8, d), (14, a), (20, k), (29, m)]
  | .vminK d a k m => word 32 0x00000041 [(8, d), (14, a), (20, k), (29, m)]
  | .vmaxK d a k m => word 32 0x10000041 [(8, d), (14, a), (20, k), (29, m)]
  | .vandK d a k m => word 32 0x00000043 [(8, d), (14, a), (20, k), (29, m)]
  | .vorK d a k m => word 32 0x10000043 [(8, d), (14, a), (20, k), (29, m)]
  | .vxorK d a k m => word 32 0x00000045 [(8, d), (14, a), (20, k), (29, m)]
  | .vandnK d a k m => word 32 0x10000045 [(8, d), (14, a), (20, k), (29, m)]
  | .vcmpeqK d a k m => word 32 0x00000047 [(8, d), (14, a), (20, k), (29, m)]
  | .vcmpltK d a k m => word 32 0x10000047 [(8, d), (14, a), (20, k), (29, m)]
  | .vcmpleK d a k m => word 32 0x00000049 [(8, d), (14, a), (20, k), (29, m)]
  | .vbcastK d a k m => word 32 0x10000049 [(8, d), (14, a), (20, k), (29, m)]
  | .vshlImm d a c m => word 32 0x0000004b [(8, d), (14, a), (20, c), (29, m)]
  | .vshrImm d a c m => word 32 0x1000004b [(8, d), (14, a), (20, c), (29, m)]
  | .vsarImm d a c m => word 32 0x0000004d [(8, d), (14, a), (20, c), (29, m)]
  | .vaddRel d a b m => word 32 0x0000004f [(8, d), (14, a), (20, b), (29, m)]
  | .vsubRel d a b m => word 32 0x0400004f [(8, d), (14, a), (20, b), (29, m)]
  | .vmulRel d a b m => word 32 0x0800004f [(8, d), (14, a), (20, b), (29, m)]
  | .vdivRel d a b m => word 32 0x0c00004f [(8, d), (14, a), (20, b), (29, m)]
  | .vminRel d a b m => word 32 0x1000004f [(8, d), (14, a), (20, b), (29, m)]
  | .vmaxRel d a b m => word 32 0x1400004f [(8, d), (14, a), (20, b), (29, m)]
  | .vfmaRel d a b m => word 32 0x1800004f [(8, d), (14, a), (20, b), (29, m)]
  | .vfmsRel d a b m => word 32 0x1c00004f [(8, d), (14, a), (20, b), (29, m)]
  | .vandRel d a b m => word 32 0x00000051 [(8, d), (14, a), (20, b), (29, m)]
  | .vorRel d a b m => word 32 0x04000051 [(8, d), (14, a), (20, b), (29, m)]
  | .vxorRel d a b m => word 32 0x08000051 [(8, d), (14, a), (20, b), (29, m)]
  | .vandnRel d a b m => word 32 0x0c000051 [(8, d), (14, a), (20, b), (29, m)]
  | .vshlRel d a b m => word 32 0x10000051 [(8, d), (14, a), (20, b), (29, m)]
  | .vshrRel d a b m => word 32 0x14000051 [(8, d), (14, a), (20, b), (29, m)]
  | .vsarRel d a b m => word 32 0x18000051 [(8, d), (14, a), (20, b), (29, m)]
  | .vselRel d a b m => word 32 0x1c000051 [(8, d), (14, a), (20, b), (29, m)]
  | .vcmpeqRel d a b m => word 32 0x00000053 [(8, d), (14, a), (20, b), (29, m)]
  | .vcmpltRel d a b m => word 32 0x04000053 [(8, d), (14, a), (20, b), (29, m)]
  | .vcmpleRel d a b m => word 32 0x08000053 [(8, d), (14, a), (20, b), (29, m)]
  | .vdotRel d a b m => word 32 0x0c000053 [(8, d), (14, a), (20, b), (29, m)]
  | .vpermRel d a b m => word 32 0x10000053 [(8, d), (14, a), (20, b), (29, m)]
  | .vmovRelA d a m => word 32 0x00000055 [(8, d), (14, a), (29, m)]
  | .vmovRelD d a m => word 32 0x04000055 [(8, d), (14, a), (29, m)]
  | .mand d a b => word 32 0x00000057 [(8, d), (14, a), (20, b)]
  | .mor d a b => word 32 0x04000057 [(8, d), (14, a), (20, b)]
  | .mxor d a b => word 32 0x08000057 [(8, d), (14, a), (20, b)]
  | .mnot d a => word 32 0x0c000057 [(8, d), (14, a)]
  | .mmov d a => word 32 0x10000057 [(8, d), (14, a)]
  | .mma z f p e => word 32 0x00000059 [(8, z), (11, f), (14, p), (17, e)]
  | .mmaz z f p e => word 32 0x0000005b [(8, z), (11, f), (14, p), (17, e)]
  | .achain z w => word 32 0x0000005d [(8, z), (20, w)]
  | .tset t k => word 32 0x0000005f [(11, t), (20, k)]
  | .aalloc z k => word 32 0x00000061 [(8, z), (20, k)]
  | .afree z => word 32 0x00000063 [(8, z)]
  | .azero z => word 32 0x00000065 [(8, z)]
  | .astore z x w => word 32 0x00000067 [(8, z), (17, x), (20, w)]
  | .aload z x w => word 32 0x00000069 [(8, z), (17, x), (20, w)]
  | .amovv z v s => word 32 0x0000006b [(8, z), (20, v), (24, s)]
  | .winit p r => word 32 0x0000006d [(14, p), (20, r)]
  | .walk z f p e k => word 32 0x0000006f [(8, z), (11, f), (14, p), (17, e), (20, k)]
  | .wstep z f p e => word 32 0x00000071 [(8, z), (11, f), (14, p), (17, e)]
  | .wres p d s => word 32 0x00000073 [(14, p), (20, d), (24, s)]
  | .wfix p s => word 32 0x00000075 [(14, p), (24, s)]
  | .wcnt p x d => word 32 0x00000077 [(14, p), (17, x), (20, d)]
  | .send a b n => word 32 0x00000079 [(14, a), (20, b), (26, n)]
  | .sendr d a b n => word 32 0x0000007b [(8, d), (14, a), (20, b), (26, n)]
  | .reply a b n => word 32 0x0000007d [(14, a), (20, b), (26, n)]
  | .bind d a => word 32 0x0000007f [(8, d), (14, a)]
  | .unbind d => word 32 0x00000081 [(8, d)]
  | .hmask a b => word 32 0x00000083 [(14, a), (20, b)]
  | .hprio a b => word 32 0x00000085 [(14, a), (20, b)]
  | .peek d a => word 32 0x00000087 [(8, d), (14, a)]
  | .drop a => word 32 0x00000089 [(14, a)]
  | .yield => word 32 0x0000008b []
  | .exit => word 32 0x0000008d []
  | .launch d a => word 32 0x0000008f [(8, d), (14, a)]
  | .mqfold d a b => word 32 0x00000091 [(8, d), (14, a), (20, b)]
  | .mqbind a b => word 32 0x00000093 [(14, a), (20, b)]
  | .mqdrain a => word 32 0x00000095 [(14, a)]
  | .mqstat d a => word 32 0x00000097 [(8, d), (14, a)]
  | .mqcfg a b => word 32 0x04000097 [(14, a), (20, b)]
  | .ldB d b i => word 32 0x00000099 [(8, d), (14, b), (21, i)]
  | .ldH d b i => word 32 0x00040099 [(8, d), (14, b), (21, i)]
  | .ldW d b i => word 32 0x00080099 [(8, d), (14, b), (21, i)]
  | .ldD d b i => word 32 0x000c0099 [(8, d), (14, b), (21, i)]
  | .ldSb d b i => word 32 0x00100099 [(8, d), (14, b), (21, i)]
  | .ldSh d b i => word 32 0x00140099 [(8, d), (14, b), (21, i)]
  | .ldSw d b i => word 32 0x00180099 [(8, d), (14, b), (21, i)]
  | .stB d b i => word 32 0x0000009b [(8, d), (14, b), (21, i)]
  | .stH d b i => word 32 0x0004009b [(8, d), (14, b), (21, i)]
  | .stW d b i => word 32 0x0008009b [(8, d), (14, b), (21, i)]
  | .stD d b i => word 32 0x000c009b [(8, d), (14, b), (21, i)]
  | .ldv v b t i => word 32 0x0000009d [(8, v), (12, b), (16, t), (21, i)]
  | .stv v b t i => word 32 0x0000009f [(8, v), (12, b), (16, t), (21, i)]
  | .rld d a => word 32 0x000000a1 [(8, d), (14, a)]
  | .rst a b => word 32 0x000000a3 [(14, a), (20, b)]
  | .rdf a b => word 32 0x000000a5 [(14, a), (20, b)]
  | .wrf d a b => word 32 0x000000a7 [(8, d), (14, a), (20, b)]
  | .ldf d a => word 32 0x000000a9 [(8, d), (14, a)]
  | .stf a b => word 32 0x000000ab [(14, a), (20, b)]
  | .cas d a b => word 32 0x000000ad [(8, d), (14, a), (20, b)]
  | .amoAdd d a b => word 32 0x000000af [(8, d), (14, a), (20, b)]
  | .amoAnd d a b => word 32 0x040000af [(8, d), (14, a), (20, b)]
  | .amoOr d a b => word 32 0x080000af [(8, d), (14, a), (20, b)]
  | .amoXor d a b => word 32 0x0c0000af [(8, d), (14, a), (20, b)]
  | .amoMin d a b => word 32 0x100000af [(8, d), (14, a), (20, b)]
  | .amoMax d a b => word 32 0x140000af [(8, d), (14, a), (20, b)]
  | .amoMinu d a b => word 32 0x180000af [(8, d), (14, a), (20, b)]
  | .amoSwap d a b => word 32 0x1c0000af [(8, d), (14, a), (20, b)]
  | .phase a s => word 32 0x000000b1 [(14, a), (20, s)]
  | .fence s => word 32 0x040000b1 [(20, s)]
  | .tstate d a => word 32 0x000000b3 [(8, d), (14, a)]
  | .twait a b => word 32 0x040000b3 [(14, a), (20, b)]
  | .lfill a b => word 32 0x080000b3 [(14, a), (20, b)]
  | .lempty a b => word 32 0x0c0000b3 [(14, a), (20, b)]
  | .semp a => word 32 0x000000b5 [(14, a)]
  | .semv a => word 32 0x040000b5 [(14, a)]
  | .semr d a => word 32 0x080000b5 [(8, d), (14, a)]
  | .strm d a => word 32 0x000000b7 [(8, d), (14, a)]
  | .strmx d a b => word 32 0x040000b7 [(8, d), (14, a), (20, b)]
  | .strmoff d => word 32 0x080000b7 [(8, d)]
  | .xfer d a b => word 32 0x0c0000b7 [(8, d), (14, a), (20, b)]
  | .gath d a b => word 32 0x100000b7 [(8, d), (14, a), (20, b)]
  | .gend => word 32 0x140000b7 []
  | .mcast d a b => word 32 0x180000b7 [(8, d), (14, a), (20, b)]
  | .engq d a => word 32 0x1c0000b7 [(8, d), (14, a)]
  | .glz d a => word 32 0x000000b9 [(8, d), (14, a)]
  | .plane d a b => word 32 0x000000bb [(8, d), (14, a), (20, b)]
  | .unplane d a b => word 32 0x040000bb [(8, d), (14, a), (20, b)]
  | .lkenc d a b => word 32 0x080000bb [(8, d), (14, a), (20, b)]
  | .lkdec d a b => word 32 0x0c0000bb [(8, d), (14, a), (20, b)]
  | .srr r n => word 32 0x000000bd [(8, r), (14, n)]
  | .srw r n => word 32 0x100000bd [(8, r), (14, n)]
  | .trap n => word 32 0x200000bd [(14, n)]
  | .bkpt n => word 32 0x300000bd [(14, n)]
  | .mirror s i f => word 32 0x400000bd [(8, s), (14, i), (27, f)]
  | .eret => word 32 0x500000bd []
  | .halt r => word 32 0x600000bd [(8, r)]
  | .image r => word 32 0x000000bf [(8, r)]
  | .resume r => word 32 0x100000bf [(8, r)]
  | .tlbw r => word 32 0x200000bf [(8, r)]
  | .tlbiDrain r => word 32 0x300000bf [(8, r)]
  | .tlbiConfirm r => word 32 0x300040bf [(8, r)]
  | .fltrplRetry r => word 32 0x400000bf [(8, r)]
  | .fltrplFail r => word 32 0x400040bf [(8, r)]
  | .activationStart _ _ => none
  | .messageAccept _ => none
  | .refusalArrival _ _ => none
  | .neverRefusedEntry _ _ => none
  | .launchReserve _ _ => none
  | .launchCommit _ _ => none
  | .launchReject _ => none
  | .rectangleEnd _ => none
  | .nearReadRequest _ => none
  | .nearReadReply _ _ _ => none
  | .nearStoreArrival _ => none
  | .nearAtomicArrival _ => none
  | .farMemoryAccess _ => none
  | .farAtomicService _ => none
  | .farReplyArrival _ _ _ => none
  | .foldRequestArrival _ => none
  | .foldRefusalArrival _ _ => none
  | .mqDispatch _ _ => none
  | .dispatchDelivery _ _ => none
  | .ageTick _ => none
  | .phaseDeparture _ => none
  | .chainReserveRequest _ => none
  | .chainGrant _ => none
  | .chainPartialArrival _ _ => none
  | .arrayRetire _ => none
  | .walkStepCommit _ => none
  | .faultReplyArrival _ _ => none
  | .engineCompletion _ _ => none
  | .xferUnit _ _ => none
  | .gatherStage _ _ => none
  | .gatherElementIssue _ _ => none
  | .gatherElementLand _ _ _ => none
  | .streamFetch _ _ => none
  | .mcastUnit _ _ _ => none
  | .bufferFreeAcknowledgement _ _ => none
  | .glzPoint _ _ => none
  | .tileEntryWrite _ _ => none
  | .tileEntryArm _ _ => none
  | .faultQueuePop _ => none
  | .faultQueueClearOvf _ => none
  | .fabricSend _ => none
  | .fabricAcknowledgement _ _ _ => none
  | .fabricArrival _ => none
  | .matchArm _ _ => none
  | .matchDisarm _ _ => none
  | .imageStop _ _ => none
  | .vatImage _ _ => none
  | .imageVerdict _ => none
  | .resumeReserve _ _ => none
  | .resumeRestore _ => none
  | .debugHalt _ => none
  | .debugRelease _ => none
  | .debugStep _ => none
  | .debugSetHob _ _ => none
  | .fatalFault => none
  | .deviceReset => none
  | .boot _ => none
  | .throttleStep _ => none
  | .throttleRecover _ => none
  | .eccError _ => none
  | .scrub _ => none
  | .marginMessage _ _ _ => none
  | .laneRetrain _ => none
  | .retrainDone _ => none
  | .laneRepair _ => none
  | .loadFrame _ => none
  | .launchFrame _ => none
  | .readFrame _ => none
  | .syncFrame _ => none
  | .peersFrame _ => none
  | .peersApply => none
  | .frameResend _ => none
  | .illegalEncoding _ _ => none
  | .fabricDeliveryFailure _ _ => none

end Sys2Proof
end

