-- ==== Sys2Proof/Machine/Numbers.lean ====
section
/-!
DEFINITION. Number formats and exact arithmetic (spec/04): tags, decoding and rounding of float, integer, lake and
exact-sum values. Everything here is pure: a rounding mode and codes in, a code and the raised flags out.
-/
namespace Sys2Proof.Machine

/-! ### Tags (R49, Table 4-1) -/

def tS8 : Nat := 1
def tS32 : Nat := 3
def tN8 : Nat := 5
def tN32 : Nat := 7
def tN64 : Nat := 8
def tF32 : Nat := 0x09
def tF16 : Nat := 0x0A
def tB16 : Nat := 0x0B
def tE5M2 : Nat := 0x0C
def tE4M3 : Nat := 0x0D
def tE3M2 : Nat := 0x0E
def tE2M3 : Nat := 0x0F
def tE2M1 : Nat := 0x10
def tLK3 : Nat := 0x11
def tLK5 : Nat := 0x12
def tLK8 : Nat := 0x13
def tXS : Nat := 0x14
def tPRG : Nat := 0x15

/-- S8 to S64. -/
def isSTag (t : Nat) : Bool := 1 ≤ t && t ≤ 4
/-- N8 to N64. -/
def isNTag (t : Nat) : Bool := 5 ≤ t && t ≤ 8
/-- An integer tag. -/
def isIntTag (t : Nat) : Bool := 1 ≤ t && t ≤ 8
/-- F32, F16 or B16: the float tags with lane arithmetic. -/
def isLaneFloat (t : Nat) : Bool := 9 ≤ t && t ≤ 11
/-- A tag with lane arithmetic. -/
def isLaneTag (t : Nat) : Bool := 1 ≤ t && t ≤ 11
/-- Any float tag, narrow ones included. -/
def isFloatTag (t : Nat) : Bool := 9 ≤ t && t ≤ 16
/-- LK3, LK5 or LK8. -/
def isLakeTag (t : Nat) : Bool := 17 ≤ t && t ≤ 19
/-- A tag that a vector register may carry to a use: codes 0x01 to 0x14. -/
def isVTag (t : Nat) : Bool := 1 ≤ t && t ≤ 20

/-- Bits of one element of a tag other than a lake tag (Table 4-1). Narrow floats of six bits lie in a byte. -/
def elemBits (t : Nat) : Nat :=
  match t with
  | 1 => 8 | 2 => 16 | 3 => 32 | 4 => 64
  | 5 => 8 | 6 => 16 | 7 => 32 | 8 => 64
  | 9 => 32 | 10 => 16 | 11 => 16
  | 12 => 8 | 13 => 8 | 14 => 8 | 15 => 8 | 16 => 4
  | 20 => 320
  | _ => 8

/-- Lanes in a 64-byte register of a lane tag. -/
def lanesOf (t : Nat) : Nat := 512 / elemBits t

/-- The magnitude width `n` of a lake tag (Table 4-4). -/
def lakeN (t : Nat) : Nat := if t == 17 then 2 else if t == 18 then 4 else 7

/-- Bytes of one lake block (Table 4-3): a 16-bit header and sixteen elements of `n + 1` bits. -/
def lakeBytes (t : Nat) : Nat := 2 + 2 * (lakeN t + 1)

/-- Elements a 64-byte register holds under a tag (Table 4-1). -/
def elemsOf (t : Nat) : Nat :=
  if isLakeTag t then 64 / lakeBytes t * 16 else if t == 20 then 1 else 512 / elemBits t

/-! ### Float formats (R51, Table 4-2) -/

/-- The format of a float tag; F32 for any other. -/
def floatFormat (t : Nat) : FloatFormat :=
  match t with
  | 10 => ⟨5, 10, 15, true, .ieee⟩
  | 11 => ⟨8, 7, 127, true, .ieee⟩
  | 12 => ⟨5, 2, 15, true, .ieee⟩
  | 13 => ⟨4, 3, 7, false, .allOnes⟩
  | 14 => ⟨3, 2, 3, false, .absent⟩
  | 15 => ⟨2, 3, 1, false, .absent⟩
  | 16 => ⟨2, 1, 1, false, .absent⟩
  | _ => ⟨8, 23, 127, true, .ieee⟩

/-- The largest finite magnitude code of a format. -/
def maxCode (f : FloatFormat) : Nat :=
  match f.nans with
  | .ieee => (2 ^ f.eb - 1) * 2 ^ f.mb - 1
  | .allOnes => 2 ^ (f.eb + f.mb) - 2
  | .absent => 2 ^ (f.eb + f.mb) - 1

/-- The code with its sign bit. -/
def withSign (f : FloatFormat) (neg : Bool) (code : Nat) : Nat :=
  code + (if neg then 2 ^ (f.eb + f.mb) else 0)

/-- The canonical NaN (R52). -/
def canonNan (f : FloatFormat) (neg : Bool) : Nat :=
  match f.nans with
  | .ieee => withSign f neg ((2 ^ f.eb - 1) * 2 ^ f.mb + 2 ^ (f.mb - 1))
  | .allOnes => withSign f neg (2 ^ (f.eb + f.mb) - 1)
  | .absent => 0

/-- The value of a code (R51). -/
def decodeFloat (f : FloatFormat) (x : Nat) : Val :=
  let mant := x % 2 ^ f.mb
  let ex := x / 2 ^ f.mb % 2 ^ f.eb
  let neg := x / 2 ^ (f.mb + f.eb) % 2 == 1
  let ones := ex == 2 ^ f.eb - 1
  match f.nans with
  | .ieee =>
    if ones then (if mant == 0 then .inf neg else .nan neg mant f.mb)
    else if ex == 0 then .fin neg mant (1 - (f.bias : Int) - f.mb)
    else .fin neg (2 ^ f.mb + mant) ((ex : Int) - f.bias - f.mb)
  | .allOnes =>
    if ones && mant == 2 ^ f.mb - 1 then .nan neg 1 1
    else if ex == 0 then .fin neg mant (1 - (f.bias : Int) - f.mb)
    else .fin neg (2 ^ f.mb + mant) ((ex : Int) - f.bias - f.mb)
  | .absent =>
    if ex == 0 then .fin neg mant (1 - (f.bias : Int) - f.mb)
    else .fin neg (2 ^ f.mb + mant) ((ex : Int) - f.bias - f.mb)

/-- `round_rm` of the magnitude `m / 2^k` of a value with sign `neg` (R53). -/
def shiftRound (rm : Nat) (neg : Bool) (m k : Nat) : Nat :=
  let q := m / 2 ^ k
  let r := m % 2 ^ k
  if r == 0 then q else
    let up := match rm with
      | 0 => 2 * r > 2 ^ k || (2 * r == 2 ^ k && q % 2 == 1)
      | 1 => false
      | 2 => !neg
      | _ => neg
    if up then q + 1 else q

/-- The magnitude of `round_rm` of `(-1)^neg · m · 2^e`, counted in units of `2^g`. -/
def roundUnits (rm : Nat) (neg : Bool) (m : Nat) (e g : Int) : Nat :=
  if g ≤ e then m * 2 ^ (e - g).toNat else shiftRound rm neg m (g - e).toNat

/-- Whether `m · 2^e` is a whole number of units `2^g`. -/
def exactUnits (m : Nat) (e g : Int) : Bool :=
  if g ≤ e then true else m % 2 ^ (g - e).toNat == 0

/-- `round_fmt` of a value that is not zero (R53 steps 1 to 3, flags of R54). (DEDUCED, log 70) -/
def roundNonzero (rm : Nat) (f : FloatFormat) (neg : Bool) (m : Nat) (e : Int) : Nat × FFlags :=
  let top : Int := (Nat.log2 m : Nat) + e
  let emin : Int := 1 - (f.bias : Int) - f.mb
  let g : Int := if top - f.mb < emin then emin else top - f.mb
  let q := roundUnits rm neg m e g
  let exact := exactUnits m e g
  -- the code with an exponent field unbounded above: consecutive grid points have consecutive codes
  let code := (g - emin).toNat * 2 ^ f.mb + q
  let tiny := top < 1 - (f.bias : Int)
  if code > maxCode f then
    if f.hasInf then
      let toMax := rm == 1 || (rm == 2 && neg) || (rm == 3 && !neg)
      (withSign f neg (if toMax then maxCode f else maxCode f + 1), ⟨false, false, true, false, true, false⟩)
    else (withSign f neg (maxCode f), ⟨false, false, false, false, true, true⟩)
  else (withSign f neg code, ⟨false, false, false, tiny && !exact, !exact, false⟩)

/-- The code of a zero with sign `neg`. -/
def zeroCode (f : FloatFormat) (neg : Bool) : Nat := withSign f neg 0

/-- A NaN carried to format `f` (R62, the NaN rule): sign copied, payload aligned at its top bit;
a format without NaN gives +0 and sets NV. -/
def nanCode (f : FloatFormat) (neg : Bool) (payload width : Nat) : Nat × FFlags :=
  match f.nans with
  | .absent => (0, { nv := true })
  | .allOnes => (canonNan f neg, {})
  | .ieee =>
    let p := if f.mb ≤ width then payload / 2 ^ (width - f.mb) else payload * 2 ^ (f.mb - width)
    let p := if p == 0 then 2 ^ (f.mb - 1) else p
    (withSign f neg ((2 ^ f.eb - 1) * 2 ^ f.mb + p), {})

/-- The code of a value converted alone to format `f` (Table 4-6). -/
def encodeVal (rm : Nat) (f : FloatFormat) (v : Val) : Nat × FFlags :=
  match v with
  | .fin neg 0 _ => (zeroCode f neg, {})
  | .fin neg m e => roundNonzero rm f neg m e
  | .inf neg =>
    if f.hasInf then (withSign f neg (maxCode f + 1), {})
    else (withSign f neg (maxCode f), { nx := true, sat := true })
  | .nan neg p w => nanCode f neg p w

/-! ### Exact sums and products (R53 step 4, R55, R56, R66) -/

/-- The value is a NaN. -/
def isNan : Val → Bool
  | .nan .. => true
  | _ => false

/-- Flip the sign. -/
def negVal : Val → Val
  | .fin n m e => .fin (!n) m e
  | .inf n => .inf (!n)
  | .nan n p w => .nan (!n) p w

/-- The exact product; the Bool says that it is 0 × ∞ (R54 NV). A NaN factor gives a NaN. -/
def mulVal (a b : Val) : Val × Bool :=
  match a, b with
  | .nan n p w, _ => (.nan n p w, false)
  | _, .nan n p w => (.nan n p w, false)
  | .inf n, .inf k => (.inf (n != k), false)
  | .inf n, .fin k m _ => if m == 0 then (.nan false 1 1, true) else (.inf (n != k), false)
  | .fin n m _, .inf k => if m == 0 then (.nan false 1 1, true) else (.inf (n != k), false)
  | .fin n m e, .fin k m' e' => (.fin (n != k) (m * m') (e + e'), false)

/-- An exact finite term as an integer count of `2^g`, for `g` at most its exponent. -/
def unitsAt (g : Int) : Val → Int
  | .fin n m e =>
    let u : Int := ((m * 2 ^ (e - g).toNat : Nat) : Int)
    if n then -u else u
  | _ => 0

/-- The least exponent among the non-zero finite terms (0 with none). -/
def leastExp (ts : List Val) : Int :=
  (ts.foldl (fun (acc : Option Int) t => match t with
    | .fin _ 0 _ => acc
    | .fin _ _ e => some (match acc with | none => e | some a => if e < a then e else a)
    | _ => acc) none).getD 0

/-- The value is an infinity of sign `neg`. -/
def isInfOf (neg : Bool) : Val → Bool
  | .inf n => n == neg
  | _ => false

/-- The value is a zero of sign `neg`. -/
def isZeroOf (neg : Bool) : Val → Bool
  | .fin n 0 _ => n == neg
  | _ => false

/-- The sign of an exact zero sum of `terms` (R53 step 4). (PRESUMED, log 75) -/
def zeroSign (rm : Nat) (terms : List Val) : Bool :=
  if terms.all (isZeroOf true) then true
  else if terms.all (isZeroOf false) then false
  else rm == 3

/-- An exact sum of terms without NaN, rounded once to `f`: infinities of both signs set NV and give the
canonical NaN, infinities of one sign give that infinity (R54, R66). -/
def sumRound (rm : Nat) (f : FloatFormat) (terms : List Val) : Nat × FFlags :=
  let pos := terms.any (isInfOf false)
  let neg := terms.any (isInfOf true)
  if pos && neg then (canonNan f false, { nv := true })
  else if pos then encodeVal rm f (.inf false)
  else if neg then encodeVal rm f (.inf true)
  else
    let g := leastExp terms
    let t := terms.foldl (fun (acc : Int) v => acc + (match v with | .fin _ 0 _ => 0 | _ => unitsAt g v)) 0
    if t == 0 then (zeroCode f (zeroSign rm terms), {})
    else roundNonzero rm f (t < 0) t.natAbs g

/-- The first NaN of a list, carried to `f` (R56). (DEDUCED, log 76) -/
def firstNan (f : FloatFormat) : List Val → Option (Nat × FFlags)
  | [] => none
  | .nan n p w :: _ => some (nanCode f n p w)
  | _ :: vs => firstNan f vs

/-- `a + b`, or `a - b` with `sub` (R55, R56). `ops` is the operands in the order in which R56 looks for a NaN. -/
def addFloat (rm : Nat) (f : FloatFormat) (ops : List Val) (sub : Bool) (a b : Val) : Nat × FFlags :=
  match firstNan f ops with
  | some r => r
  | none => sumRound rm f [a, if sub then negVal b else b]

/-- `a × b` (R55, R56). -/
def mulFloat (rm : Nat) (f : FloatFormat) (ops : List Val) (a b : Val) : Nat × FFlags :=
  match firstNan f ops with
  | some r => r
  | none =>
    match mulVal a b with
    | (_, true) => (canonNan f false, { nv := true })
    | (p, false) => sumRound rm f [p]

/-- `a × b + d`, or `a × b - d` with `sub`, formed exactly and rounded once (R55, R66, 05 Table 5-3). A product 0 × ∞ sets NV beside a NaN `d`
too (R52, R54). -/
def fmaFloat (rm : Nat) (f : FloatFormat) (sub : Bool) (a b d : Val) : Nat × FFlags :=
  let (p, nv) := mulVal a b
  match firstNan f [a, b, d] with
  | some r => (r.1, { r.2 with nv := r.2.nv || nv })
  | none => if nv then (canonNan f false, { nv := true }) else sumRound rm f [p, if sub then negVal d else d]

/-- The exact quotient of magnitudes to more bits than any format keeps; an odd last bit stands for the rest,
so every rounding and the inexact test see the exact quotient's. -/
def quotient (m : Nat) (e : Int) (m' : Nat) (e' : Int) : Nat × Int :=
  let s := 80 + Nat.log2 m'
  let n := m * 2 ^ s
  let q := n / m'
  if n % m' == 0 then (q, e - e' - s) else (2 * q + 1, e - e' - s - 1)

/-- `a / b` (R54 DZ and NV, R55, R56). -/
def divFloat (rm : Nat) (f : FloatFormat) (a b : Val) : Nat × FFlags :=
  match firstNan f [a, b] with
  | some r => r
  | none =>
    match a, b with
    | .inf _, .inf _ => (canonNan f false, { nv := true })
    | .inf n, .fin k _ _ => encodeVal rm f (.inf (n != k))
    | .fin n _ _, .inf k => (zeroCode f (n != k), {})
    | .fin n m e, .fin k m' e' =>
      if m' == 0 then
        if m == 0 then (canonNan f false, { nv := true })
        else ((encodeVal rm f (.inf (n != k))).1, { dz := true })
      else if m == 0 then (zeroCode f (n != k), {})
      else
        let q := quotient m e m' e'
        roundNonzero rm f (n != k) q.1 q.2
    | _, _ => (canonNan f false, {})

/-- The integer square root, bit by bit from bit `k` down. -/
def isqrtFrom (n : Nat) : Nat → Nat → Nat
  | 0, q => if (q + 1) * (q + 1) ≤ n then q + 1 else q
  | k + 1, q =>
    let c := q + 2 ^ (k + 1)
    isqrtFrom n k (if c * c ≤ n then c else q)

/-- The square root (R54 NV, R55, R56); the square root of −0 is −0. -/
def sqrtFloat (rm : Nat) (f : FloatFormat) (a : Val) : Nat × FFlags :=
  match a with
  | .nan n p w => nanCode f n p w
  | .inf true => (canonNan f false, { nv := true })
  | .inf false => encodeVal rm f (.inf false)
  | .fin n m e =>
    if m == 0 then (zeroCode f n, {})
    else if n then (canonNan f false, { nv := true })
    else
      let k : Nat := if (e % 2 == 0) then 200 else 201
      let x := m * 2 ^ k
      let q := isqrtFrom x (Nat.log2 x / 2 + 1) 0
      let eh : Int := (e - k) / 2
      if q * q == x then roundNonzero rm f false q eh
      else roundNonzero rm f false (2 * q + 1) (eh - 1)

/-- The total order key of a `w`-bit float code (R57). -/
def fkey (w x : Nat) : Nat :=
  if x / 2 ^ (w - 1) % 2 == 1 then 2 ^ w - 1 - x % 2 ^ w else x % 2 ^ w + 2 ^ (w - 1)

/-! ### Integer conversions (Table 4-6) -/

/-- The least and the largest value of an integer tag. -/
def intBounds (t : Nat) : Int × Int :=
  let w := elemBits t
  if isSTag t then (-((2 ^ (w - 1) : Nat) : Int), ((2 ^ (w - 1) : Nat) : Int) - 1) else (0, ((2 ^ w : Nat) : Int) - 1)

/-- The integer value of a code of an integer tag (R50). -/
def intVal (t x : Nat) : Int :=
  if isSTag t then signed (elemBits t) x else ((x % 2 ^ elemBits t : Nat) : Int)

/-- A whole number delivered to an integer tag, saturating; `inexact` says the source already differed. -/
def saturateInt (t : Nat) (v : Int) (inexact : Bool) : Nat × FFlags :=
  let (lo, hi) := intBounds t
  if v < lo then (wrapN (elemBits t) lo, { nx := true, sat := true })
  else if hi < v then (wrapN (elemBits t) hi, { nx := true, sat := true })
  else (wrapN (elemBits t) v, { nx := inexact })

/-- A value converted to an integer tag (Table 4-6). -/
def valToInt (rm t : Nat) (v : Val) : Nat × FFlags :=
  match v with
  | .nan .. => (0, { nv := true })
  | .inf n =>
    let (lo, hi) := intBounds t
    (wrapN (elemBits t) (if n then lo else hi), { nx := true, sat := true })
  | .fin n m e =>
    let q : Int := (roundUnits rm n m e 0 : Nat)
    saturateInt t (if n then -q else q) (!exactUnits m e 0)

/-- The value of a whole number. -/
def valOfInt (i : Int) : Val := .fin (i < 0) i.natAbs 0

/-! ### Lake blocks (R58 to R60) -/

/-- Whether element value `x` is infinite or its count of units `2^g` exceeds `lim` (the negation of `fits`). -/
def lakeFits (rm lim : Nat) (g : Int) (x : Val) : Bool :=
  match x with
  | .fin n m e => roundUnits rm n m e g ≤ lim
  | _ => false

/-- The exponent of one unit (R59). -/
def lakeUnit (n e mu : Nat) : Int := (e : Int) - 63 - mu - (n - 1 : Nat)

/-- The smallest `e` from `e0` on, `fuel` values long, at which every element fits; 127 with none (R60). -/
def lakeExp (rm n : Nat) (xs : List Val) : Nat → Nat → Nat
  | 0, _ => 127
  | fuel + 1, e =>
    if xs.all (lakeFits rm (2 ^ n - 1) (lakeUnit n e 0)) then e else lakeExp rm n xs fuel (e + 1)

/-- The largest micro-exponent from `mu` down at which a quad fits, 0 with none (R60). -/
def lakeMicro (rm n e : Nat) (q : List Val) : Nat → Nat
  | 0 => 0
  | mu + 1 =>
    if q.all (lakeFits rm (2 ^ n - 1) (lakeUnit n e (mu + 1))) then mu + 1 else lakeMicro rm n e q mu

/-- The count of units of an element, `2^n` (too many) for an infinity. -/
def lakeCount (rm n : Nat) (g : Int) : Val → Nat
  | .fin s m e => roundUnits rm s m e g
  | _ => 2 ^ n

/-- The sign bit of an element. -/
def valNeg : Val → Bool
  | .fin n _ _ => n
  | .inf n => n
  | .nan n _ _ => n

/-- One quad encoded: its micro-exponent, its four element fields and the flags. -/
def lakeQuad (rm n e : Nat) (q : List Val) : Nat × List Nat × FFlags :=
  let mu := lakeMicro rm n e q 3
  let mu := if q.all (fun x => lakeCount rm n (lakeUnit n e mu) x == 0) then 0 else mu
  let g := lakeUnit n e mu
  let lim := 2 ^ n - 1
  let enc := q.map (fun x =>
    let c := lakeCount rm n g x
    let big : Bool := lim < c
    let c' := if big then lim else c
    let exact := match x with
      | .fin _ m ex => !big && exactUnits m ex g
      | _ => false
    (c' + (if valNeg x then 2 ^ n else 0), big, exact))
  (mu, enc.map (·.1), { sat := enc.any (·.2.1), nx := enc.any (fun t => !t.2.2) })

/-- Fields of `w` bits packed from bit 0 up. -/
def packFields (w : Nat) : List Nat → Nat
  | [] => 0
  | x :: xs => x % 2 ^ w + 2 ^ w * packFields w xs

/-- `lk_encode` (R60): the canonical block of sixteen values. -/
def lakeEncode (rm n : Nat) (xs : List Val) : Nat × FFlags :=
  if xs.any isNan then (128, {})
  else
    let e := lakeExp rm n xs 128 0
    let qs := (List.range 4).map (fun j => lakeQuad rm n e ((xs.drop (4 * j)).take 4))
    let u := packFields 2 (qs.map (·.1))
    let body := packFields (n + 1) (qs.flatMap (·.2.1))
    (e + 256 * u + 65536 * body, qs.foldl (fun f q => f.or q.2.2) {})

/-- Element `i` of a lake block (R59). -/
def lakeElem (n block i : Nat) : Val :=
  if bitAt block 7 then .nan false 1 1
  else
    let f := fld block (16 + (n + 1) * i) (n + 1)
    let mu := fld block (8 + 2 * (i / 4)) 2
    .fin (bitAt f n) (f % 2 ^ n) (lakeUnit n (block % 128) mu)

/-- The sixteen elements of a lake block. -/
def lakeDecode (n block : Nat) : List Val := (List.range 16).map (lakeElem n block)

/-! ### The exact-sum format (R64, R65) -/

def xsPosInf : Int := ((2 ^ 319 - 1 : Nat) : Int)
def xsNegInf : Int := -((2 ^ 319 - 1 : Nat) : Int)
def xsNan : Int := -((2 ^ 319 : Nat) : Int)

/-- The integer X of the low 320 bits of a register or record. -/
def xsOfCode (x : Nat) : Int := signed 320 x

/-- The 320-bit code of X. -/
def xsCode (x : Int) : Nat := wrapN 320 x

/-- X is a finite value. -/
def xsFinite (x : Int) : Bool := x != xsPosInf && x != xsNegInf && x != xsNan

/-- A value as XS (R62): exact. -/
def xsOfVal : Val → Int
  | .nan .. => xsNan
  | .inf n => if n then xsNegInf else xsPosInf
  | .fin n m e =>
    let u : Int := ((m * 2 ^ (e + 171).toNat / 2 ^ (-(e + 171)).toNat : Nat) : Int)
    if n then -u else u

/-- XS as a value (R62): a zero is +0, NaN is the canonical NaN. -/
def valOfXs (x : Int) : Val :=
  if x == xsNan then .nan false 1 1
  else if x == xsPosInf then .inf false
  else if x == xsNegInf then .inf true
  else .fin (x < 0) x.natAbs (-171)

/-- An exact sum held to the XS limit (R65): over it, an infinity and OF. -/
def xsClamp (t : Int) : Int × FFlags :=
  if t ≥ xsPosInf then (xsPosInf, { of := true })
  else if t ≤ xsNegInf then (xsNegInf, { of := true })
  else (t, {})

/-- XS addition (R65). (DEDUCED, log 85) -/
def xsAdd (a b : Int) : Int × FFlags :=
  if a == xsNan || b == xsNan then (xsNan, {})
  else if xsFinite a then
    if xsFinite b then xsClamp (a + b) else (b, {})
  else if xsFinite b then (a, {})
  else if a == b then (a, {})
  else (xsNan, { nv := true })

/-! ### Elements under a tag -/

/-- The value of one element code of a tag that is no lake tag (R50, R51). -/
def elemVal (t x : Nat) : Val :=
  if isIntTag t then valOfInt (intVal t x)
  else if t == 20 then valOfXs (xsOfCode x)
  else decodeFloat (floatFormat t) (if t == 14 || t == 15 then x % 64 else x)

/-- One value converted to an element of a tag that is no lake tag (Table 4-6). -/
def valToElem (rm t : Nat) (v : Val) : Nat × FFlags :=
  if isIntTag t then valToInt rm t v
  else if t == 20 then (xsCode (xsOfVal v), {})
  else encodeVal rm (floatFormat t) v

end Sys2Proof.Machine
end

