-- ==== Sys2Proof/Config.lean ====
section
/-!
DEFINITION. What the spec fixes for every HX-820 (R1, R43) and the values it leaves open. An opaque constant here has
no value that a proof can see.
-/
namespace Sys2Proof.Config

/-- Bytes of one scratchpad (R1). -/
abbrev scratchBytes : Nat := 0x200000
/-- Number of vats (R1). -/
abbrev vats : Nat := 2048
/-- FEAT1, FEAT2 and FEAT3 (R43). -/
def feat1 : Word := 0x0000041010200100#64
def feat2 : Word := 0x0080104020400200#64
def feat3 : Word := 0x000000017D210820#64

/-- What a scratchpad byte holds after a fatal fault (R316: scratchpad contents are not kept): a free value, one for
each fault and each byte. -/
opaque lostByte (fault : Nat) (addr : Nat) : Byte

/-- The status with which a near margin or supply is first measured is an input of the boot step; the supply of an
island before any boot (R355 gives 600 to 950 mV; DESIGN CHOICE, log entry 3). -/
def resetMv : Nat := 800

/-- What an 8-byte word holds after an uncorrectable error (R207, R359): a free value, one for each turn and word. -/
opaque errorWord (turn word : Nat) : Word

/-- The physical frame number of a 16 KiB page of far memory as the host's command core reaches it (21 R334): the spec gives no buffer or
table through which host frames translate, so the mapping is free. -/
opaque hostPage (page : Nat) : Nat

end Sys2Proof.Config
end

