-- ==== Sys2Proof/Machine/State.lean ====
section
/-!
DEFINITION. The state of the machine, all plain data, its reset value, and the reasons a step can stop.

Keys of the maps: a node is `n` (vats 0 to 2047, service nodes 2048 + 2 · cluster + SVC); a core `ck` is 4n + core; a
handler entry 32 · ck + e; a channel 16 · ck + c; a rectangle slot 4n + s; a queue 8n + q; a semaphore 16n + i; a
tile-table entry 64n + e; a command slot 8n + i; the fault SEQ of a command slot 16n + i, of a stream unit 16n + 8 + u; a stream unit 4n + u; a Mordant entry 512n + i; a translation entry
64n + i; an accumulator run 128n + first bank. A key that a map does not list holds its reset value. Scratchpad bytes
have address n · 2^21 + offset, scratchpad words that over 8, lines that over 128; accumulator bytes have address
n · 2^18 + 2048 · bank + byte, accumulator rows n · 1024 + 8 · bank + row.
-/
namespace Sys2Proof.Machine
open Sys2Proof

/-- A sparse table by number, keys strictly rising. -/
abbrev Map (α : Type) := List (Nat × α)

/-! ### Handlers and cores -/

/-- Handler entry states (09 Table 9-3). -/
inductive EState where
  | idle | runnable | active | blocked
  deriving DecidableEq, Repr

/-- Why an entry is BLOCKED. Every wait but `reply`, `phase`, `walk`, `fault` and `chainSent` ends when the instruction at
IP could proceed; those five end with their own event. -/
inductive Wait where
  | none
  /-- An empty line, queue, channel or tile, a free slot, room, the array, a reservation (R16). -/
  | retry
  /-- The matrix array is busy (R109). -/
  | array
  /-- SEMP on a semaphore (R253). -/
  | sem (s : Nat)
  /-- A trap that waits for the slot's other trap handler (R303): cause, INFO, saved IP is the next instruction. -/
  | trap (cause info : Nat) (next : Bool)
  /-- A request that has left (R16), by its outstanding slot. -/
  | reply (oid : Nat)
  /-- PHASE after its arrival (R234). -/
  | phase (g : PhaseKey)
  /-- WALK or WSTEP in the array (R137). -/
  | walk
  /-- A translation miss at a virtual address (R244). -/
  | miss (va : Nat)
  /-- A fault reply (R245): virtual address and KIND. -/
  | fault (va kind : Nat)
  /-- ACHAIN waits for the grant of its reservation, or for the acceptance of its partial (R114). -/
  | chainGrant
  | chainSent
  deriving DecidableEq, Repr

/-- A granule read remotely in a phase of its entry (13 SNAPSHOT): `far` or near, its number (16-byte far, 64-byte near), its bytes,
and its poison marks by 8-byte word. -/
structure Granule where
  phase : Nat
  far   : Bool
  num   : Nat
  data  : Nat
  marks : List Nat
  deriving DecidableEq, Repr

/-- The readers that a release serves (Table 13-2, Reach). -/
inductive Reach where
  | vat (node : Nat)
  | group (g : PhaseKey)
  | cluster (c : Nat)
  | die (d : Nat)
  | package
  deriving DecidableEq, Repr

/-- Who writes far memory: a handler entry, an engine command (by node, slot and turn of issue) or an image of a rectangle, by its launch id; a
receive; the host. -/
inductive Writer where
  | handler (lid k : Nat)
  | command (lid node i order : Nat)
  | image (lid : Nat)
  | receive (entry : Nat)
  | host
  deriving DecidableEq, Repr

/-- A release of a write (R230): its number among all releases, and its reach. -/
structure Bar where
  rel   : Nat
  reach : Reach
  deriving DecidableEq, Repr

/-- An earlier value of a granule, far or near, that a remote read may still return (R231): its number, bytes and marks, the turn at which it was
current, who has written a far granule since, and the releases that cover such a write; of a near one, all releases since. (DESIGN CHOICE, log 97) -/
structure Copy where
  far     : Bool := true
  num     : Nat
  data    : Nat
  marks   : List Nat
  kept    : Nat
  writers : List Writer := []
  bars    : List Bar := []
  deriving DecidableEq, Repr

/-- A mailbox word (R150): value, last-word flag, and whether its pop takes a completion (R230). -/
structure BoxWord where
  val  : Word
  last : Bool
  acq  : Bool := false
  deriving DecidableEq, Repr

/-- A queue entry (R252). -/
structure QEntry where
  slot : Nat
  tag  : Nat
  val  : Nat
  deriving DecidableEq, Repr

/-- A word that an instruction has popped on its way out: from channel `c` of its core, or from queue `q` of its vat. -/
inductive Taken where
  | chan (c : Nat) (w : BoxWord)
  | queue (q : Nat) (e : QEntry)
  deriving DecidableEq, Repr

/-- A handler entry (09 Table 9-2) with the live registers of its activation, its wait and its yield set. `ws` and
`wp` are scratchpad offsets, `entry` and `ip` too. -/
structure Entry where
  v     : Bool := false
  ws    : Nat := 0
  slot  : Nat := 0
  prio  : Nat := 0
  msk   : Bool := false
  state : EState := .idle
  lnch  : Bool := false
  yld   : Bool := false
  vregs : Nat := 0
  lhn   : Nat := 0
  entry : Nat := 0
  chans : Nat := 0
  wp    : Nat := 0
  ip    : Nat := 0
  st    : Word := 0
  wait  : Wait := .none
  since : Nat := 0
  pset  : List Nat := []
  seq   : Nat := 0
  phase : Nat := 0
  snap  : List Granule := []
  /-- This activation has asked for a chain reservation, and holds one (R114). -/
  asked : Bool := false
  grant : Bool := false
  /-- The count of release events at the last acquire of the activation; by far granule, the first turn after the activation last read
it, and after the handler last wrote it; by another vat, the first turn after the activation last accessed its scratchpad; and the turn before which
no earlier value is found at all (R231). -/
  relAt : Nat := 0
  readAt : Map Nat := []
  wroteAt : Map Nat := []
  nearAt : Map Nat := []
  floor : Nat := 0
  /-- The words that the instruction whose reply the entry awaits has popped, and that its trap or withdrawal puts back (R16, R28). -/
  taken : List Taken := []
  /-- The words of the handler's `.mirror` list (R23, R348). -/
  mirrors : List Nat := []
  deriving DecidableEq, Repr

/-- An outstanding slot in use (R156). -/
structure Out where
  oid : Nat
  lid : Nat
  ent : Nat
  /-- The slot holds a message, refusal or fold, whose end the sender's activation does not wait for. -/
  msg : Bool
  /-- It holds a fold, which is not performed while the slot is in use (R318). -/
  fold : Bool := false
  deriving DecidableEq, Repr

/-- A core: `last` of R154, the outstanding slots, DBG (19 Table 19-10), EH by rectangle slot, the mirror owner's entry
and the word of each mirror slot. -/
structure Core where
  last  : Nat := 31
  outs  : List Out := []
  hlt   : Bool := false
  hob   : Bool := false
  step  : Bool := false
  ent   : Nat := 0
  eh    : Map Word := []
  owner : Option Nat := Option.none
  mir   : Map Nat := []
  deriving DecidableEq, Repr

/-- A message that is never refused and waits for room in a channel (R161). `oid` is the outstanding slot it frees
at entry, if any: its core and number. -/
structure WaitItem where
  words : List Word
  acq   : Bool := false
  oid   : Option (Nat × Nat) := Option.none
  deriving DecidableEq, Repr

/-! ### Rectangle slots and launches -/

/-- A Mordant class (10, Classes). -/
structure MqClass where
  ch   : Nat := 0
  fth  : Nat := 0
  ath  : Nat := 0
  rval : Nat := 0
  deriving DecidableEq, Repr

/-- A rectangle slot in use: launch id, logical number, origin, the launch request's words 0 to 3, its first granted
bank, generation counter, Mordant classes and HWM, chain inbox with its reservation and the
requests that wait for it, whether a stop holds it, whether its last image is whole, with its generation and the offsets of the image units changed since
(R310), the cores that have acted in the present cycle of its queue, the number of outstanding slots handed out before that cycle, and whether its phase 3
is over (R182), and the SENDRs of the slot that its rectangle has accepted and not answered, counted by reply tag (as 16 · core + channel of the place where
the rectangle was then). -/
structure Slot where
  lid     : Nat
  lvn     : Nat
  ox      : Nat
  oy      : Nat
  shape   : Nat
  space   : Nat
  chans   : Nat
  rfcs    : Nat
  bank0   : Nat
  gen     : Nat := 1
  classes : Map MqClass := []
  hwm     : Nat := 0
  inbox   : Option Partial := Option.none
  reserved : Option ChainReq := Option.none
  asking  : List ChainReq := []
  stopped : Bool := false
  imaged  : Bool := false
  igen    : Nat := 0
  udirty  : List Nat := []
  cycle   : List Nat := []
  mark    : Nat := 0
  closed  : Bool := false
  tags    : Map Nat := []
  deriving DecidableEq, Repr

/-- Resources a vat holds for a launch or resume not yet decided (R169): request words and records. -/
structure Resv where
  lid  : Nat
  req  : List Nat
  bank0 : Nat
  deriving DecidableEq, Repr

/-- Vat state outside the maps: the launch counter and the reservations. -/
structure Vat where
  ctr  : Nat := 1
  resv : List Resv := []
  deriving DecidableEq, Repr

/-- A launch that waits for its vats' answers (R168 to R170): the core that issued LAUNCH (none for the host), the request's
words, the 240 constant words, ENDTO, and the answers: logical number, code and core (code 0 grants). `commits` lists the
vats that have committed. -/
structure Launch where
  lid     : Nat
  src     : Option Nat
  req     : List Nat
  consts  : List Nat
  endto   : Nat
  auth    : Option (Nat × Nat)
  hostSeq : Nat
  answers : List (Nat × Nat × Nat)
  commits : List Nat
  deriving DecidableEq, Repr

/-- A resident rectangle: its launch id and shape word, its origin, ENDTO, the launch id and logical number of the
slot with authority over it, and the host frame that launched it. -/
structure Rect where
  lid     : Nat
  shape   : Nat
  ox      : Nat
  oy      : Nat
  endto   : Nat
  auth    : Option (Nat × Nat)
  hostSeq : Nat
  deriving DecidableEq, Repr

/-- A verdict or END word held until its launcher is resident (R172). -/
structure Held where
  endto : Nat
  word  : Word
  deriving DecidableEq, Repr

/-! ### Memory side -/

/-- Tile-table states (12 Table 12-8). -/
inductive TState where
  | empty | filling | ready | draining
  deriving DecidableEq, Repr

/-- A tile-table entry (12 Table 12-7); `refill` marks a DRAINING entry that refills. -/
structure Tile where
  v      : Bool := false
  slot   : Nat := 0
  rcm    : Bool := false
  sem    : Nat := 0
  uses   : Nat := 0
  nl     : Nat := 0
  first  : Nat := 0
  uleft  : Nat := 0
  state  : TState := .empty
  cons   : Nat := 0
  pend   : Nat := 0
  refill : Bool := false
  deriving DecidableEq, Repr

/-- A translation entry (14 Table 14-1): page and frame words, draining, its place in the order of last uses. -/
structure Tlb where
  page  : Nat
  frame : Nat
  drain : Bool
  used  : Nat
  deriving DecidableEq, Repr

/-- An accumulator run (R103): banks, generation, format code (0 ZERO, else the tag), the entry key of its owner, and the workspace in
which AALLOC wrote its handle. -/
structure Run where
  count : Nat
  gen   : Nat
  afmt  : Nat
  owner : Nat
  ws    : Nat
  deriving DecidableEq, Repr

/-- What the read phase of a walk step, or the next access of an engine, waits for: a translation miss, a fault reply,
or a line. -/
inductive CmdWait where
  | none | miss (va : Nat) | fault (va kind : Nat) | line
  deriving DecidableEq, Repr

/-- A walk in the array (R137): descriptors and tags of its row tile and progress tile, the step limit, the trap
enable of R131; `single` is WSTEP; `log` lists the reads that the step being read has made, in order, each by its key (the scratchpad address, or
the virtual address with bit 60 set) with its word and poison, none where it ended with a fail reply; `wait` is what its read phase waits for; `set`
holds the rows of S with their records, once the step's read phase has begun (R128); `cache` the node cache, oldest first: pointer and the header's words (R134); `stepped` marks a WSTEP whose step has committed. -/
structure WalkJob where
  f      : Nat
  ftag   : Nat
  p      : Nat
  lim    : Nat
  traps  : Bool
  single : Bool
  log    : List (Nat × Option (Nat × Bool)) := []
  wait   : CmdWait := .none
  set    : Option (List (Nat × Nat)) := none
  cache  : List (Nat × List Nat) := []
  stepped : Bool := false
  deriving DecidableEq, Repr

/-- What the matrix array holds (R109, R137): the issuing entry key, the run's first bank, the tile-table entries it
consumes, the byte ranges (offset, length) of its tiles, and the walk, if it is one. -/
structure ArrayJob where
  ent    : Nat
  run    : Nat
  tiles  : List Nat
  lines  : List (Nat × Nat)
  walk   : Option WalkJob
  deriving DecidableEq, Repr

/-- Mordant record states (R173). -/
inductive MqState where
  | waiting | dispatching
  deriving DecidableEq, Repr

/-- A Mordant record (R174, R175); `order` is its insertion order, `unit` its number among the entries of its slot. -/
structure MqRec where
  slot    : Nat
  header  : Word
  payload : Nat
  tag     : Nat
  folds   : Nat
  age     : Nat
  reason  : Nat
  state   : MqState
  ovf     : Bool
  sat     : Bool
  of      : Bool
  nv      : Bool
  order   : Nat
  unit    : Nat := 0
  deriving DecidableEq, Repr

/-! ### Engines -/

/-- Kinds of engine command (15 Table 15-3). -/
inductive CmdKind where
  | xfer | gath | mcast | glz | fabric
  deriving DecidableEq, Repr

/-- A stage line of a gather (R263, R265): the turn of its hand-over, its first element, its count, whether it is released, and the index words
that its kernel left at GEND. -/
structure StageLine where
  turn  : Nat
  first : Nat
  count : Nat
  free  : Bool
  words : List Nat := []
  deriving DecidableEq, Repr

/-- A sum of one destination point as GLZ forms it (R278): XS total, NV, poison, STATUS. -/
structure GlzSum where
  acc : Int := 0
  nv  : Bool := false
  bad : Bool := false
  st  : Nat := 0
  deriving DecidableEq, Repr

/-- What GLZ has read for its points (R281, R283): by destination point, the number of source units read for it and their sum so far; and
the old bytes that PROLONG.ADD has read of a far unit, with the marks of their words. -/
structure GlzWork where
  parts : Map (Nat × GlzSum) := []
  old   : Option (Nat × List Nat) := none
  deriving DecidableEq, Repr

/-- A command slot in use (R254 to R256): kind, launch id and entry of the issuer, control word, captured operands (`src` and `dst`
address words, descriptors and tables in `args`), the LEN or point count still in force after a fail (`limit`), the place
reached (`pos`), DONE and STATUS so far, result flags, the tile-table entries (64 node + e) it consumes, the nodes where ARMV has acted, what it
waits for, and whether its work but for the last write is over. `flight`: the source units a copy has read ahead, the multicast units
not yet written everywhere, the elements in flight with their targets. For a gather: elements issued or skipped, and the stage lines held. For a
multicast: the units each receiver (by node) has written. For GLZ: what it has read. `relAt` is the count of release events at the acquire that
its reads follow, `found` the earlier values of far granules that it reads, `readAt` the first turn after its last step (R231). -/
structure Cmd where
  kind   : CmdKind
  lid    : Nat
  ent    : Nat
  ctl    : Word
  src    : Word
  dst    : Word
  args   : List Nat := []
  limit  : Nat := 0
  pos    : Nat := 0
  done   : Nat := 0
  status : Nat := 0
  flags  : Nat := 0
  tiles  : List Nat := []
  armed  : List Nat := []
  wait   : CmdWait := .none
  closing   : Bool := false
  flight : List (Nat × Nat) := []
  issued : Nat := 0
  stage  : List StageLine := []
  recv   : List (Nat × Nat) := []
  work   : GlzWork := {}
  order  : Nat := 0
  relAt  : Nat := 0
  found  : List Granule := []
  readAt : Nat := 0
  deriving DecidableEq, Repr

/-- Why an engine access cannot be made now: a line, entry or receiver; a translation miss; a fault with its cause. `used` is the virtual address at
which the access begins, whose translation it has used if it ends in the next page. -/
inductive EngStop where
  | wait
  | miss (va kind used : Nat)
  | fault (va kind cause used : Nat)
  deriving DecidableEq, Repr

/-- A stream unit that is on (R258 to R260): the issuing slot, descriptor words, control word of STRMX, next strip to
fetch, strips fetched and not popped, strips popped, STATUS, whether it ended short, the tile-table entries it consumes, its wait, and its ordering
as for a command. -/
structure Strm where
  lid     : Nat
  slot    : Nat
  desc    : List Nat
  ctl     : Option Word
  pos     : Nat := 0
  fetched : List Nat := []
  popped  : Nat := 0
  status  : Nat := 0
  ended   : Bool := false
  tiles   : List Nat := []
  wait    : CmdWait := .none
  relAt   : Nat := 0
  found   : List Granule := []
  readAt  : Nat := 0
  deriving DecidableEq, Repr

/-! ### Ordering, translation, stops -/

/-- A phase group (R233): its key, its open generation (modulo 256: the spec gives its number no width; DESIGN CHOICE, log 65), and the arrivals in
order, each with its node, its PHASE word bits 15:0 and the entry key that waits. -/
structure PhaseGroup where
  key  : PhaseKey
  gen  : Nat
  arr  : List (Nat × Nat × Nat)
  deriving DecidableEq, Repr

/-- A fault-address queue (R250). -/
structure Faq where
  items : List Nat := []
  ovf   : Bool := false
  deriving DecidableEq, Repr

/-- What an activation that has been imaged has seen of memory (R231): its handler, as 128 · logical number + 32 · core + logical handler number, the
image's GEN, the granules that it has read in its phase, and what bounds the earlier values that it may find. -/
structure Seen where
  key    : Nat
  gen    : Nat
  snap   : List Granule
  relAt  : Nat
  readAt : Map Nat
  wroteAt : Map Nat
  nearAt : Map Nat
  floor  : Nat
  deriving DecidableEq, Repr

/-- What the device keeps of a rectangle's last image beside it: the host frame of its launch, where its END goes, whether that END is owed because the
rectangle has left its vats, and what its activations have seen. (DESIGN CHOICE, log 65) -/
structure Aside where
  lid     : Nat
  hostSeq : Nat
  endto   : Nat
  owed    : Bool
  seen    : List Seen
  deriving DecidableEq, Repr

/-- A unit of a vat image (Table 19-5): its offset and size, its bytes, and the words with an uncorrectable check code, counted from its start. -/
structure ImageUnit where
  off   : Nat
  size  : Nat
  val   : Nat
  marks : List Nat := []
  deriving DecidableEq, Repr

/-- The bytes of a vat image as RESUME reads them, with the numbers of the words that have an uncorrectable error. -/
structure VatBytes where
  val : Nat
  bad : List Nat
  deriving DecidableEq, Repr

/-- An IMAGE that has issued (R308 to R312): the rectangle, KEEP, INCR, the base virtual address, where the verdict goes, the issuing slot
(none for a service core); whether its stop is under way, the vats done, those whose image write waits and for what, what each vat that has begun
has still to write (offsets of units; 0 and 1 the header with COMPLETE 0 and 1, 2 the choice of the units), and whether a write failed. -/
structure ImageJob where
  lid    : Nat
  keep   : Bool
  incr   : Bool
  base   : Nat
  endto  : Nat
  auth   : Option (Nat × Nat)
  active : Bool := false
  done   : List Nat := []
  waits  : Map CmdWait := []
  todo   : Map (List Nat) := []
  failed : Bool := false
  deriving DecidableEq, Repr

/-- A RESUME that has issued (R311, R313): the rectangle with its shape at the new origin, the base virtual address, where the verdict and
where END goes, the issuing slot; the vats whose read of their image waits and for what, those whose read failed, the answers, and the 16 KiB pages of its
image that each vat has read (bytes and poisoned words; none where there is no memory). -/
structure ResumeJob where
  id      : Nat
  lid     : Nat
  shape   : Nat
  base    : Nat
  stride  : Nat
  replyTo : Nat
  endto   : Nat
  auth    : Option (Nat × Nat)
  waits   : Map CmdWait := []
  fails   : List Nat := []
  answers : List (Nat × Nat × Nat) := []
  got     : Map (List (Option (Nat × List Nat))) := []
  deriving DecidableEq, Repr

/-! ### Device, fabric, host -/

/-- A fabric matching entry (21 Table 21-3): STATE, the vat and slot that own it, its fields; while it fills, the STATUS so far and the
fault it waits for. -/
structure Match where
  state : Nat := 0
  slot  : Nat := 0
  node  : Nat := 0
  lid   : Nat := 0
  status : Nat := 0
  wait  : CmdWait := .none
  tag   : Nat := 0
  len   : Nat := 0
  dst   : Word := 0
  addr  : Word := 0
  mtag  : Word := 0
  deriving DecidableEq, Repr

/-- An island (23 R355). -/
structure Island where
  thr  : Bool := false
  mv   : Nat := Config.resetMv
  mhz  : Nat := 4000
  conf : Nat := 4000
  deriving DecidableEq, Repr

/-- A lane (23 Table 23-3); `failed` says that a REPAIR has found no spare (R358). Before boot measures its margins, and where it does not, they are 0. (DESIGN
CHOICE, log 116) -/
structure Lane where
  spr   : Bool := false
  state : Nat := 0
  vmarg : Nat := 0
  hmarg : Nat := 0
  pend  : Bool := false
  failed : Bool := false
  deriving DecidableEq, Repr

/-- The fabric side of the device (R325 to R330): port up, its fabric address, own number, device count, peers' fabric addresses by number,
domains by address, and the payloads and sequence numbers of the PEERS frames held. -/
structure Fabric where
  up      : Bool := false
  addr    : Nat := 0
  own     : Nat := 0
  count   : Nat := 1
  peers   : Map Nat := []
  domains : List (Nat × Nat) := []
  held    : List (Nat × Nat) := []
  deriving DecidableEq, Repr

/-- The host link (R334 to R336, R363): EPOCH, HA, HC, the host frames completed above HC, the next device SEQ, unacknowledged frames, held
frames, host frames accepted that have not started, in SEQ order, frames sent outside the window, and the launch counter. -/
structure HostLink where
  epoch  : Nat := 1
  ha     : Nat := 0
  hc     : Nat := 0
  doneSet : List Nat := []
  next   : Nat := 1
  window : List Frame := []
  held   : List Frame := []
  queued : List Frame := []
  sent   : List Frame := []
  ctr    : Nat := 1
  deriving DecidableEq, Repr

/-- A choice of what happens next: core `ck` issues; the `k`-th pending event is due (or the oldest one of its
first-in-first-out lane); an event from outside the package, or one of the machine's clocks, happens. -/
inductive Move where
  | issue (ck : Nat)
  | due (k : Nat)
  | ext (i : Event)
  /-- A copy of far, or near, granule `num` is kept as it stands; entry `k` finds copy `i` as its first read of that granule in its phase; command
  `cmd`, or stream unit `cmd` − 8, finds it (R231). -/
  | keep (num : Nat)
  | keepNear (num : Nat)
  | recall (k i : Nat)
  | feed (node cmd i : Nat)
  /-- GLZ command `cmd` reads the next source unit of its destination point `p`, ahead of its turn (R281). -/
  | look (node cmd p : Nat)
  /-- The next cycle of a slot's Mordant queue begins (R182). -/
  | cycle (node slot : Nat)
  /-- The program that is loaded has `.mirror` list `ws` for the handler whose entry point is at scratchpad address `a` (R348). -/
  | mirrors (a : Nat) (ws : List Nat)
  deriving DecidableEq, Repr

/-- The handler entry whose instruction executes: its core and its number. -/
structure Cursor where
  ck  : Nat := 0
  ent : Nat := 0
  deriving DecidableEq, Repr

/-- The whole machine. `agenda` holds the messages, requests and replies in flight as the events they will be, oldest
first; `drained` lists the draining pages by vat whose translation entry has been replaced; `lselSet` says that LSEL has been written since reset;
`mirrorLists` gives, by the scratchpad address of a handler's entry point, the words of its `.mirror` list (R348), which are part of the program;
`moves` is a schedule to follow before the default one; `turn` counts steps; `cur` is the entry that
executes; `oids` numbers the outstanding slots handed out. -/
structure State where
  mem       : List Host.Cell := []
  poison    : List Nat := []
  empty     : List Nat := []
  dirty     : List Nat := []
  lost      : Nat := 0
  accMem    : List Host.Cell := []
  accPoison : List Nat := []
  far       : List Host.Cell := []
  farPoison : List Nat := []
  farCount  : Map Nat := []
  stale     : List Copy := []
  rels      : Nat := 0
  badFrames : List Nat := []
  cores     : Map Core := []
  entries   : Map Entry := []
  boxes     : Map (List BoxWord) := []
  waits     : Map (List WaitItem) := []
  slots     : Map Slot := []
  vats      : Map Vat := []
  queues    : Map (List QEntry) := []
  sems      : Map Nat := []
  tiles     : Map Tile := []
  runs      : Map Run := []
  arrays    : Map ArrayJob := []
  mqs       : Map MqRec := []
  cmds      : Map Cmd := []
  cmdSeqs   : Map Nat := []
  streams   : Map Strm := []
  strmEnds  : List (Nat × Nat × Strm) := []
  tlb       : Map Tlb := []
  drained   : List (Nat × Nat) := []
  misses    : List (Nat × Nat) := []
  atomics   : Map (List Nat) := []
  faqs      : Map Faq := []
  launches  : List Launch := []
  rects     : List Rect := []
  held      : List Held := []
  phases    : List PhaseGroup := []
  images    : List ImageJob := []
  resumes   : List ResumeJob := []
  asides    : List Aside := []
  matching  : Map Match := []
  islands   : Map Island := []
  lanes     : Map Lane := []
  spares    : Map Nat := []
  pauses    : List Nat := []
  lsel      : Nat := 0
  lselSet   : Bool := false
  health    : Health := {}
  fabric    : Fabric := {}
  host      : HostLink := {}
  agenda    : List Event := []
  mirrorLists : Map (List Nat) := []
  moves     : List Move := []
  turn      : Nat := 0
  oids      : Nat := 0
  cur       : Cursor := {}
  deriving DecidableEq, Repr

/-- How the body of an instruction ends when it does not run to its end: a trap (cause, INFO, whether the saved IP is the next
instruction), a block with nothing changed (R16), or a block that leaves state `s` (a request or message sent). -/
inductive Stop where
  | trap (cause info : Nat) (next : Bool)
  | block (w : Wait)
  | blockIn (s : State) (w : Wait)
  deriving DecidableEq, Repr

/-- What the body of an instruction works on: the state as changed so far, the state before the instruction, and the
INFO of the first poisoned word it has read (R302: raised once every check has passed). -/
structure Ctx where
  s    : State
  orig : State
  bad  : Option Nat := Option.none
  deriving DecidableEq, Repr

/-- A class check: position, field, and whether the class is accepted. -/
structure Check where
  pos : Nat
  num : Nat
  ok  : Bool
  deriving DecidableEq, Repr

/-- A tile descriptor (06 Table 6-2) with the tag of its register, which is its format (R361). -/
structure TileD where
  base   : Nat
  rows   : Nat
  cols   : Nat
  kind   : Nat
  tag    : Nat
  tte    : Nat
  tv     : Bool
  stride : Nat
  /-- No reserved bit is set. -/
  clean  : Bool
  deriving DecidableEq, Repr

/-- What a walk step does to one row: its record, its accumulator row and poison if it writes one, its flags, and its
fault code. -/
structure WalkRow where
  row   : Nat
  bits  : Nat
  acc   : Option (List Nat) := Option.none
  psn   : Bool := false
  flags : FFlags := {}
  fault : Nat := 0
  deriving DecidableEq, Repr

/-- A node header (07 Table 7-2). -/
structure WalkNode where
  clean  : Bool
  kind   : Nat
  mode   : Nat
  rule   : Nat
  kch    : Nat
  din    : Nat
  dout   : Nat
  mfmt   : Nat
  mptr   : Nat
  ctab   : Nat
  thresh : Nat
  nodeid : Nat
  deriving DecidableEq, Repr

/-- What the lookup of a far address finds (R243). -/
inductive Found where
  | physical (pa entry : Nat)
  | miss
  | fault (cause : Nat)
  | draining
  deriving DecidableEq, Repr

/-- A vector operand: its tag and its 64 bytes. -/
structure VVal where
  tag : Nat
  val : Nat
  deriving DecidableEq, Repr

/-- Why a step stops with a fault. -/
inductive Fault where
  /-- Raised by every encoded instruction when the entry that `cur` names is not ACTIVE: there is no activation to execute
  it. Safe: `step` executes an instruction only for an ACTIVE entry, so no run meets it. -/
  | noActivation
  deriving DecidableEq, Repr

/-- Why an instruction has no meaning. -/
inductive Refusal where
  /-- Raised by the dispatcher alone, for an instruction that has no meaning yet; safe. -/
  | notModelled (mnemonic : String)
  deriving DecidableEq, Repr

/-- The machine right after device reset (R3, R205, R154, R168, R334, R363): every field at its reset value, which is
the default each field and each map entry has. (DESIGN CHOICE, log 105) -/
def State.reset : State := {}

end Sys2Proof.Machine
end

