-- ==== Sys2Proof/Machine/Store.lean ====
section
/-!
DEFINITION. The stores: sparse tables, number sets, and byte memory in its one canonical form (addresses strictly
rising, no entry equal to what an unlisted address reads as).
-/
namespace Sys2Proof.Machine
open Sys2Proof

/-! ### Tables -/

/-- The entry of a table, if it has one. -/
def mget? {α : Type} : Map α → Nat → Option α
  | [], _ => none
  | (k', v) :: r, k => if k' == k then some v else mget? r k

/-- The entry of a table, `d` where none is listed. -/
def mget {α : Type} (m : Map α) (k : Nat) (d : α) : α := (mget? m k).getD d

/-- Set an entry, keeping the keys rising. -/
def mset {α : Type} : Map α → Nat → α → Map α
  | [], k, v => [(k, v)]
  | (k', v') :: r, k, v =>
    if k == k' then (k, v) :: r
    else if k < k' then (k, v) :: (k', v') :: r
    else (k', v') :: mset r k v

/-- Remove an entry. -/
def mdel {α : Type} (m : Map α) (k : Nat) : Map α := m.filter (fun p => p.1 != k)

/-- Change an entry. -/
def mmod {α : Type} (m : Map α) (k : Nat) (d : α) (f : α → α) : Map α := mset m k (f (mget m k d))

/-! ### Sets of numbers, rising -/

/-- Add a number to a set. -/
def setAdd : List Nat → Nat → List Nat
  | [], x => [x]
  | y :: r, x => if x == y then y :: r else if x < y then x :: y :: r else y :: setAdd r x

/-- Add the numbers `lo` to `lo + n - 1`. -/
def setAddRange (xs : List Nat) (lo n : Nat) : List Nat :=
  xs.filter (· < lo) ++ (List.range n).map (lo + ·) ++ xs.filter (lo + n ≤ ·)

/-- Remove the numbers `lo` to `lo + n - 1`. -/
def setDelRange (xs : List Nat) (lo n : Nat) : List Nat :=
  xs.filter (fun x => !(lo ≤ x && x < lo + n))

/-- Whether a number from `lo` to `lo + n - 1` is in the set. -/
def setMeets (xs : List Nat) (lo n : Nat) : Bool := xs.any (fun x => lo ≤ x && x < lo + n)

/-- The first number of the set from `lo` to `lo + n - 1`. -/
def setFirst (xs : List Nat) (lo n : Nat) : Option Nat := xs.find? (fun x => lo ≤ x && x < lo + n)

/-! ### Byte memory -/

/-- The byte at an address; `fill` is what an unlisted address reads as. -/
def byteAt (fill : Nat → Byte) (m : List Host.Cell) (a : Nat) : Byte :=
  match m.find? (fun c => c.1 == a) with
  | some c => c.2
  | none => fill a

/-- `n` bytes from address `a`, little-endian. -/
def loadN (fill : Nat → Byte) (m : List Host.Cell) (a : Nat) : Nat → Nat
  | 0 => 0
  | n + 1 => (byteAt fill m a).toNat + 256 * loadN fill m (a + 1) n

/-- The cells of `n` bytes of `v` from address `a`, those that read as `fill` left out. -/
def cellsOf (fill : Nat → Byte) (a : Nat) : Nat → Nat → List Host.Cell
  | 0, _ => []
  | n + 1, v =>
    let b := BitVec.ofNat 8 v
    if b == fill a then cellsOf fill (a + 1) n (v / 256)
    else (a, b) :: cellsOf fill (a + 1) n (v / 256)

/-- Write the low `n` bytes of `v` at address `a`, little-endian. -/
def storeN (fill : Nat → Byte) (m : List Host.Cell) (a n v : Nat) : List Host.Cell :=
  m.filter (fun c => c.1 < a) ++ cellsOf fill a n v ++ m.filter (fun c => a + n ≤ c.1)

/-- The addresses rise strictly. -/
def risingCells : List Host.Cell → Bool
  | [] => true
  | [_] => true
  | c :: d :: r => c.1 < d.1 && risingCells (d :: r)

/-- The canonical form of a memory. -/
def Memory.wf (fill : Nat → Byte) (m : List Host.Cell) : Bool :=
  risingCells m && m.all (fun c => c.2 != fill c.1)

/-- What an unlisted far byte or accumulator byte reads as: zero (R354 step 4 clears far memory; R104 zeroes a run when
it is allocated). -/
def zeroFill (_ : Nat) : Byte := 0

/-- What an unlisted scratchpad byte reads as: zero after device reset (R205); after `lost` fatal faults, a byte
that is not kept (R316), a free value. -/
def scratchFill (lost a : Nat) : Byte := if lost == 0 then 0 else Config.lostByte lost a

end Sys2Proof.Machine
end

