-- ==== Sys2Proof/Machine/Ops.lean ====
section
/-!
DEFINITION. The named operations over the state: access to its parts, memory and registers, messages to
channels, taking a trap and returning from one, and how the body of an instruction runs.
-/
namespace Sys2Proof.Machine
open Sys2Proof

/-! ### Numbering -/

/-- The node of a core. -/
abbrev nodeOf (ck : Nat) : Nat := ck / 4
/-- The number of a core in its node. -/
abbrev coreOf (ck : Nat) : Nat := ck % 4
/-- The node is a service core's. -/
abbrev isService (node : Nat) : Bool := 2048 ≤ node
/-- Coordinates and number of a vat (R147). -/
abbrev vatX (node : Nat) : Nat := node % 64
abbrev vatY (node : Nat) : Nat := node / 64
abbrev vatAt (x y : Nat) : Nat := 64 * y + x
/-- The cluster of a node (R147, R241). -/
def clusterOf (node : Nat) : Nat :=
  if isService node then (node - 2048) / 2 else 8 * (vatY node / 8) + vatX node / 8
/-- The service node of a cluster (R241). -/
abbrev svcNode (cluster svc : Nat) : Nat := 2048 + 2 * cluster + svc
/-- The array die of a vat (R147). -/
def dieOf (node : Nat) : Nat := 4 * (vatY node / 16) + vatX node / 16
/-- The vat to whose router a node attaches (R241): itself, or the lowest-numbered vat of the cluster. (DEDUCED, log 66) -/
def homeVat (node : Nat) : Nat :=
  if isService node then
    let c := (node - 2048) / 2
    vatAt (8 * (c % 8)) (8 * (c / 8))
  else node

/-! ### Parts of the state -/

def State.entry (s : State) (k : Nat) : Entry := mget s.entries k {}
def State.modEntry (s : State) (k : Nat) (f : Entry → Entry) : State :=
  { s with entries := mmod s.entries k {} f }
def State.core (s : State) (ck : Nat) : Core := mget s.cores ck {}
def State.modCore (s : State) (ck : Nat) (f : Core → Core) : State :=
  { s with cores := mmod s.cores ck {} f }
def State.slot? (s : State) (node sl : Nat) : Option Slot := mget? s.slots (4 * node + sl)
def State.modSlot (s : State) (node sl : Nat) (f : Slot → Slot) : State :=
  match mget? s.slots (4 * node + sl) with
  | some r => { s with slots := mset s.slots (4 * node + sl) (f r) }
  | none => s
def State.vat (s : State) (node : Nat) : Vat := mget s.vats node {}
def State.modVat (s : State) (node : Nat) (f : Vat → Vat) : State :=
  { s with vats := mmod s.vats node {} f }
def State.box (s : State) (ck c : Nat) : List BoxWord := mget s.boxes (16 * ck + c) []
def State.setBox (s : State) (ck c : Nat) (b : List BoxWord) : State :=
  { s with boxes := mset s.boxes (16 * ck + c) b }
def State.waiting (s : State) (ck c : Nat) : List WaitItem := mget s.waits (16 * ck + c) []
def State.setWaiting (s : State) (ck c : Nat) (b : List WaitItem) : State :=
  { s with waits := mset s.waits (16 * ck + c) b }
def State.tile (s : State) (node e : Nat) : Tile := mget s.tiles (64 * node + e) {}
def State.setTile (s : State) (node e : Nat) (t : Tile) : State :=
  { s with tiles := mset s.tiles (64 * node + e) t }
def State.semCount (s : State) (node i : Nat) : Nat := mget s.sems (16 * node + i) 0
def State.setSem (s : State) (node i n : Nat) : State :=
  { s with sems := mset s.sems (16 * node + i) n }
def State.cmd? (s : State) (node i : Nat) : Option Cmd := mget? s.cmds (8 * node + i)
def State.setCmd (s : State) (node i : Nat) (c : Cmd) : State :=
  { s with cmds := mset s.cmds (8 * node + i) c }
def State.strm? (s : State) (node u : Nat) : Option Strm := mget? s.streams (4 * node + u)
def State.setStrm (s : State) (node u : Nat) (c : Strm) : State :=
  { s with streams := mset s.streams (4 * node + u) c }
def State.queue (s : State) (node q : Nat) : List QEntry := mget s.queues (8 * node + q) []
def State.setQueue (s : State) (node q : Nat) (l : List QEntry) : State :=
  { s with queues := mset s.queues (8 * node + q) l }

/-- The key of the executing entry. -/
def State.curKey (s : State) : Nat := 32 * s.cur.ck + s.cur.ent
def State.curEntry (s : State) : Entry := s.entry s.curKey
def State.node (s : State) : Nat := nodeOf s.cur.ck
def State.coreNo (s : State) : Nat := coreOf s.cur.ck
/-- The rectangle slot of the executing entry. -/
def State.curSlot? (s : State) : Option Slot := s.slot? s.node s.curEntry.slot
/-- The launch id of the executing entry's rectangle; 0 on a service core. -/
def State.curLid (s : State) : Nat :=
  if isService s.node then 0 else (s.curSlot?.map (·.lid)).getD 0

/-- Put an event at the end of the agenda. -/
def State.later (s : State) (i : Event) : State := { s with agenda := s.agenda ++ [i] }

/-- The entries of a core with their numbers. -/
def State.entriesOf (s : State) (ck : Nat) : List (Nat × Entry) :=
  (List.range 32).map (fun e => (e, s.entry (32 * ck + e)))

/-- The slot of a vat that holds launch `lid`, with its number. -/
def State.slotOfLid (s : State) (node lid : Nat) : Option (Nat × Slot) :=
  ((s.slots.filter (fun p => p.1 / 4 == node && p.2.lid == lid)).head?).map (fun p => (p.1 % 4, p.2))

/-! ### Status word fields (02 Table 2-8) and EH (02 Table 2-7) -/

def stIT (st : Word) : Bool := bitAt st.toNat 15
def stRM (st : Word) : Nat := fld st.toNat 0 2
def stRWP (st : Word) : Nat := fld st.toNat 54 10
/-- The RW bits of ST: 63:24, 15, 13:8 and 1:0. -/
def stMask : Word := 0xFFFFFFFFFF00BF03#64
/-- A flag set as ST bits 13:8. -/
def flagBits (f : FFlags) : Word :=
  BitVec.ofNat 64 (f.nv.toNat * 256 + f.dz.toNat * 512 + f.of.toNat * 1024 + f.uf.toNat * 2048
    + f.nx.toNat * 4096 + f.sat.toNat * 8192)
def ehTwp (eh : Word) : Nat := fld eh.toNat 54 10
def ehV (eh : Word) : Bool := bitAt eh.toNat 32
def ehEntry (eh : Word) : Nat := fld eh.toNat 1 20 * 2
/-- The RW bits of EH: 63:54, 32 and 20:1. -/
def ehMask : Word := 0xFFC00001001FFFFE#64

/-- FEAT0 of a core (R42). -/
def feat0 (ck : Nat) : Word :=
  if isService (nodeOf ck) then 0x021#64
  else match coreOf ck with
    | 0 => 0x0E3#64
    | 1 => 0x103#64
    | _ => 0x03F#64

/-! ### Scratchpad memory

An address here is node · 2^21 + offset. -/

abbrev spAddr (node off : Nat) : Nat := 0x200000 * node + off

/-- `n` bytes of scratchpad, as they stand. -/
def State.peek (s : State) (a n : Nat) : Nat := loadN (scratchFill s.lost) s.mem a n

/-- The RES bits of the 48 bytes of a workspace from offset 0x540: bits 31:24 and 7 of each Z register, bits 127:120 of the tag words (02 Table
2-2, 06 Table 6-3). Those of a tile descriptor stay as they are written, for its checks at use (R361). (DEDUCED, log 86) -/
def wsReserved : Nat := 0xFF000000000000000000000000000000FF000080FF000080FF000080FF000080FF000080FF000080FF000080FF000080

/-- The activation of an entry is in progress (R153). -/
def activated (e : Entry) : Bool := e.state == .active || e.state == .blocked

/-- The workspaces of a handler in use: its own, and the one that its activation lives in (R17, R29). -/
def Entry.spaces (e : Entry) : List Nat := if !e.v then [] else if activated e && e.wp != e.ws then [e.ws, e.wp] else [e.ws]

/-- The RES bits among `n` bytes from address `a`: those in the workspaces of the handlers in use. (DEDUCED, log 86) -/
def State.resBits (s : State) (a n : Nat) : Nat :=
  (s.entries.flatMap (fun p => p.2.spaces.map (spAddr (p.1 / 128)))).foldl (fun m b =>
    let b := b + 0x540
    if b < a + n && a < b + 48 then Nat.lor m (if a ≤ b then wsReserved * 2 ^ (8 * (b - a)) else wsReserved / 2 ^ (8 * (a - b)))
    else m) 0

/-- What a write of `v` to these bytes leaves: RES bits ignore it and stay zero (R2, R4). -/
def State.unreserved (s : State) (a n v : Nat) : Nat := Nat.xor v (Nat.land v (s.resBits a n))

/-- Write `n` bytes of scratchpad, RES bits of registers as zero: the dirty bits of their lines are set (R205), and the poison marks of the words written
whole are cleared (R207). -/
def State.poke (s : State) (a n v : Nat) : State :=
  let w0 := alignUp a 8 / 8
  let w1 := (a + n) / 8
  { s with
    mem := storeN (scratchFill s.lost) s.mem a n (s.unreserved a n v)
    poison := setDelRange s.poison w0 (w1 - w0)
    dirty := if n == 0 then s.dirty else setAddRange s.dirty (a / 128) ((a + n - 1) / 128 + 1 - a / 128) }

/-- The bytes of a workspace that hold RES bits that read as zero, where some do not: an activation begins to live there. -/
def State.unclean (s : State) (node ws : Nat) : Bool := Nat.land (s.peek (spAddr node ws + 0x540) 48) wsReserved != 0

/-- An activation begins to live in a workspace: its RES bits become zero, and nothing else changes (R2, R4). (DEDUCED, log 86) -/
def State.scrub (s : State) (node ws : Nat) : State :=
  let a := spAddr node ws + 0x540
  if s.unclean node ws then
    let v := s.peek a 48
    { s with mem := storeN (scratchFill s.lost) s.mem a 48 (Nat.xor v (Nat.land v wsReserved)), dirty := setAddRange s.dirty (a / 128) 1 }
  else s

/-- Set the poison marks of the words that hold bytes `a` to `a + n - 1`. -/
def State.mark (s : State) (a n : Nat) : State :=
  if n == 0 then s else
    { s with poison := setAddRange s.poison (a / 8) ((a + n - 1) / 8 + 1 - a / 8) }

/-- Whether a line of the bytes is empty (R205). -/
def State.hasEmpty (s : State) (a n : Nat) : Bool :=
  n != 0 && setMeets s.empty (a / 128) ((a + n - 1) / 128 + 1 - a / 128)

/-- The first poisoned word of the bytes. -/
def State.poisoned (s : State) (a n : Nat) : Option Nat :=
  if n == 0 then none else setFirst s.poison (a / 8) ((a + n - 1) / 8 + 1 - a / 8)

/-- Make the lines of the bytes full. -/
def State.fillLines (s : State) (a n : Nat) : State :=
  if n == 0 then s else { s with empty := setDelRange s.empty (a / 128) ((a + n - 1) / 128 + 1 - a / 128) }

/-- Make the lines of the bytes empty: no read of them that waits for their filling finds an earlier value. -/
def State.emptyLines (s : State) (a n : Nat) : State :=
  if n == 0 then s else
    { s with
      empty := setAddRange s.empty (a / 128) ((a + n - 1) / 128 + 1 - a / 128)
      stale := s.stale.filter (fun c => c.far || c.num / 2 < a / 128 || (a + n - 1) / 128 < c.num / 2) }

/-- First line and line after the last of a tile-table entry, within its vat. -/
def tileLo (t : Tile) : Nat := t.first
def tileHi (t : Tile) : Nat := t.first + t.nl + 1

/-- The tile-table entries in use on a vat whose range meets offsets `off` to `off + n - 1`. -/
def State.tilesMeeting (s : State) (node off n : Nat) : List (Nat × Tile) :=
  if n == 0 then [] else
    (s.tiles.filter (fun p => p.1 / 64 == node && p.2.v &&
      tileLo p.2 ≤ (off + n - 1) / 128 && off / 128 < tileHi p.2)).map (fun p => (p.1 % 64, p.2))

/-- A store to these offsets waits (R223): a line of the range of a READY or DRAINING entry. -/
def State.tileHeld (s : State) (node off n : Nat) : Bool :=
  (s.tilesMeeting node off n).any (fun p => p.2.state == .ready || p.2.state == .draining)

/-- The same for `n` bytes at workspace offset `off` of entry `k`: the lines of a tile change through no register write either. -/
def State.regsHeld (s : State) (k off n : Nat) : Bool := s.tileHeld (nodeOf (k / 32)) ((s.entry k).wp + off) n

/-! ### Items for channels (R161) -/

/-- Free an outstanding slot of a core (R156). -/
def State.freeOut (s : State) (ck oid : Nat) : State :=
  s.modCore ck (fun c => { c with outs := c.outs.filter (fun o => o.oid != oid) })

/-- The words of one message as mailbox words: the last one flagged (R150). -/
def boxWords (acq : Bool) : List Word → List BoxWord
  | [] => []
  | [w] => [⟨w, true, acq⟩]
  | w :: ws => ⟨w, false, acq⟩ :: boxWords acq ws

/-- Post a message that is never refused to a channel (R161): it waits there, and its entry is due. -/
def State.post (s : State) (ck chan : Nat) (item : WaitItem) : State :=
  (s.setWaiting ck chan (s.waiting ck chan ++ [item])).later (.neverRefusedEntry ck chan)

/-- The words that entry `k` has popped for an instruction whose reply it awaits: they keep their room (R16, R28). (DEDUCED, log 103) -/
def Entry.inHand (e : Entry) : List Taken :=
  match e.state, e.wait with
  | .blocked, .reply _ => e.taken
  | _, _ => []

/-- The words that the entries of core `ck` have so popped from channel `c`. -/
def State.chanHeld (s : State) (ck c : Nat) : Nat :=
  ((s.entries.filter (fun p => p.1 / 32 == ck)).flatMap (fun p => p.2.inHand)).countP (fun t => match t with
    | .chan d _ => d == c
    | _ => false)

/-- The entries that handlers of a vat have so popped from queue `q`. -/
def State.queueHeld (s : State) (node q : Nat) : Nat :=
  ((s.entries.filter (fun p => p.1 / 128 == node)).flatMap (fun p => p.2.inHand)).countP (fun t => match t with
    | .queue d _ => d == q
    | _ => false)

/-- A mailbox has room for `n` words more (R150). -/
def State.boxFits (s : State) (ck c n : Nat) : Bool := (s.box ck c).length + s.chanHeld ck c + n ≤ 16

/-- The waiting items of a channel that fit enter its mailbox, in order (R161). The counter bounds their number. -/
def drainWaits (ck chan : Nat) : Nat → State → State
  | 0, s => s
  | k + 1, s =>
    match s.waiting ck chan with
    | [] => s
    | it :: rest =>
      let b := s.box ck chan
      if s.boxFits ck chan it.words.length then
        let s := (s.setBox ck chan (b ++ boxWords it.acq it.words)).setWaiting ck chan rest
        let s := match it.oid with
          | some (c, o) => s.freeOut c o
          | none => s
        drainWaits ck chan k s
      else s

/-! ### Entries -/

/-- A bound channel of entry `e` of core `ck` holds a message at its head (R153). -/
def State.hasMessage (s : State) (ck : Nat) (e : Entry) : Bool :=
  (List.range 16).any (fun c => bitAt e.chans c && !(s.box ck c).isEmpty)

/-- The state an entry shows (09 Table 9-3): an entry without activation is RUNNABLE when LNCH is set or a bound channel
holds a message. -/
def State.entryState (s : State) (ck : Nat) (e : Entry) : EState :=
  if activated e then e.state
  else if e.v && (e.lnch || s.hasMessage ck e) then .runnable else .idle

/-- The requester word of a handler (14 Table 14-2). -/
def requesterWord (seq kind index unit core vat : Nat) : Nat :=
  seq % 256 * 2 ^ 24 + kind * 2 ^ 21 + index * 2 ^ 16 + unit * 2 ^ 14 + core * 2 ^ 12 + vat

/-- The requester word of entry `k` for an access of `kind`. A service core's vat is its home vat. -/
def State.requester (s : State) (k kind : Nat) : Nat :=
  let ck := k / 32
  requesterWord (s.entry k).seq kind (k % 32) 0 (coreOf ck % 4) (homeVat (nodeOf ck))

/-- Release the mirror slots of a core that entry `ent` owns (R23). -/
def State.releaseMirrors (s : State) (ck ent : Nat) : State :=
  s.modCore ck (fun c => if c.owner == some ent then { c with owner := none, mir := [] } else c)

/-- A far read of entry `k` in its phase `n` is still in flight. -/
def State.readsInPhase (s : State) (k n : Nat) : Bool :=
  s.agenda.any (fun i => match i with
    | .farMemoryAccess r => 32 * r.src + r.ent == k && r.op == .read && r.phase == n
    | _ => false)

/-- A new phase of remote reads of entry `k` begins (R230): the snapshot of an earlier phase stays only while a read of that phase
is in flight. -/
def State.newPhase (s : State) (k : Nat) : State :=
  s.modEntry k (fun e => { e with phase := e.phase + 1, snap := e.snap.filter (fun g => s.readsInPhase k g.phase), relAt := s.rels })

/-- A reader on node `n` lies in the reach (Table 13-2); the service cores lie in that of PKG as the command cores do. (DEDUCED, log 97) -/
def Reach.serves (r : Reach) (n : Nat) : Bool :=
  match r with
  | .vat v => n == v
  | .group g => if isService n then n == g.x else g.x ≤ vatX n && vatX n < g.x + g.w && g.y ≤ vatY n && vatY n < g.y + g.h
  | .cluster c => !isService n && clusterOf n == c
  | .die d => !isService n && dieOf n == d
  | .package => true

/-- The launch id of a writer; 0 outside every rectangle. -/
def Writer.lid : Writer → Nat
  | .handler lid _ => lid
  | .command lid _ _ _ => lid
  | .image lid => lid
  | .receive _ => 0
  | .host => 0

/-- A release event of a reach (R230): it covers what the writers that `mine` accepts have written, and is counted for every near copy. -/
def State.release (s : State) (r : Reach) (mine : Writer → Bool) : State :=
  { s with
    rels := s.rels + 1
    stale := s.stale.map (fun c => if !c.far || c.writers.any mine then { c with bars := c.bars ++ [⟨s.rels + 1, r⟩] } else c) }

/-- `w` has written `n` far bytes at `pa`: the earlier values of their granules are older than that write. -/
def State.farWrote (s : State) (w : Writer) (pa n : Nat) : State :=
  { s with stale := s.stale.map (fun c =>
      if c.far && pa / 16 ≤ c.num && c.num ≤ (pa + n - 1) / 16 && !c.writers.contains w then { c with writers := c.writers ++ [w] } else c) }

/-- A reader on a node may find an earlier value, with `n` releases before its last acquire: none of these serves it with a later write (R231
PHASE). -/
def Copy.open (c : Copy) (node n : Nat) : Bool := !c.bars.any (fun b => b.rel ≤ n && b.reach.serves node)

/-- An earlier value as a reader finds it in its phase. -/
def Copy.granule (c : Copy) (phase : Nat) : Granule := ⟨phase, c.far, c.num, c.data, c.marks⟩

/-- Count the end of a fault wait of a command slot or stream unit (R246). -/
def State.bumpCmdSeq (s : State) (node i : Nat) : State :=
  { s with cmdSeqs := mset s.cmdSeqs (16 * node + i) ((mget s.cmdSeqs (16 * node + i) 0 + 1) % 256) }

/-- An access waits for a fault reply. -/
def CmdWait.isFault : CmdWait → Bool
  | .fault _ _ => true
  | _ => false

/-! ### Chain reservations (R114) -/

/-- The successor grants the oldest waiting request once its inbox is empty and unreserved. -/
def State.grantChain (s : State) (node sl : Nat) : State :=
  match s.slot? node sl with
  | some r =>
    match r.inbox, r.reserved, r.asking with
    | none, none, c :: rest =>
      (s.modSlot node sl (fun r => { r with reserved := some c, asking := rest })).later (.chainGrant c)
    | _, _, _ => s
  | none => s

/-- Forget a chain reservation that entry `k` has asked for or holds without having sent its partial; the inbox it frees is granted anew. -/
def State.dropChain (s : State) (k : Nat) : State :=
  if (s.entry k).asked || (s.entry k).grant then
    let mine (c : ChainReq) : Bool := 32 * c.src + c.ent == k
    let freed := (s.slots.filter (fun p => (p.2.reserved.map mine).getD false)).map Prod.fst
    let s : State := { s with
      slots := s.slots.map (fun p => (p.1, { p.2 with
        asking := p.2.asking.filter (fun c => !mine c)
        reserved := p.2.reserved.filter (fun c => !mine c) }))
      agenda := s.agenda.filter (fun ev => match ev with
        | .chainReserveRequest c => !mine c
        | .chainGrant c => !mine c
        | _ => true) }
    freed.foldl (fun s key => s.grantChain (key / 4) (key % 4)) (s.modEntry k (fun e => { e with asked := false, grant := false }))
  else s

/-- End the activation of an entry (R166, R304): it becomes IDLE, or RUNNABLE for a message at a head. Its chain reservation and its mirror slots, a
double trap's too, are released. (DEDUCED, log 94) -/
def State.endActivation (s : State) (k : Nat) : State :=
  ((s.dropChain k).modEntry k (fun e =>
    { e with state := .idle, wait := .none, st := 0, wp := 0, ip := 0, asked := false, grant := false })).releaseMirrors (k / 32) (k % 32)

/-- Block an entry (R16): `since` orders the blocked. -/
def State.blockEntry (s : State) (k : Nat) (w : Wait) : State :=
  s.modEntry k (fun e => { e with state := .blocked, wait := w, since := s.turn })

/-- Resume an entry. -/
def State.unblock (s : State) (k : Nat) : State :=
  s.modEntry k (fun e => { e with state := .active, wait := .none })

/-! ### Traps (R29, R31, R303, R304) -/

/-- A workspace where an activation is to live must be cleaned, and a READY or DRAINING tile holds its lines (R223). -/
def State.cleanWaits (s : State) (node ws : Nat) : Bool := s.unclean node ws && s.tileHeld node (ws + 0x540) 48

/-- Another activation of the entry's slot on its core runs a trap handler (R303). -/
def State.otherTrap (s : State) (k : Nat) : Bool :=
  let e := s.entry k
  (s.entriesOf (k / 32)).any (fun p =>
    p.1 != k % 32 && p.2.v && p.2.slot == e.slot && activated p.2 && stIT p.2.st)

/-- A stop holds the entry's slot (R308). -/
def State.inStop (s : State) (ck : Nat) (e : Entry) : Bool := ((s.slot? (nodeOf ck) e.slot).map (·.stopped)).getD false

/-- Entry `p` precedes entry `q` in the order in which they blocked; within one step, by core and entry. -/
def earlier (p q : Nat × Entry) : Bool := p.2.since < q.2.since || (p.2.since == q.2.since && p.1 < q.1)

/-- No other entry of its slot and core has waited longer to take its trap than entry `k` (R303). -/
def State.trapTurn (s : State) (k : Nat) (e : Entry) : Bool :=
  !(s.entries.any (fun p => p.1 / 32 == k / 32 && p.1 != k && p.2.slot == e.slot &&
    (match p.2.wait with | .trap _ _ _ => true | _ => false) && (p.2.state == .active || earlier p (k, e))))

/-- The matrix array holds an instruction of entry `k`. (DEDUCED, log 88) -/
def State.inArray (s : State) (k : Nat) : Bool := s.arrays.any (fun p => p.2.ent == k)

/-- The entry sequence of R29 for entry `k`. -/
def State.trapEntry (s : State) (k cause info savedIp : Nat) : State :=
  let e := s.entry k
  let eh := mget (s.core (k / 32)).eh e.slot 0
  let base := spAddr (nodeOf (k / 32)) e.wp
  let s := s.poke (base + 0x570) 8 savedIp
  let s := (s.poke (base + 0x578) 8 e.st.toNat).scrub (nodeOf (k / 32)) (ehTwp eh * 2048)
  s.modEntry k (fun e => { e with
    state := .active
    wait := .none
    st := BitVec.ofNat 64 (e.wp / 2048 * 2 ^ 54 + cause * 2 ^ 48 + info % 2 ^ 24 * 2 ^ 24 + 2 ^ 15)
    wp := ehTwp eh * 2048
    ip := ehEntry eh })

/-- The double trap of R304, once the activation's matrix work has retired: free its runs, mask and end it, post the fault
message of 19 Table 19-3. `kind` is 0x10 or 0x11. -/
def State.doubleTrap (s : State) (k cause info savedIp kind : Nat) : State :=
  let node := nodeOf (k / 32)
  let words : List Word :=
    [BitVec.ofNat 64 (info % 2 ^ 24 * 2 ^ 40 + cause * 2 ^ 32 + savedIp % 2 ^ 21),
     BitVec.ofNat 64 (s.requester k 0), BitVec.ofNat 64 kind]
  let s := { s with runs := s.runs.filter (fun p => p.2.owner != k) }
  let s := (s.endActivation k).modEntry k (fun e => { e with msk := true })
  s.post (4 * svcNode (clusterOf node) 1 + 3) 1 { words := words }

/-- Take a trap (R29, R31, R303): entry `k` meets `cause` with `info` at its IP. `next` says that the saved IP is
the next instruction. It waits for the slot's other trap handler (R303), for the activation's matrix work before a double trap (R304), and for
the lines of the words that it writes (R223). -/
def State.takeTrap (s : State) (k cause info : Nat) (next : Bool) : State :=
  let e := s.entry k
  let saved := if next then (e.ip + 4) % 0x200000 else e.ip
  let eh := mget (s.core (k / 32)).eh e.slot 0
  if stIT e.st then
    if s.inArray k then s.blockEntry k (.trap cause info next)
    else s.doubleTrap k cause info saved 0x10
  else if s.otherTrap k then s.blockEntry k (.trap cause info next)
  else if !ehV eh then
    if s.inArray k then s.blockEntry k (.trap cause info next)
    else s.doubleTrap k cause info saved 0x11
  else if s.regsHeld k 0x570 16 || s.cleanWaits (nodeOf (k / 32)) (ehTwp eh * 2048) then s.blockEntry k (.trap cause info next)
  else s.trapEntry k cause info saved

/-- The return sequence of R30 for the executing entry. -/
def State.trapReturn (s : State) : State :=
  let e := s.curEntry
  let ws := stRWP e.st * 2048
  let base := spAddr s.node ws
  let ip := fld (s.peek (base + 0x570) 8) 1 20 * 2
  let st : Word := BitVec.ofNat 64 (s.peek (base + 0x578) 8) &&& stMask
  (s.scrub s.node ws).modEntry s.curKey (fun e => { e with wp := ws, ip := ip, st := st })

/-! ### Running the body of an instruction -/

/-- The body of an instruction. -/
abbrev M (α : Type) := StateT Ctx (Except Stop) α

def getS : M State := do return (← get).s
def modS (f : State → State) : M Unit := modify (fun c => { c with s := f c.s })
def trap {α : Type} (cause info : Nat) : M α := throw (.trap cause info false)
/-- Block with nothing changed (R16). -/
def blockOn {α : Type} (w : Wait) : M α := throw (.block w)
/-- Block after a change to the state before the instruction (a miss or fault message, a reservation request): a poisoned word
that the instruction has read traps first. -/
def blockAfter {α : Type} (w : Wait) (f : State → State) : M α := do
  let c ← get
  match c.bad with
  | some info => trap 0x09 info
  | none => throw (.blockIn (f c.orig) w)
/-- Send a request and wait for its reply: what the instruction has popped and done stands. -/
def leaveWith {α : Type} (w : Wait) (f : State → State) : M α := do
  let c ← get
  match c.bad with
  | some info => trap 0x09 info
  | none => throw (.blockIn (f c.s) w)

/-- The local traps (02 Table 2-9). -/
def illegalInstruction {α : Type} : M α := trap 0x01 0
/-- The operand number in INFO has 6 bits: a longer one is taken modulo 64. (DESIGN CHOICE, log 49) -/
def illegalOperand {α : Type} (num pos : Nat) : M α := trap 0x02 (num % 64 * 8 + pos)
def formatTrap {α : Type} (required found pos : Nat) : M α := trap 0x03 (required * 256 + found * 8 + pos)
def boundsTrap {α : Type} (index : Int) (pos : Nat) : M α := trap 0x04 (wrapN 21 index * 8 + pos)
def alignmentTrap {α : Type} (off : Nat) : M α := trap 0x06 (off % 2 ^ 21)
/-- The address trap (R202, R301). -/
def addressTrap {α : Type} (reg : Nat) : M α := trap 0x0A (reg % 2 ^ 24)

/-- Record a poisoned word: INFO source and detail (19 Table 19-2). The first one recorded is raised (R302). (DEDUCED, log 72) -/
def notePoison (source detail : Nat) : M Unit :=
  modify (fun c => { c with bad := c.bad.orElse (fun _ => some (source * 2 ^ 21 + detail % 2 ^ 21)) })

/-- Move IP past an instruction of `n` bytes. -/
def advance (n : Nat) : M Unit :=
  modS (fun s => s.modEntry s.curKey (fun e => { e with ip := (e.ip + n) % 0x200000 }))

/-- The result of a body on state `s` (R16, R28): a trap or a block works on `s` as it was. -/
def finish (s : State) (r : Except Stop (Unit × Ctx)) : Host.Outcome State Fault Refusal :=
  match r with
  | .ok (_, c) =>
    match c.bad with
    | some info => .next (s.takeTrap s.curKey 0x09 info false)
    | none => .next c.s
  | .error (.trap cause info next) => .next (s.takeTrap s.curKey cause info next)
  | .error (.block w) => .next (s.blockEntry s.curKey w)
  | .error (.blockIn s' w) => .next (s'.blockEntry s.curKey w)

/-- Run the body of an encoded instruction of extension bit `ext` and major opcode `op` for the executing entry: the
emulation trap where FEAT0 lacks the extension (R45). -/
def runInstr (ext op : Nat) (body : M Unit) (s : State) : Host.Outcome State Fault Refusal :=
  if s.curEntry.state != .active then .fault .noActivation
  else if !bitAt (feat0 s.cur.ck).toNat ext then .next (s.takeTrap s.curKey 0x05 op false)
  else finish s (body.run { s := s, orig := s })

/-- Extension bits of FEAT0 (03 Table 3-13). -/
abbrev xBASE : Nat := 0
abbrev xVEC : Nat := 1
abbrev xMAT : Nat := 2
abbrev xWALK : Nat := 3
abbrev xMQ : Nat := 4
abbrev xFAR : Nat := 5
abbrev xENG : Nat := 6
abbrev xGLZ : Nat := 7
abbrev xSHAPE : Nat := 8

/-! ### Memory and registers, as an instruction meets them -/

/-- Read scratchpad bytes: an empty line blocks (R206), a poisoned word is noted (R207). -/
def readSp (a n : Nat) : M Nat := do
  let s ← getS
  if s.hasEmpty a n then blockOn .retry
  else
    match s.poisoned a n with
    | some w => notePoison 0 (8 * w % 0x200000)
    | none => pure ()
    return s.peek a n

/-- The address of workspace offset `off` of the executing activation. -/
def regAddr (off : Nat) : M Nat := do
  let s ← getS
  return spAddr s.node s.curEntry.wp + off

def readReg (off n : Nat) : M Nat := do readSp (← regAddr off) n
/-- Write `n` bytes at workspace offset `off`: it never waits for F, but for a READY or DRAINING tile entry (R223). -/
def writeReg (off n v : Nat) : M Unit := do
  let s ← getS
  if s.regsHeld s.curKey off n then blockOn .retry
  else
    let a ← regAddr off
    modS (fun s => s.poke a n v)

def readW (i : Nat) : M Word := do return BitVec.ofNat 64 (← readReg (8 * i) 8)
def writeW (i : Nat) (v : Word) : M Unit := writeReg (8 * i) 8 v.toNat
def readM (i : Nat) : M Word := do return BitVec.ofNat 64 (← readReg (0x480 + 8 * i) 8)
def writeM (i : Nat) (v : Word) : M Unit := writeReg (0x480 + 8 * i) 8 v.toNat
def readT (i : Nat) : M Nat := readReg (0x4C0 + 16 * i) 16
def writeT (i v : Nat) : M Unit := writeReg (0x4C0 + 16 * i) 16 v
def readZ (i : Nat) : M Nat := readReg (0x540 + 4 * i) 4
def writeZ (i v : Nat) : M Unit := writeReg (0x540 + 4 * i) 4 v

/-- The 128-bit tag field of the executing activation, as it stands (R19). -/
def tagWords : M Nat := do
  let a ← regAddr 0x560
  return (← getS).peek a 16
/-- The tag of V or T registers: field `j` of Table 2-2 (V i at i, T j at 16 + j). (DEDUCED, log 73) -/
def readTag (j : Nat) : M Nat := do return fld (← tagWords) (5 * j) 5
def writeTag (j t : Nat) : M Unit := do
  let w ← tagWords
  writeReg 0x560 16 (setFld w (5 * j) 5 t)

/-- The byte of the executing slot's window that holds K7 (R21), and the role it reads as. -/
def roleOf (ck : Nat) : Nat := coreOf ck

/-- Operand Kk (R20, R21). -/
def readK (k : Nat) : M Word := do
  let s ← getS
  let v ← readSp (spAddr s.node (0x800 * s.curEntry.slot + 8 * k)) 8
  if k == 7 && !isService s.node then return BitVec.ofNat 64 (roleOf s.cur.ck)
  else return BitVec.ofNat 64 v

/-- `n` bytes below offset 0x2000 as a load reads them (R20, R21): the own window's bytes, with the role in place of K7's stored
zero, and zero elsewhere. -/
def State.windowBytes (s : State) (slot role off : Nat) : Nat → Nat
  | 0 => 0
  | n + 1 =>
    let b := if off < 0x2000 && off / 0x800 == slot then
        (if off % 0x800 == 0x38 then role else s.peek (spAddr s.node off) 1)
      else 0
    b + 256 * s.windowBytes slot role (off + 1) n

/-- A load by the executing handler of `n` bytes at offset `off` of its own vat (R20, R90, R92). -/
def loadLocal (off n : Nat) : M Nat := do
  let s ← getS
  if off < 0x2000 then
    let slot := s.curEntry.slot
    let own := off / 0x800 == slot
    if own then let _ ← readSp (spAddr s.node off) n
    if isService s.node then return (if own then s.peek (spAddr s.node off) n else 0)
    else return s.windowBytes slot (roleOf s.cur.ck) off n
  else readSp (spAddr s.node off) n

/-- A store by the executing handler at offset `off` of its own vat, once checked: it waits for READY and DRAINING tile
entries (R223), and never for F (R206). -/
def storeLocal (off n v : Nat) : M Unit := do
  let s ← getS
  if s.tileHeld s.node off n then blockOn .retry
  else modS (fun s => s.poke (spAddr s.node off) n v)

/-- Set flags in ST (R54). -/
def raiseFlags (f : FFlags) : M Unit :=
  modS (fun s => s.modEntry s.curKey (fun e => { e with st := e.st ||| flagBits f }))

/-- An acquire event of the executing activation: its phase of remote reads ends (R230, R231 SNAPSHOT). -/
def acquire : M Unit := modS (fun s => s.newPhase s.curKey)

end Sys2Proof.Machine
end

