-- ==== Sys2Proof/Machine/Operands.lean ====
section
/-!
DEFINITION. Every operand form: the 6-bit operand space of 03 Table 3-11 with its classes, pops and pushes (R37, R38),
relative register operands (R28, R41), stream registers (R260), the mask field (R39, R67), channels reserved by the
rectangle (R151), and branch displacements (R36).
-/
namespace Sys2Proof.Machine
open Sys2Proof

/-! ### Classes of the operand space -/

def isW (f : Nat) : Bool := f < 16
def isV (f : Nat) : Bool := 16 ≤ f && f < 32
def isWQueue (f : Nat) : Bool := 32 ≤ f && f < 38
def isVQueue (f : Nat) : Bool := 38 ≤ f && f < 40
def isQueue (f : Nat) : Bool := 32 ≤ f && f < 40
def isChan (f : Nat) : Bool := 40 ≤ f && f < 56
def isM (f : Nat) : Bool := 56 ≤ f && f < 64

/-- Writer and reader core of queue `q` (15 Table 15-1). -/
def queueWriter (q : Nat) : Nat :=
  match q with | 0 => 0 | 1 => 1 | 2 => 1 | 3 => 2 | 4 => 0 | 5 => 2 | 6 => 1 | _ => 2
def queueReader (q : Nat) : Nat :=
  match q with | 0 => 1 | 1 => 0 | 2 => 2 | 3 => 1 | 4 => 2 | 5 => 0 | 6 => 2 | _ => 0
/-- Depth of queue `q` in entries (15 Table 15-1). -/
def queueDepth (q : Nat) : Nat := if q < 6 then 16 else 4

/-- The channels that a slot reserves on core `core` (09 Table 9-9, CHANS). -/
def reservedChans (r : Slot) (core : Nat) : Nat := fld r.chans (16 * core) 16

/-- Channel `c` belongs to the executing handler's rectangle on this core (R151); a service core has C1 to C15 (R241). -/
def State.ownsChan (s : State) (c : Nat) : Bool :=
  if isService s.node then 1 ≤ c && c < 16
  else match s.curSlot? with
    | some r => c < 16 && bitAt (reservedChans r s.coreNo) c
    | none => false

/-- The field is accepted as a W source: W0–W15, Q0–Q5 that this core reads, or a reserved channel. -/
def wSource (s : State) (f : Nat) : Bool :=
  isW f || (isWQueue f && queueReader (f - 32) == s.coreNo) || (isChan f && s.ownsChan (f - 40))
/-- The field is accepted as a W destination: W0–W15, or Q0–Q5 that this core writes. -/
def wDest (s : State) (f : Nat) : Bool := isW f || (isWQueue f && queueWriter (f - 32) == s.coreNo)
/-- The field is accepted as a V source: V0–V15, or Q6 and Q7 that this core reads. -/
def vSource (s : State) (f : Nat) : Bool := isV f || (isVQueue f && queueReader (f - 32) == s.coreNo)
/-- The field is accepted as a V destination. -/
def vDest (s : State) (f : Nat) : Bool := isV f || (isVQueue f && queueWriter (f - 32) == s.coreNo)

/-- Raise the illegal-operand trap of the first failing check. (DEDUCED, log 49) -/
def checkAll : List Check → M Unit
  | [] => pure ()
  | c :: cs => if c.ok then checkAll cs else illegalOperand c.num c.pos

/-- Check the operand classes of an instruction on the state as it stands, in the order listed. -/
def classes (f : State → List Check) : M Unit := do checkAll (f (← getS))

/-! ### Queues and channels -/

/-- The oldest entry that slot `sl` pushed, and the queue without it (R252). -/
def takeEntry (sl : Nat) : List QEntry → Option (QEntry × List QEntry)
  | [] => none
  | e :: r =>
    if e.slot == sl then some (e, r)
    else (takeEntry sl r).map (fun p => (p.1, e :: p.2))

/-- Pop queue `q`: value and tag; blocks while it holds no entry of the slot (R38, R252). -/
def popQ (q : Nat) : M QEntry := do
  let s ← getS
  match takeEntry s.curEntry.slot (s.queue s.node q) with
  | some (e, r) =>
    modS (fun s => s.setQueue s.node q r)
    return e
  | none => blockOn .retry

/-- An LDF of a core of `node` whose reply is due holds room in queue `q` (R214). -/
def holdsRoom (node q : Nat) : Event → Bool
  | .farMemoryAccess r | .farReplyArrival r _ _ => nodeOf r.src == node && r.replyTo == .load (32 + q)
  | _ => false

/-- Queue `q` has room: entries and held room below its depth (R28, R214, R252). -/
def State.hasRoom (s : State) (node q : Nat) : Bool :=
  (s.queue node q).length + s.queueHeld node q + (s.agenda.filter (holdsRoom node q)).length < queueDepth q

/-- Push on queue `q`; blocks while it is full (R252). -/
def pushQ (q tag v : Nat) : M Unit := do
  let s ← getS
  let l := s.queue s.node q
  if s.hasRoom s.node q then modS (fun s => s.setQueue s.node q (l ++ [⟨s.curEntry.slot, tag, v⟩]))
  else blockOn .retry

/-- Pop channel `c` of this core: blocks on an empty mailbox (R151). The pop of a completion is an acquire (R230, R331). -/
def popC (c : Nat) : M Word := do
  let s ← getS
  match s.box s.cur.ck c with
  | [] => blockOn .retry
  | w :: r =>
    modS (fun s => s.setBox s.cur.ck c r)
    if w.acq then acquire
    return w.val

/-! ### Reading and writing operands -/

/-- `src` of a field whose class has been checked, as a word (R67). -/
def srcW (f : Nat) : M Word :=
  if isW f then readW f
  else if isQueue f then do return BitVec.ofNat 64 (← popQ (f - 32)).val
  else if isChan f then popC (f - 40)
  else readM (f - 56)

/-- Write a word destination whose class has been checked. -/
def dstW (f : Nat) (v : Word) : M Unit :=
  if isW f then writeW f v
  else if isQueue f then pushQ (f - 32) 0 v.toNat
  else writeM (f - 56) v

/-- The stream unit that feeds reads of V register `n` by the executing handler (R260), if it is on. -/
def State.streamFor (s : State) (n : Nat) : Option Strm :=
  if 12 ≤ n && s.coreNo == 2 && !isService s.node then
    match s.strm? s.node (n - 12) with
    | some u =>
      if u.slot == s.curEntry.slot && fld (u.desc.getD 3 0) 37 5 == s.curEntry.lhn then some u else none
    | none => none
  else none

/-- The number of strips of a stream (R258). -/
def stripCount (u : Strm) : Nat :=
  fld (u.desc.getD 1 0) 0 16 * fld (u.desc.getD 1 0) 16 16 * fld (u.desc.getD 1 0) 32 16

/-- A stream goes off (R259): it waits for no fault reply any more (R246), and a STRMX stream has its completion record to post. (DEDUCED, log
71) -/
def State.streamOff (s : State) (node u : Nat) (r : Strm) : State :=
  let s := if r.wait.isFault then s.bumpCmdSeq node (8 + u) else s
  let s := { s with streams := mdel s.streams (4 * node + u) }
  match r.ctl with
  | some _ => { s with strmEnds := s.strmEnds ++ [(node, u, r)], agenda := s.agenda ++ [.engineCompletion node (8 + u)] }
  | none => s

/-- Take the next strip of a stream unit (R259, R260): after its end, a strip of zeros, which DONE counts after an end for want of memory and not after
a fail (R257); when the last strip is popped the stream goes off, and a STRMX stream then posts its completion. A second field of the same instruction then
reads the workspace register. (DESIGN CHOICE, log 80) -/
def popStrip (n : Nat) (u : Strm) : M VVal := do
  let tag := fld (u.desc.getD 3 0) 32 5
  match u.fetched with
  | x :: r =>
    let u' := { u with fetched := r, popped := u.popped + 1 }
    if u'.popped == stripCount u && !u.ended then
      modS (fun s => s.streamOff s.node (n - 12) u')
    else modS (fun s => s.setStrm s.node (n - 12) u')
    return ⟨tag, x⟩
  | [] =>
    if u.ended then do
      modS (fun s => s.setStrm s.node (n - 12) { u with popped := if u.status == 3 then u.popped else u.popped + 1 })
      return ⟨tag, 0⟩
    else blockOn .retry

/-- Read V register `n`, without a tag check. -/
def readV (n : Nat) : M VVal := do
  match (← getS).streamFor n with
  | some u => popStrip n u
  | none => return ⟨← readTag n, ← readReg (0x80 + 64 * n) 64⟩

/-- `src` of a V field whose class has been checked. -/
def srcV (f : Nat) : M VVal :=
  if isV f then readV (f - 16)
  else do
    let e ← popQ (f - 32)
    return ⟨e.tag, e.val⟩

/-- Write a whole V destination: 64 bytes and the tag, or one queue entry. -/
def dstV (f tag v : Nat) : M Unit :=
  if isV f then do
    writeReg (0x80 + 64 * (f - 16)) 64 v
    writeTag (f - 16) tag
  else pushQ (f - 32) tag v

/-- The bytes of some lanes of `n` bytes each, the absent ones left out: written one by one. -/
def writeSome (off n : Nat) : Nat → List (Option Nat) → M Unit
  | _, [] => pure ()
  | i, none :: r => writeSome off n (i + 1) r
  | i, some v :: r => do
    writeReg (off + n * i) n v
    writeSome off n (i + 1) r

/-- Write lanes of `w` bits (a whole number of bytes) under a tag: inactive lanes keep their bytes in a register and are pushed as zero
to a queue (R69). -/
def dstLanes (f tag w : Nat) (ls : List (Option Nat)) : M Unit :=
  if isV f && ls.any (·.isNone) then do
    writeSome (0x80 + 64 * (f - 16)) (w / 8) 0 ls
    writeTag (f - 16) tag
  else dstV f tag (packFields w (ls.map (·.getD 0)))

/-- Lane `i` of `w` bits. -/
def laneAt (w v i : Nat) : Nat := v / 2 ^ (w * i) % 2 ^ w
/-- The lanes of `w` bits of a 512-bit value. -/
def lanesOfVal (w v : Nat) : List Nat := (List.range (512 / w)).map (laneAt w v)

/-! ### Relative operands -/

/-- The register that a relative field V[Wn+k] names (R28, R41): 0 ≤ signed(Wn) + k < the declared V count, or the
register-bounds trap at `pos`. -/
def relV (f pos : Nat) : M Nat := do
  let w ← readW (f % 16)
  let i : Int := w.toInt + (f / 16 : Nat)
  if 0 ≤ i && i < ((← getS).curEntry.vregs : Int) then return i.toNat else boundsTrap i pos

/-! ### Masks -/

/-- The lane mask of a masked instruction (R39): unmasked for 0, else M1–M7. -/
def laneMask (m : Nat) : M (Option Nat) :=
  if m == 0 then return none else do return some (← readM m).toNat

/-- `active(i)` (R67). -/
def activeLane (mk : Option Nat) (i : Nat) : Bool :=
  match mk with
  | none => true
  | some x => i < 64 && bitAt x i

/-! ### Displacements -/

/-- The target of a branch with `n` displacement bits: (IP + 2 · disp) mod 2^21 (R36). -/
def branchTarget (ip n disp : Nat) : Nat := wrapN 21 ((ip : Int) + 2 * signed n disp)

/-- Go to a branch target. -/
def jumpTo (n disp : Nat) : M Unit :=
  modS (fun s => s.modEntry s.curKey (fun e => { e with ip := branchTarget e.ip n disp }))

end Sys2Proof.Machine
end

