-- ==== Sys2Proof/Machine/Flags.lean ====
section
/-!
DEFINITION. The flag computations: the flags of a vector instruction are those of its active lanes (R54, R70), and ST
takes them as sticky bits 13:8.
-/
namespace Sys2Proof.Machine
open Sys2Proof

/-- The flags of several results together (R54). -/
def allFlags (fs : List FFlags) : FFlags := fs.foldl FFlags.or {}

/-- ST with flags raised: sticky, nothing else changes (R54). -/
def stWith (st : Word) (f : FFlags) : Word := st ||| flagBits f

/-- The flags of ST. -/
def stFlags (st : Word) : FFlags :=
  ⟨bitAt st.toNat 8, bitAt st.toNat 9, bitAt st.toNat 10, bitAt st.toNat 11, bitAt st.toNat 12, bitAt st.toNat 13⟩

/-- The rounding mode of the executing handler (R53). -/
def roundMode : M Nat := do return stRM (← getS).curEntry.st

/-- Lane results with their flags, `none` for an inactive lane: the lanes and the flags they raise. -/
def laneResults (ls : List (Option (Nat × FFlags))) : List (Option Nat) × FFlags :=
  (ls.map (·.map (·.1)), allFlags (ls.filterMap (·.map (·.2))))

end Sys2Proof.Machine
end

