-- ==== Sys2Proof/Machine/Control.lean ====
section
/-!
DEFINITION. The control instructions (05 R73 to R75).
-/
namespace Sys2Proof.Machine
open Sys2Proof

/-- A form B compare and branch (R73): sources are popped whether or not it is taken. -/
def branchB (op : Nat) (cond : Word → Word → Bool) (a b i : Nat) (s : State) : Host.Outcome State Fault Refusal :=
  runInstr xBASE op (do
    classes (fun s => [⟨1, a, wSource s a⟩, ⟨2, b, wSource s b⟩])
    let x ← srcW a
    let y ← srcW b
    if cond x y then jumpTo 12 i else advance 4) s

/-- BEQ (Table 5-2). -/
def execBeq (a b i : Nat) (s : State) : Host.Outcome State Fault Refusal := branchB 0x10 (fun x y => x == y) a b i s
/-- BNE. -/
def execBne (a b i : Nat) (s : State) : Host.Outcome State Fault Refusal := branchB 0x11 (fun x y => x != y) a b i s
/-- BLT. -/
def execBlt (a b i : Nat) (s : State) : Host.Outcome State Fault Refusal := branchB 0x12 (fun x y => x.slt y) a b i s
/-- BGE. -/
def execBge (a b i : Nat) (s : State) : Host.Outcome State Fault Refusal := branchB 0x13 (fun x y => !x.slt y) a b i s
/-- BLTU. -/
def execBltu (a b i : Nat) (s : State) : Host.Outcome State Fault Refusal := branchB 0x14 (fun x y => x.ult y) a b i s
/-- BGEU. -/
def execBgeu (a b i : Nat) (s : State) : Host.Outcome State Fault Refusal := branchB 0x15 (fun x y => !x.ult y) a b i s

/-- LOOP (R74). -/
def execLoop (a i : Nat) (s : State) : Host.Outcome State Fault Refusal :=
  runInstr xBASE 0x16 (do
    checkAll [⟨1, a, isW a⟩]
    let x ← readW a
    writeW a (x - 1)
    if x - 1 != 0 then jumpTo 12 i else advance 4) s

/-- J (R75). -/
def execJ (i : Nat) (s : State) : Host.Outcome State Fault Refusal := runInstr xBASE 0x17 (jumpTo 24 i) s

/-- The link of CALL and CALLR: W15 takes the address of the next instruction. -/
def writeLink : M Unit := do
  let ip := (← getS).curEntry.ip
  writeW 15 (BitVec.ofNat 64 ((ip + 4) % 0x200000))

/-- CALL (R75). -/
def execCall (i : Nat) (s : State) : Host.Outcome State Fault Refusal :=
  runInstr xBASE 0x18 (do
    writeLink
    jumpTo 24 i) s

/-- Go to a register's value: bit 0 or a bit of 63:21 set raises the alignment trap (R75). -/
def jumpReg (x : Word) : M Unit :=
  if x.toNat % 2 == 1 || 0x200000 ≤ x.toNat then alignmentTrap x.toNat
  else modS (fun s => s.modEntry s.curKey (fun e => { e with ip := x.toNat }))

/-- JR (R75). -/
def execJr (a : Nat) (s : State) : Host.Outcome State Fault Refusal :=
  runInstr xBASE 0x19 (do
    classes (fun s => [⟨1, a, wSource s a⟩])
    jumpReg (← srcW a)) s

/-- CALLR (R75): the target is read before the link is written. -/
def execCallr (a : Nat) (s : State) : Host.Outcome State Fault Refusal :=
  runInstr xBASE 0x19 (do
    classes (fun s => [⟨1, a, wSource s a⟩])
    let x ← srcW a
    writeLink
    jumpReg x) s

/-- NOP (R75). -/
def execNop (s : State) : Host.Outcome State Fault Refusal := runInstr xBASE 0x19 (advance 4) s

end Sys2Proof.Machine
end

