-- ==== Sys2Proof/Machine/Tiles.lean ====
section
/-!
DEFINITION. Semaphore counts and the tile table's state machine (12 R222, Table 12-8), the descriptors of tiles (06 R97 to R101, R361,
07 R123), and the accumulator memory (06 R102, R103).
-/
namespace Sys2Proof.Machine
open Sys2Proof

/-! ### Semaphores -/

/-- Semaphore `i` gains one count, as under SEMV (R253). -/
def State.semUp (s : State) (node i : Nat) : State := s.setSem node i (min (s.semCount node i + 1) 65535)

/-! ### The tile table (Table 12-8) -/

/-- A DRAINING entry without consumers leaves DRAINING: it refills or becomes EMPTY, its lines empty. -/
def State.settleTile (s : State) (node e : Nat) : State :=
  let t := s.tile node e
  if t.v && t.state == .draining && t.cons == 0 then
    let s := s.emptyLines (spAddr node (128 * t.first)) (128 * (t.nl + 1))
    if t.refill then
      (s.setTile node e { t with state := .filling, pend := 128 * (t.nl + 1), uleft := t.uses, refill := false }).semUp node t.sem
    else s.setTile node e { t with state := .empty, pend := 0, uleft := t.uses }
  else s

/-- A consumer may enter the entry: it is READY, belongs to the slot, and holds fewer than 63 consumers. -/
def State.tileOpen (s : State) (node slot e : Nat) : Bool :=
  let t := s.tile node e
  t.v && t.slot == slot && t.state == .ready && t.cons < 63

/-- A consumer enters a READY entry. -/
def State.consumeTile (s : State) (node e : Nat) : State :=
  let t := s.tile node e
  let ul := if t.uses != 0 then t.uleft - 1 else t.uleft
  let out := t.rcm && t.uses != 0 && ul == 0
  s.setTile node e { t with cons := t.cons + 1, uleft := ul, state := if out then .draining else t.state, refill := out }

/-- A consumer of an entry retires. -/
def State.releaseTile (s : State) (node e : Nat) : State :=
  let t := s.tile node e
  (s.setTile node e { t with cons := t.cons - 1 }).settleTile node e

/-- A credit of `c` bytes to an entry: ignored unless it is FILLING, and where V is 0 (DESIGN CHOICE, log 112); at 0 it becomes READY
and its lines full. -/
def State.creditTile (s : State) (node e c : Nat) : State :=
  let t := s.tile node e
  if t.v && t.state == .filling then
    if t.pend ≤ c then
      (s.setTile node e { t with pend := 0, state := .ready }).fillLines (spAddr node (128 * t.first)) (128 * (t.nl + 1))
    else s.setTile node e { t with pend := t.pend - c }
  else s

/-- Arm an EMPTY entry with PEND = n > 0. -/
def State.armTile (s : State) (node e n : Nat) : State :=
  let t := s.tile node e
  if t.v && t.state == .empty && n != 0 then s.setTile node e { t with state := .filling, pend := n } else s

/-- Bytes of `off` to `off + n - 1` in the range of an entry. -/
def overlapBytes (t : Tile) (off n : Nat) : Nat :=
  min (off + n) (128 * tileHi t) - max off (128 * tileLo t)

/-! ### Tile descriptors -/

/-- The tags of matrix operands (R96). -/
def isMatTag (t : Nat) : Bool :=
  t == 1 || t == 2 || t == 5 || t == 6 || (10 ≤ t && t ≤ 19)
/-- The integer class of R106. -/
def isMatInt (t : Nat) : Bool := t == 1 || t == 2 || t == 5 || t == 6

/-- Bits of an element code in planes and lake blocks (R98). -/
def planeBits (t : Nat) : Nat :=
  if isLakeTag t then lakeN t + 1 else if t == 14 || t == 15 then 6 else elemBits t

/-- The packed row size of a full operand (R97). -/
def packedRow (t : Nat) : Nat := if isLakeTag t then 4 * lakeBytes t else 8 * elemBits t

/-- Bytes of a plane operand (R98). -/
def planeSize (t : Nat) : Nat := 512 * planeBits t + (if isLakeTag t then 512 else 0)

/-- The fields of a descriptor under a tag (Table 6-2). -/
def tileDesc (d tag : Nat) : TileD :=
  ⟨fld d 0 21, fld d 32 6, fld d 38 6, fld d 29 2, tag, fld d 48 6, bitAt d 54, fld d 64 16,
    fld d 21 3 == 0 && fld d 31 1 == 0 && fld d 44 4 == 0 && fld d 55 9 == 0 && fld d 80 48 == 0⟩

/-- The row pitch of a full tile. -/
def tilePitch (d : TileD) : Nat := if d.stride == 0 then packedRow d.tag else d.stride

/-- Bytes from a tile's base to its end (R100, R123). -/
def tileExtent (d : TileD) : Nat :=
  match d.kind with
  | 0 => d.rows * tilePitch d + packedRow d.tag
  | 1 => planeSize d.tag
  | _ => 16 * (d.rows + 1)

/-- The tag is one that the tile's KIND allows. -/
def kindAllows (d : TileD) : Bool := if d.kind == 2 then d.tag == tPRG else isMatTag d.tag

/-- Every check of R100 and R123 but the format check; those that depend on the format are skipped under a tag that KIND
does not allow (R361). A progress tile's size does not depend on the format. -/
def descOk (d : TileD) : Bool :=
  d.clean && d.kind != 3 && 0x2000 ≤ d.base &&
  (match d.kind with
    | 0 => d.rows ≤ 31 && d.base % 64 == 0 && d.stride % 8 == 0 && (!isMatTag d.tag || d.stride == 0 || packedRow d.tag ≤ d.stride)
    | 1 => d.stride == 0 && d.base % 128 == 0
    | _ => d.cols == 0 && d.stride == 0 && d.rows ≤ 31 && d.base % 128 == 0) &&
  ((d.kind != 2 && !isMatTag d.tag) || d.base + tileExtent d ≤ 0x200000)

/-- The descriptor in a T register. -/
def readTile (t : Nat) : M TileD := do return tileDesc (← readT t) (← readTag (16 + t))

/-- A tile is ready (R101). (DEDUCED, log 17) The lines between rows that a STRIDE leaves apart count as lines that it covers. (DESIGN CHOICE, log 117) -/
def State.tileReady (s : State) (node slot : Nat) (d : TileD) : Bool :=
  let lo := d.base / 128
  let n := (d.base + tileExtent d - 1) / 128 + 1 - lo
  if d.tv then
    let t := s.tile node d.tte
    s.tileOpen node slot d.tte &&
      (List.range n).all (fun i =>
        (tileLo t ≤ lo + i && lo + i < tileHi t) || !setMeets s.empty (spAddr node 0 / 128 + lo + i) 1)
  else !s.hasEmpty (spAddr node d.base) (tileExtent d)

/-- Wait until the tiles are ready. -/
def waitTiles (ds : List TileD) : M Unit := do
  let s ← getS
  if ds.all (s.tileReady s.node s.curEntry.slot) then pure () else blockOn .retry

/-- The entries that an instruction naming these tiles consumes, each once. (DEDUCED, log 16) -/
def tracked (ds : List TileD) : List Nat :=
  ds.foldl (fun acc d => if d.tv then setAdd acc d.tte else acc) []

/-- The value of element (row, k) of a full operand, from the bytes of its row (R97). -/
def fullElem (tag rowBits k : Nat) : Val :=
  if isLakeTag tag then
    lakeElem (lakeN tag) (fld rowBits (8 * lakeBytes tag * (k / 16)) (8 * lakeBytes tag)) (k % 16)
  else elemVal tag (fld rowBits (elemBits tag * k) (elemBits tag))

/-- Bytes of a row that hold its first `n > 0` elements. -/
def rowBytes (tag n : Nat) : Nat :=
  if isLakeTag tag then
    (n - 1) / 16 * lakeBytes tag + (16 + (lakeN tag + 1) * ((n - 1) % 16 + 1) + 7) / 8
  else (elemBits tag * n + 7) / 8

/-- The value of element (k, c) of a plane operand, from the plane words of row k (group j at j) and the row's block
headers (R98). -/
def planeElem (tag : Nat) (ws : List Nat) (hdrs c : Nat) : Val :=
  let code := packFields 1 (ws.map (fun w => w / 2 ^ c % 2))
  if isLakeTag tag then
    let n := lakeN tag
    lakeElem n (fld hdrs (16 * (c / 16)) 16 + code * 2 ^ (16 + (n + 1) * (c % 16))) (c % 16)
  else elemVal tag code

/-! ### Accumulator memory (R102, R103) -/

/-- The byte address of accumulator row `row` of a run that begins at bank `first`. -/
def accAddr (node first row : Nat) : Nat := 0x40000 * node + 2048 * first + 256 * row
/-- The poison key of an accumulator row. -/
def accRowKey (node first row : Nat) : Nat := 1024 * node + 8 * first + row
/-- The 64 elements of an accumulator row, as a number. (DESIGN CHOICE, log 2) -/
def State.accRow (s : State) (node first row : Nat) : Nat := loadN zeroFill s.accMem (accAddr node first row) 256
def State.setAccRow (s : State) (node first row v : Nat) : State :=
  { s with accMem := storeN zeroFill s.accMem (accAddr node first row) 256 v }
def State.accBad (s : State) (node first row : Nat) : Bool := setMeets s.accPoison (accRowKey node first row) 1
def State.setAccBad (s : State) (node first row : Nat) (b : Bool) : State :=
  { s with accPoison := if b then setAdd s.accPoison (accRowKey node first row)
                        else setDelRange s.accPoison (accRowKey node first row) 1 }
/-- Zero the rows of `count` banks and clear their poison bits. -/
def State.zeroRun (s : State) (node first count : Nat) : State :=
  { s with accMem := storeN zeroFill s.accMem (accAddr node first 0) (2048 * count) 0
           accPoison := setDelRange s.accPoison (accRowKey node first 0) (8 * count) }

def State.run? (s : State) (node first : Nat) : Option Run := mget? s.runs (128 * node + first)
def State.setRun (s : State) (node first : Nat) (r : Run) : State := { s with runs := mset s.runs (128 * node + first) r }

/-- A handle is live for the executing activation in the workspace where AALLOC wrote it: its first bank and run (R103). RES bits of a handle
count as zero (R4). (DEDUCED, log 78) -/
def State.liveRun (s : State) (h : Nat) : Option (Nat × Run) :=
  let first := fld h 0 7
  match s.run? s.node first with
  | some r =>
    if r.count == fld h 8 8 && r.gen == fld h 16 8 && r.owner == s.curKey && r.ws == s.curEntry.wp then some (first, r) else none
  | none => none

/-- The run that Z register `z` names, or the illegal-operand trap at position 0. -/
def needRun (z : Nat) : M (Nat × Run) := do
  let h ← readZ z
  match (← getS).liveRun h with
  | some r => return r
  | none => illegalOperand z 0

/-- Wait while the array holds an instruction on the run (R110). -/
def settled (first : Nat) : M Unit := do
  let s ← getS
  match mget? s.arrays s.node with
  | some j => if j.run == first then blockOn .retry else pure ()
  | none => pure ()

end Sys2Proof.Machine
end

