-- ==== Sys2Proof/Machine/Deliver.lean ====
section
/-!
DEFINITION. Rectangles (09 R149), frames to the host (21 R334, R335), and the delivery of verdict and END words (09 R172).
-/
namespace Sys2Proof.Machine
open Sys2Proof

/-! ### Rectangles -/

/-- Width, height and size of a shape word (Table 9-9). -/
def shapeW (shape : Nat) : Nat := 2 ^ fld shape 16 3
def shapeH (shape : Nat) : Nat := 2 ^ fld shape 19 3
def shapeSize (shape : Nat) : Nat := shapeW shape * shapeH shape

/-- The vats of a rectangle in the order of their logical numbers (R149). -/
def rectNodes (shape ox oy : Nat) : List Nat :=
  (List.range (shapeSize shape)).map (fun l => vatAt (ox + l % shapeW shape) (oy + l / shapeW shape))

/-- A shape and origin meet R149. -/
def shapeOk (shape ox oy : Nat) : Bool :=
  fld shape 16 3 ≤ 6 && fld shape 19 3 ≤ 5 && ox % shapeW shape == 0 && oy % shapeH shape == 0 &&
  ox + shapeW shape ≤ 64 && oy + shapeH shape ≤ 32

/-- The vat lies in the rectangle of a shape at an origin. -/
def inRect (shape ox oy node : Nat) : Bool :=
  ox ≤ vatX node && vatX node < ox + shapeW shape && oy ≤ vatY node && vatY node < oy + shapeH shape

/-- Launch ids of resident or reserved rectangles (R168). -/
def State.lidTaken (s : State) (lid : Nat) : Bool :=
  s.rects.any (fun r => r.lid == lid) || s.launches.any (fun l => l.lid == lid) || s.resumes.any (fun j => j.lid == lid)

/-- The first id from counter value `c` on that no rectangle holds, and the counter after it; the counter wraps from `top` to
1. The fuel bounds the ids skipped. -/
def State.pickLid (s : State) (base top : Nat) : Nat → Nat → Nat × Nat
  | 0, c => (base + c, if c == top then 1 else c + 1)
  | n + 1, c =>
    let next := if c == top then 1 else c + 1
    if s.lidTaken (base + c) then s.pickLid base top n next else (base + c, next)

/-- Rectangles and launches whose ids could be skipped. -/
def State.lidFuel (s : State) : Nat := s.rects.length + s.launches.length + s.resumes.length

/-! ### Frames to the host (R334, R335) -/

/-- MAGIC of Table 21-5. -/
def frameMagic : Nat := 0x48435031

/-- Number and send a device frame, or hold it while 256 are unacknowledged. -/
def State.sendFrame (s : State) (type len payload : Nat) : State :=
  let h := s.host
  let f : Frame := ⟨frameMagic, type, len, h.next, h.ha, h.epoch, 0, payload, false⟩
  if h.held.isEmpty && h.window.length < 256 then
    { s with host := { h with next := h.next + 1, window := h.window ++ [f] }, agenda := s.agenda ++ [.frameResend h.next] }
  else { s with host := { h with held := h.held ++ [f] } }

/-- Number and send held frames while there is room; the fuel bounds their number. -/
def State.sendHeld : Nat → State → State
  | 0, s => s
  | n + 1, s =>
    match s.host.held with
    | [] => s
    | f :: rest =>
      if s.host.window.length < 256 then
        let h := s.host
        State.sendHeld n { s with
          host := { h with next := h.next + 1, held := rest,
                           window := h.window ++ [{ f with seq := h.next, ack := h.ha, epoch := h.epoch }] }
          agenda := s.agenda ++ [.frameResend h.next] }
      else s

/-- HC moves over the frames completed in order (R335); the fuel bounds their number. -/
def advanceHc : Nat → Nat → List Nat → Nat × List Nat
  | 0, hc, d => (hc, d)
  | n + 1, hc, d => if d.contains (hc + 1) then advanceHc n (hc + 1) (d.filter (· != hc + 1)) else (hc, d)

/-- Host frame `seq` is completed (Table 21-6). -/
def State.completeFrame (s : State) (seq : Nat) : State :=
  if seq == 0 then s else
  let d := setAdd s.host.doneSet seq
  let (hc, d) := advanceHc d.length s.host.hc d
  { s with host := { s.host with hc := hc, doneSet := d } }

/-! ### Verdict and END words (R170, R172) -/

/-- A word in the layout of R170. -/
def verdictWord (code core lvn lid : Nat) : Word := BitVec.ofNat 64 (code + core * 2 ^ 8 + lvn * 2 ^ 16 + lid * 2 ^ 32)

/-- ENDTO of a launcher (Table 19-6): its launch id, logical number, core and Cd. -/
def endtoWord (lid lvn core cd : Nat) : Nat := lid * 2 ^ 32 + lvn * 2 ^ 16 + core * 2 ^ 8 + cd
/-- ENDTO of a service core: no launch id, the number among the service nodes in place of a logical number, and core 3. (DESIGN CHOICE, log 67) -/
def endtoService (ck cd : Nat) : Nat := endtoWord 0 (nodeOf ck - 2048) 3 cd
/-- An ENDTO names a service core. -/
def isSvcEndto (endto : Nat) : Bool := fld endto 8 2 == 3

/-- The vat has begun to write its image, or has written it: what it takes from now on the image would not hold. -/
def State.imageBegun (s : State) (node lid : Nat) : Bool :=
  s.images.any (fun j => j.active && j.lid == lid && (j.done.contains node || (mget? j.todo node).isSome))

/-- The core and channel an ENDTO names, while its rectangle is resident and its vat is not being imaged. -/
def State.endtoCore (s : State) (endto : Nat) : Option (Nat × Nat) :=
  if isSvcEndto endto then some (4 * (2048 + fld endto 16 6) + 3, fld endto 0 4)
  else
    match s.slots.find? (fun p => p.2.lid == fld endto 32 32 && p.2.lvn == fld endto 16 11) with
    | some (k, r) => if s.imageBegun (k / 4) r.lid then none else some (4 * (k / 4) + fld endto 8 2, fld endto 0 4)
    | none => none

/-- Deliver a verdict or END word: to the host for ENDTO 0, to the launcher's channel, or held while the launcher is not
resident (R172), or is being imaged. (DEDUCED, log 57) -/
def State.deliver (s : State) (endto : Nat) (w : Word) : State :=
  if endto == 0 then s.sendFrame (if fld w.toNat 0 8 == 0x10 then 0x82 else 0x81) 8 w.toNat
  else
    match s.endtoCore endto with
    | some (ck, c) => s.post ck c { words := [w] }
    | none => { s with held := s.held ++ [⟨endto, w⟩] }

/-- Deliver the words held for a rectangle that is resident again (R172). -/
def State.deliverHeld (s : State) (lid : Nat) : State :=
  let mine := s.held.filter (fun h => !isSvcEndto h.endto && fld h.endto 32 32 == lid)
  let s := { s with held := s.held.filter (fun h => !(!isSvcEndto h.endto && fld h.endto 32 32 == lid)) }
  mine.foldl (fun s h => s.deliver h.endto h.word) s

/-- A verdict or END word is still to be delivered to `(lid, lvn)` (R172): of a launch, image or resume under way, of a rectangle that is resident or has
been imaged and left its vats, or one that is held. -/
def State.awaits (s : State) (lid lvn : Nat) : Bool :=
  let mine (e : Nat) : Bool := e != 0 && !isSvcEndto e && fld e 32 32 == lid && fld e 16 11 == lvn
  s.launches.any (fun l => mine l.endto) || s.rects.any (fun r => mine r.endto) ||
  s.images.any (fun j => mine j.endto) || s.resumes.any (fun j => mine j.replyTo) ||
  s.asides.any (fun a => a.owed && mine a.endto) || s.held.any (fun h => mine h.endto)

end Sys2Proof.Machine
end

