-- ==== Sys2Proof/Machine/Messages.lean ====
section
/-!
DEFINITION. Messages and handlers (09 R150 to R166): SEND, SENDR, REPLY and their acceptance or refusal, items that are never refused,
BIND, UNBIND, HMASK, HPRIO, PEEK, DROP, YIELD, EXIT, and the start of an activation.
-/
namespace Sys2Proof.Machine
open Sys2Proof

/-! ### Destination words (R155) -/

/-- The core that a destination word names for a sender on `node`; none where the word is bad. `svc` says that the sender
is a service core. -/
def destCore (node : Nat) (svc : Bool) (w : Nat) : Option Nat :=
  let rel := bitAt w 31
  let core := fld w 16 2
  let home := homeVat node
  let x : Int := if rel then (vatX home : Int) + signed 7 (fld w 0 7) else (fld w 0 6 : Nat)
  let y : Int := if rel then (vatY home : Int) + signed 6 (fld w 8 6) else (fld w 8 5 : Nat)
  let bad := fld w 32 32 != 0 || fld w 24 6 != 0 || bitAt w 19 || fld w 14 2 != 0 || bitAt w 7 ||
    (bitAt w 18 && core != 3) || (core == 3 && !svc && !(bitAt w 30 && !rel)) || fld w 20 4 == 0 ||
    (!rel && (bitAt w 6 || bitAt w 13)) || x < 0 || 63 < x || y < 0 || 31 < y
  if bad then none
  else
    let v := vatAt x.toNat y.toNat
    some (if core == 3 then 4 * svcNode (clusterOf v) (fld w 18 1) + 3 else 4 * v + core)

/-- The refusal channel of the executing handler's core (Table 9-9 RFCS; C15 of a service core, R241). -/
def State.refusalChan (s : State) : Nat :=
  if isService s.node then 15 else (s.curSlot?.map (fun r => fld r.rfcs (4 * s.coreNo) 4)).getD 0

/-- A channel field that names one of C1 to C15 reserved on this core. -/
def chanField (s : State) (f : Nat) : Bool := isChan f && f != 40 && s.ownsChan (f - 40)

/-- The words W[b] to W[b + n - 1]. -/
def readWs (b : Nat) : Nat → M (List Word)
  | 0 => return []
  | n + 1 => do
    let w ← readW b
    let ws ← readWs (b + 1) n
    return w :: ws

/-- Take an outstanding slot (R156): blocks while all eight are in use. -/
def takeOut (msg : Bool) (fold : Bool := false) : M Nat := do
  let s ← getS
  let ck := s.cur.ck
  if (s.core ck).outs.length < 8 then
    let oid := s.oids
    let o : Out := ⟨oid, s.curLid, s.cur.ent, msg, fold⟩
    modS (fun s =>
      let s := { s with oids := s.oids + 1 }
      s.modCore ck (fun c => { c with outs := c.outs ++ [o] }))
    return oid
  else blockOn .retry

/-- The resident slot that reserves channel `c` of core `ck`, with its number. -/
def State.chanOwner (s : State) (ck c : Nat) : Option (Nat × Slot) :=
  ((s.slots.filter (fun p => p.1 / 4 == nodeOf ck && bitAt (reservedChans p.2 (coreOf ck)) c)).head?).map (fun p => (p.1 % 4, p.2))

/-- SENDRs with reply tag `tag` (as 16 · core + channel) that the slot's rectangle has accepted and not answered. -/
def Slot.owes (r : Slot) (tag : Nat) : Nat := mget r.tags tag 0
def Slot.setOwes (r : Slot) (tag n : Nat) : Slot := { r with tags := if n == 0 then mdel r.tags tag else mset r.tags tag n }

/-- Where a REPLY of rectangle `lid` to channel `c` of core `ck` goes: to the core that its destination word names; where it answers a SENDR of its own
rectangle, to the vat that sent it, wherever that is now (R239, R321). With it the message's `owed`, and the state without that SENDR among those to be
answered. (DEDUCED, log 98) -/
def State.answer (s : State) (lid ck c : Nat) : Nat × Nat × State :=
  let tag := 16 * ck + c
  match s.slots.find? (fun p => p.2.lid == lid && p.2.owes tag != 0) with
  | some (k, r) => (4 * (k / 4) + coreOf ck, tag + 1, s.modSlot (k / 4) (k % 4) (fun x => x.setOwes tag (r.owes tag - 1)))
  | none => (ck, 0, s)

/-- The same for a message of any kind: only a REPLY answers. -/
def State.sendTo (s : State) (kind lid ck c : Nat) : Nat × Nat × State := if kind == 2 then s.answer lid ck c else (ck, 0, s)

/-- The reply tag that SENDR makes for channel `c` of core `ck` (R158). -/
def replyTag (ck c : Nat) : Nat :=
  let home := homeVat (nodeOf ck)
  2 ^ 30 + c * 2 ^ 20 + (if isService (nodeOf ck) then nodeOf ck % 2 * 2 ^ 18 else 0) + coreOf ck * 2 ^ 16 + vatY home * 2 ^ 8 + vatX home

/-- SEND (kind 0), SENDR (1) and REPLY (2) (R158): `d` is the reply channel field of SENDR. An empty queue or channel in a blocks before b's class is
checked. (DESIGN CHOICE, log 102) -/
def sendForm (op kind d a b n : Nat) (s : State) : Host.Outcome State Fault Refusal :=
  runInstr xBASE op (do
    let cnt := n + 1
    classes (fun s => [⟨0, d, kind != 1 || chanField s d⟩, ⟨1, a, wSource s a⟩])
    let dw ← srcW a
    let st ← getS
    let w := dw.toNat
    let dst := destCore st.node (isService st.node) w
    let rt := bitAt w 30
    let rel := bitAt w 31
    checkAll [⟨1, a, dst.isSome⟩, ⟨1, a, if kind == 2 then rt && !rel else !rt⟩, ⟨1, a, kind == 1 || st.refusalChan != 0⟩,
      ⟨2, b, isW b && b + cnt ≤ 16⟩]
    let ws ← readWs b cnt
    let ws := if kind == 1 then BitVec.ofNat 64 (replyTag st.cur.ck (d - 40)) :: ws else ws
    let oid ← takeOut true
    modS (fun s =>
      let (to', owed, t) := s.sendTo kind s.curLid (dst.getD 0) (fld w 20 4)
      t.later (.messageAccept ⟨s.cur.ck, to', fld w 20 4, dw, ws, kind, if kind == 1 then d - 40 else s.refusalChan, s.curLid, oid, owed⟩))
    advance 4) s

/-- SEND (R158). -/
def execSend (a b n : Nat) (s : State) : Host.Outcome State Fault Refusal := sendForm 0x3C 0 0 a b n s
/-- SENDR (R158). -/
def execSendr (d a b n : Nat) (s : State) : Host.Outcome State Fault Refusal := sendForm 0x3D 1 d a b n s
/-- REPLY (R158). -/
def execReply (a b n : Nat) (s : State) : Host.Outcome State Fault Refusal := sendForm 0x3E 2 0 a b n s

/-! ### Acceptance and refusal (R150, R159 to R161) -/

/-- The refusal code of a message for a channel, 0 to accept it (R159). -/
def State.refusal (s : State) (m : Message) : Nat :=
  let room := (s.waiting m.dst m.chan).isEmpty && s.boxFits m.dst m.chan m.words.length
  if isService (nodeOf m.dst) then
    if !isService (nodeOf m.src) && !(3 ≤ m.chan && m.chan ≤ 14) then 2 else if room then 0 else 1
  else
    match s.chanOwner m.dst m.chan with
    | none => 2
    | some (_, r) => if r.stopped then 3 else if room then 0 else 1

/-- Append an item to the waiting items of a channel; it enters at once where it fits, and is due otherwise (R161). -/
def State.postNow (s : State) (ck chan : Nat) (it : WaitItem) : State :=
  let s := drainWaits ck chan ((s.waiting ck chan).length + 1) (s.setWaiting ck chan (s.waiting ck chan ++ [it]))
  if (s.waiting ck chan).isEmpty then s else s.later (.neverRefusedEntry ck chan)

/-- A SENDR that its own rectangle accepts is to be answered: its sender's slot counts it by reply tag. -/
def State.noteTag (s : State) (m : Message) : State :=
  match s.slotOfLid (nodeOf m.src) m.lid, s.chanOwner m.dst m.chan with
  | some (i, _), some (_, r) =>
    if m.kind == 1 && r.lid == m.lid then s.modSlot (nodeOf m.src) i (fun x => x.setOwes (16 * m.src + m.ret) (x.owes (16 * m.src + m.ret) + 1)) else s
  | _, _ => s

/-- A REPLY that is refused leaves the SENDR unanswered that it was to answer. -/
def State.unanswered (s : State) (m : Message) : State :=
  match s.slotOfLid (nodeOf m.dst) m.lid with
  | some (i, _) => if m.owed == 0 then s else s.modSlot (nodeOf m.dst) i (fun x => x.setOwes (m.owed - 1) (x.owes (m.owed - 1) + 1))
  | none => s

/-- MESSAGE_ACCEPT (R150, R159): the items that wait for the channel enter first where they fit; the message is accepted whole, or its
refusal goes back. -/
def execMessageAccept (m : Message) (s : State) : Host.Outcome State Fault Refusal :=
  let s := drainWaits m.dst m.chan (s.waiting m.dst m.chan).length s
  .next (match s.refusal m with
    | 0 => ((s.noteTag m).setBox m.dst m.chan (s.box m.dst m.chan ++ boxWords false m.words)).freeOut m.src m.oid
    | code => (s.unanswered m).later (.refusalArrival m code))

/-- The words of a refusal (R160). -/
def refusalWords (m : Message) (code : Nat) : List Word :=
  BitVec.ofNat 64 (code + m.chan * 2 ^ 4 + m.words.length * 2 ^ 8 + m.kind * 2 ^ 12) :: m.dword :: m.words

/-- REFUSAL_ARRIVAL (R160, R161): it holds the outstanding slot until it enters. -/
def execRefusalArrival (m : Message) (code : Nat) (s : State) : Host.Outcome State Fault Refusal :=
  .next (s.postNow m.src m.ret { words := refusalWords m code, oid := some (m.src, m.oid) })

/-- NEVER_REFUSED_ENTRY (R161): the oldest waiting item enters if it fits. -/
def execNeverRefusedEntry (ck chan : Nat) (s : State) : Host.Outcome State Fault Refusal :=
  .next (drainWaits ck chan 1 s)

/-! ### Binding and handler controls -/

/-- The entries of the executing handler's rectangle on its core, with their numbers: a service core belongs to none (R241). (DEDUCED, log 99) -/
def State.ownEntries (s : State) : List (Nat × Entry) :=
  if isService s.node then [] else (s.entriesOf s.cur.ck).filter (fun p => p.2.v && p.2.slot == s.curEntry.slot)

/-- The entry of logical handler number `n`. -/
def State.entryOfLhn (s : State) (n : Nat) : Option Nat := ((s.ownEntries.filter (fun p => p.2.lhn == n)).head?).map (·.1)

/-- Unbind a channel on the executing core; a service core keeps its bindings (R241). -/
def State.unbindChan (s : State) (c : Nat) : State :=
  if isService s.node then s else { s with entries := s.entries.map (fun p =>
      if p.1 / 32 == s.cur.ck then (p.1, { p.2 with chans := setFld p.2.chans c 1 0 }) else p) }

/-- BIND (R163). -/
def execBind (d a : Nat) (s : State) : Host.Outcome State Fault Refusal :=
  runInstr xBASE 0x3F (do
    classes (fun s => [⟨0, d, chanField s d⟩, ⟨1, a, wSource s a⟩])
    let n := (← srcW a).toNat
    match (← getS).entryOfLhn n with
    | none => illegalOperand a 1
    | some e =>
      modS (fun s => (s.unbindChan (d - 40)).modEntry (32 * s.cur.ck + e) (fun x => { x with chans := setFld x.chans (d - 40) 1 1 }))
      advance 4) s

/-- UNBIND (R163). -/
def execUnbind (d : Nat) (s : State) : Host.Outcome State Fault Refusal :=
  runInstr xBASE 0x40 (do
    classes (fun s => [⟨0, d, chanField s d⟩])
    modS (fun s => s.unbindChan (d - 40))
    advance 4) s

/-- HMASK (R164). -/
def execHmask (a b : Nat) (s : State) : Host.Outcome State Fault Refusal :=
  runInstr xBASE 0x41 (do
    classes (fun s => [⟨1, a, wSource s a⟩, ⟨2, b, wSource s b⟩])
    let n := (← srcW a).toNat
    let v ← srcW b
    match (← getS).entryOfLhn n with
    | none => illegalOperand a 1
    | some e =>
      modS (fun s => s.modEntry (32 * s.cur.ck + e) (fun x => { x with msk := bitAt v.toNat 0 }))
      advance 4) s

/-- HPRIO (R164). -/
def execHprio (a b : Nat) (s : State) : Host.Outcome State Fault Refusal :=
  runInstr xBASE 0x42 (do
    classes (fun s => [⟨1, a, wSource s a⟩, ⟨2, b, wSource s b⟩])
    let n := (← srcW a).toNat
    let v := (← srcW b).toNat
    match (← getS).entryOfLhn n with
    | none => illegalOperand a 1
    | some e =>
      checkAll [⟨2, b, v ≤ 7⟩]
      modS (fun s => s.modEntry (32 * s.cur.ck + e) (fun x => { x with prio := v }))
      advance 4) s

/-- The words of the complete message at the head of a mailbox (R153). -/
def headLength : List BoxWord → Nat
  | [] => 0
  | w :: r => if w.last then 1 else 1 + headLength r

/-- The entry of a core bound to a channel, with its number. -/
def State.boundEntry (s : State) (ck c : Nat) : Option (Nat × Entry) :=
  ((s.entriesOf ck).filter (fun p => p.2.v && bitAt p.2.chans c)).head?

/-- PEEK (R165). -/
def execPeek (d a : Nat) (s : State) : Host.Outcome State Fault Refusal :=
  runInstr xBASE 0x43 (do
    classes (fun s => [⟨0, d, wDest s d⟩, ⟨1, a, chanField s a⟩])
    let st ← getS
    let b := st.box st.cur.ck (a - 40)
    let bound := match st.boundEntry st.cur.ck (a - 40) with
      | some (_, e) => 2 ^ 16 + e.lhn * 2 ^ 17
      | none => 0
    dstW d (BitVec.ofNat 64 (b.length + headLength b * 2 ^ 8 + bound))
    advance 4) s

/-- DROP (R165): dropping a completion record is no acquire event. (DESIGN CHOICE, log 115) -/
def execDrop (a : Nat) (s : State) : Host.Outcome State Fault Refusal :=
  runInstr xBASE 0x44 (do
    classes (fun s => [⟨1, a, chanField s a⟩])
    modS (fun s =>
      let b := s.box s.cur.ck (a - 40)
      s.setBox s.cur.ck (a - 40) (b.drop (headLength b)))
    advance 4) s

/-- The selection key of an entry (R154): 8 · PCLS + PRIO. -/
def State.issueKey (s : State) (ck : Nat) (e : Entry) : Nat :=
  8 * (((s.slot? (nodeOf ck) e.slot).map (fun r => fld r.shape 22 3)).getD 0) + e.prio

/-- The entry is a candidate (R154), whatever its YLD. -/
def State.isCand (s : State) (ck : Nat) (e : Entry) : Bool :=
  e.v && !e.msk && (s.entryState ck e == .runnable || s.entryState ck e == .active)

/-- YIELD (R154, R166): YLD is set and P records the other candidates of the entry's key. -/
def execYield (s : State) : Host.Outcome State Fault Refusal :=
  runInstr xBASE 0x45 (do
    modS (fun s =>
      let ck := s.cur.ck
      let key := s.issueKey ck s.curEntry
      let P := ((s.entriesOf ck).filter (fun p => p.1 != s.cur.ent && s.isCand ck p.2 && s.issueKey ck p.2 == key)).map (·.1)
      s.modEntry s.curKey (fun e => { e with yld := true, pset := P }))
    advance 4) s

/-- EXIT (R166): waits for the array, raises the held-bank trap while the activation holds a run, and ends the activation. -/
def execExit (s : State) : Host.Outcome State Fault Refusal :=
  runInstr xBASE 0x46 (do
    let st ← getS
    if st.inArray st.curKey then blockOn .retry
    else
      match st.runs.filter (fun p => p.2.owner == st.curKey) with
      | [] => modS (fun s => s.endActivation s.curKey)
      | p :: ps => trap 0x0D (p.1 % 128 + (ps.length + 1) * 2 ^ 8)) s

/-! ### The start of an activation -/

/-- An activation whose handler has a `.mirror` list takes the core's mirror slots and fills them in order (R23). -/
def State.takeMirrors (s : State) (k : Nat) : State :=
  match (s.entry k).mirrors with
  | [] => s
  | ws => s.modCore (k / 32) (fun c => { c with owner := some (k % 32), mir := (List.range ws.length).zip ws })

/-- The activation of an entry starts (R18, R153): all tags and handles null, ST zero, WP and IP from the entry, its mirror list taken; the
rest of the workspace stays as it is. (DEDUCED, log 74) -/
def State.startActivation (s : State) (k : Nat) : State :=
  let e := s.entry k
  let s := s.takeMirrors k
  ((s.poke (spAddr (nodeOf (k / 32)) (e.ws + 0x540)) 48 0).modEntry k (fun e =>
    { e with state := .active, lnch := false, wp := e.ws, ip := e.entry, st := 0, wait := .none, asked := false,
             grant := false, readAt := [], nearAt := [], floor := 0 })).newPhase k

/-- The start of an activation waits for a READY or DRAINING tile that holds the registers it clears (R18, R223). -/
def State.startHeld (s : State) (ck : Nat) (e : Entry) : Bool := s.tileHeld (nodeOf ck) (e.ws + 0x540) 48

/-- ACTIVATION_START (R153): a RUNNABLE entry of the core becomes ACTIVE, unless a tile holds its registers. -/
def execActivationStart (ck ent : Nat) (s : State) : Host.Outcome State Fault Refusal :=
  .next (if s.entryState ck (s.entry (32 * ck + ent)) == .runnable && !s.startHeld ck (s.entry (32 * ck + ent)) then s.startActivation (32 * ck + ent) else s)

end Sys2Proof.Machine
end

