-- ==== Sys2Proof/Machine/Translation.lean ====
section
/-!
DEFINITION. Translation (14 R242 to R246): lookup in a vat's translation buffer, miss and fault messages, far memory as
bytes (12 R208, R212), and the instructions TLBW, TLBI and FLTRPL (14 R247 to R249).
-/
namespace Sys2Proof.Machine
open Sys2Proof

/-! ### Far memory -/

/-- The physical address lies in no tier (Table 12-3). -/
def noMem (pa : Nat) : Bool := 0x30000000000 ≤ pa

/-- An access to this physical address finds no memory: it lies in no tier, or in a 16 KiB frame that BADPAGE withholds from use (R354). (DESIGN CHOICE,
log 68) -/
def State.noMem (s : State) (pa : Nat) : Bool := Machine.noMem pa || s.badFrames.contains (pa / 0x4000)

def State.farPeek (s : State) (pa n : Nat) : Nat := loadN zeroFill s.far pa n
/-- A far write: the words written whole lose their poison marks. -/
def State.farPoke (s : State) (pa n v : Nat) : State :=
  let w0 := alignUp pa 8 / 8
  { s with far := storeN zeroFill s.far pa n v
           farPoison := setDelRange s.farPoison w0 ((pa + n) / 8 - w0) }
/-- A word of the bytes has an uncorrectable error. -/
def State.farBad (s : State) (pa n : Nat) : Bool :=
  n != 0 && setMeets s.farPoison (pa / 8) ((pa + n - 1) / 8 + 1 - pa / 8)
/-- `n` 8-byte words from `pa` as a reader gets them: a word with an uncorrectable error is zero (R212). -/
def State.farWords (s : State) (pa : Nat) : Nat → Nat
  | 0 => 0
  | n + 1 =>
    (if s.farBad pa 8 then 0 else s.farPeek pa 8) + 2 ^ 64 * s.farWords (pa + 8) n

/-! ### Links (R208, R358) -/

/-- The link of an HBM4E stack that a physical address goes over, if it lies in that tier (R208). -/
def stackLink (pa : Nat) : Option Nat := if pa < 2 ^ 40 then some (pa / 4096 % 16) else none

/-- The die-to-die links between two array dies, in LSEL numbering: along the row of the first, then over the row edge (R148, 23 Lane margins). (DEDUCED, log 13) -/
def dieLinks (a b : Nat) : List Nat :=
  ((List.range 3).filter (fun c => min (a % 4) (b % 4) ≤ c && c < max (a % 4) (b % 4))).map (fun c => 64 + 3 * (a / 4) + c) ++
    (if a / 4 == b / 4 then [] else [70 + b % 4])

/-- A link on the way from one node to another is paused for retraining (R358). -/
def State.wayPaused (s : State) (from' to' : Nat) : Bool :=
  (dieLinks (dieOf (homeVat from')) (dieOf (homeVat to'))).any s.pauses.contains

/-- A link between a node and the memory at a physical address is paused: the stack's, or those of the dies between, or the join to the
I/O die (R208, R323, R358). (DEDUCED, log 13) -/
def State.farPaused (s : State) (node pa : Nat) : Bool :=
  let a := dieOf (homeVat node)
  let d := match stackLink pa with
    | some st => st / 2
    | none => pa / 4096 % 2 * 4 + a % 4
  (dieLinks a d ++ [(stackLink pa).getD (74 + d)]).any s.pauses.contains

/-- The same for one of the 4 KiB blocks of `n` bytes at a physical address. -/
def State.farPausedAll (s : State) (node pa n : Nat) : Bool :=
  !s.pauses.isEmpty && (List.range ((pa + n - 1) / 4096 + 1 - pa / 4096)).any (fun i => s.farPaused node (pa / 4096 * 4096 + 4096 * i))

/-! ### What a handler has read remotely (13 Table 13-4 SNAPSHOT) -/

/-- The granule that entry `k` has read in a phase, its first read fixing it. (DEDUCED, log 19) -/
def State.granule (s : State) (k phase : Nat) (far : Bool) (num : Nat) : Option Granule :=
  (s.entry k).snap.find? (fun g => g.phase == phase && g.far == far && g.num == num)

/-- Record a granule. -/
def State.noteGranule (s : State) (k : Nat) (g : Granule) : State := s.modEntry k (fun e => { e with snap := e.snap ++ [g] })

/-- Entry `k` writes to granules `lo` to `lo + n - 1`: its snapshot of them ends. -/
def State.dropGranules (s : State) (k : Nat) (far : Bool) (lo n : Nat) : State :=
  s.modEntry k (fun e => { e with snap := e.snap.filter (fun g => !(g.far == far && lo ≤ g.num && g.num < lo + n)) })

/-- The far granule that a request of entry `k` still in flight from an earlier phase reads, or one in flight writes. -/
def farInFlight (k phase num : Nat) : Event → Bool
  | .farMemoryAccess r => 32 * r.src + r.ent == k && r.pa / 16 ≤ num && num ≤ (r.pa + r.size - 1) / 16 && (r.op != .read || r.phase != phase)
  | .farAtomicService r => 32 * r.src + r.ent == k && r.pa / 16 == num
  | _ => false

/-- The poison marks among `n` words from word `w`, counted from `w`. -/
def marksIn (poison : List Nat) (w n : Nat) : List Nat := (poison.filter (fun x => w ≤ x && x < w + n)).map (· - w)

/-- A remote store of entry `k` to a vat is on its way. -/
def storeInFlight (k node : Nat) : Event → Bool
  | .nearStoreArrival r => 32 * r.src + r.ent == k && r.addr / 0x200000 == node
  | _ => false

/-- A far request of entry `k` that touches a granule is on its way. -/
def ownFar (k num : Nat) : Event → Bool
  | .farMemoryAccess r => 32 * r.src + r.ent == k && r.pa / 16 ≤ num && num ≤ (r.pa + r.size - 1) / 16
  | .farAtomicService r => 32 * r.src + r.ent == k && r.pa / 16 == num
  | _ => false

/-- The activation of entry `k` has accessed the scratchpad of vat `node`, or read a far granule: it finds no earlier value there from then on. -/
def State.nearSeen (s : State) (k node : Nat) : State := s.modEntry k (fun e => { e with nearAt := mset e.nearAt node (s.turn + 1) })
def State.farSeen (s : State) (k num : Nat) : State := s.modEntry k (fun e => { e with readAt := mset e.readAt num (s.turn + 1) })

/-- An RDF with an outstanding slot numbered below `oid` has not read all of `n` far bytes at `pa` that it is to read. -/
def awaitedBy (pa n oid : Nat) : Event → Bool
  | .farMemoryAccess r => r.op == .read && (match r.replyTo with | .chan _ _ _ => true | _ => false) && r.oid < oid &&
      (r.pa + r.pos) / 16 ≤ (pa + n - 1) / 16 && pa / 16 ≤ (r.pa + r.size - 1) / 16
  | _ => false

/-- Such a read is pending: a write there that comes later waits for it, so that no read returns a value that depends on what comes after it (R231
CAUSALITY). (DEDUCED, log 97) -/
def State.readPending (s : State) (pa n oid : Nat) : Bool := s.agenda.any (awaitedBy pa n oid)

/-! ### Addresses and entries -/

/-- An AREL result that leaves the mesh: any access through it raises the address trap (R201, R72). -/
abbrev offMesh : Nat := 0xFFFFFFFFFFFFFFFF

/-- An address word is well formed (R216), and no AREL result that leaves the mesh (R201). -/
def addrOk (w : Nat) : Bool :=
  w != offMesh && (if bitAt w 63 then fld w 57 6 == (if bitAt w 56 then 63 else 0) else fld w 32 31 == 0)

/-- A far virtual address word is well formed (R209): bits 63:57 all equal bit 56. -/
def farWordOk (w : Nat) : Bool := fld w 57 7 == (if bitAt w 56 then 127 else 0)

/-- The kinds of access in a requester word. -/
abbrev accRead : Nat := 0
abbrev accWrite : Nat := 1
abbrev accAtomic : Nat := 2

/-- Address bits inside a page of SIZE. -/
def pageBits (size : Nat) : Nat := if size == 0 then 14 else if size == 1 then 21 else 30

/-- The page of `w` (page word layout) covers `va`. -/
def pageCovers (w va : Nat) : Bool :=
  let b := pageBits (fld w 0 2)
  va % 2 ^ 57 / 2 ^ b == fld w 14 43 * 2 ^ 14 / 2 ^ b

/-- Two pages overlap. -/
def pagesOverlap (w w' : Nat) : Bool :=
  let b := max (pageBits (fld w 0 2)) (pageBits (fld w' 0 2))
  fld w 14 43 * 2 ^ 14 / 2 ^ b == fld w' 14 43 * 2 ^ 14 / 2 ^ b

/-- The translation entries of a vat with their keys. -/
def State.tlbOf (s : State) (vat : Nat) : List (Nat × Tlb) := s.tlb.filter (fun p => p.1 / 64 == vat)

/-- Whether a present entry allows a kind of access (R243). -/
def pageAllows (page kind : Nat) : Bool :=
  let rd := bitAt page 3
  let wr := bitAt page 4
  if kind == accRead then rd else if kind == accWrite then wr else rd && wr

/-- Translation of `va` on a vat (R243). -/
def State.lookup (s : State) (vat va kind : Nat) : Found :=
  match (s.tlbOf vat).find? (fun p => pageCovers p.2.page va) with
  | none => .miss
  | some (k, t) =>
    if t.drain then .draining
    else if !bitAt t.page 2 then .fault 1
    else if !pageAllows t.page kind then .fault 2
    else
      let b := pageBits (fld t.page 0 2)
      .physical (fld t.frame 14 38 * 2 ^ 14 / 2 ^ b * 2 ^ b + va % 2 ^ b) k

/-- A place in the order of uses of a vat's entries after all others. -/
def State.nextUse (s : State) (vat : Nat) : Nat := ((s.tlbOf vat).map (fun p => p.2.used)).foldl max 0 + 1

/-- Note a use of a translation entry. -/
def State.touchTlb (s : State) (k : Nat) : State :=
  match mget? s.tlb k with
  | some t => { s with tlb := mset s.tlb k { t with used := s.nextUse (k / 64) } }
  | none => s

/-- Send a miss message unless one is outstanding for the 16 KiB range (R244). -/
def State.sendMiss (s : State) (vat va req : Nat) : State :=
  let v := va % 2 ^ 57
  let r := (vat, v / 2 ^ 14)
  if s.misses.contains r then s
  else
    { s with misses := s.misses ++ [r] }.post (4 * svcNode (clusterOf vat) 0 + 3) 1
      { words := [BitVec.ofNat 64 v, BitVec.ofNat 64 req] }

/-- Send a fault message (R245). -/
def State.sendFault (s : State) (vat va req cause : Nat) : State :=
  s.post (4 * svcNode (clusterOf vat) 1 + 3) 1
    { words := [BitVec.ofNat 64 (va % 2 ^ 57), BitVec.ofNat 64 req, BitVec.ofNat 64 cause] }

/-- Translate at issue for the executing handler (R209, R243 to R245). -/
def translate (va kind : Nat) : M Nat := do
  let s ← getS
  let vat := homeVat s.node
  match s.lookup vat va kind with
  | .physical pa k =>
    modS (fun s => s.touchTlb k)
    return pa
  | .miss => blockAfter (.miss va) (fun s => s.sendMiss vat va (s.requester s.curKey kind))
  | .fault c => blockAfter (.fault va kind) (fun s => s.sendFault vat va (s.requester s.curKey kind) c)
  | .draining => blockOn .retry

/-! ### TLBW, TLBI -/

/-- The core is the translation (`svc` 0) or fault (`svc` 1) service core of its cluster. -/
def isSvc (s : State) (svc : Nat) : Bool := isService s.node && s.node % 2 == svc % 2

/-- The reg field of a form S instruction names W0 to W15, and the core is the named service core; otherwise the
illegal-operand trap at position 0. -/
def svcReg (svc r : Nat) : M Unit := do
  let s ← getS
  checkAll [⟨0, r, isW r && isSvc s svc⟩]

/-- TLBW releases the waiters of a vat on the addresses of a page (R244): each translates again. -/
def State.releaseMisses (s : State) (vat page : Nat) : State :=
  let hit (w : CmdWait) : CmdWait := match w with
    | .miss va => if pageCovers page va then .none else w
    | _ => w
  { s with
    misses := s.misses.filter (fun r => !(r.1 == vat && pageCovers page (r.2 * 2 ^ 14)))
    entries := s.entries.map (fun p =>
      match p.2.wait with
      | .miss va => if homeVat (nodeOf (p.1 / 32)) == vat && pageCovers page va then (p.1, { p.2 with wait := .retry }) else p
      | _ => p)
    arrays := s.arrays.map (fun p =>
      match p.2.walk with
      | some w => if p.1 == vat then (p.1, { p.2 with walk := some { w with wait := hit w.wait } }) else p
      | none => p)
    cmds := s.cmds.map (fun p => if p.1 / 8 == vat then (p.1, { p.2 with wait := hit p.2.wait }) else p)
    streams := s.streams.map (fun p => if p.1 / 4 == vat then (p.1, { p.2 with wait := hit p.2.wait }) else p)
    images := s.images.map (fun j => { j with waits := j.waits.map (fun p => if p.1 == vat then (p.1, hit p.2) else p) })
    resumes := s.resumes.map (fun j => { j with waits := j.waits.map (fun p => if p.1 == vat then (p.1, hit p.2) else p) }) }

/-- The number of the least recently used entry of a full buffer. -/
def leastUsed : List (Nat × Tlb) → Nat
  | [] => 0
  | p :: r => (r.foldl (fun (best : Nat × Tlb) q => if q.2.used < best.2.used then q else best) p).1 % 64

/-- The entry of a number goes; a draining one stays noted for CONFIRM (R248). -/
def State.dropTlb (s : State) (k : Nat) : State :=
  match mget? s.tlb k with
  | some t => { s with tlb := mdel s.tlb k, drained := if t.drain then s.drained ++ [(k / 64, t.page)] else s.drained }
  | none => s

/-- Write a translation entry (R243, R247): overlapping entries go, the lowest empty number is filled, or the least recently
used entry is replaced. Its writing counts as a use, and each use has a place of its own in the order of uses. (DESIGN CHOICE, log 79) -/
def State.writeTlb (s : State) (vat page frame : Nat) : State :=
  let s := { s with tlb := s.tlb.filter (fun p => !(p.1 / 64 == vat && pagesOverlap p.2.page page)) }
  let own := s.tlbOf vat
  let i := match (List.range 64).find? (fun i => !own.any (fun p => p.1 % 64 == i)) with
    | some i => i
    | none => leastUsed own
  let s := s.dropTlb (64 * vat + i)
  { s with tlb := mset s.tlb (64 * vat + i) ⟨page, frame, false, s.nextUse vat⟩ }.releaseMisses vat page

/-- The low bits that R242 requires to be zero are zero. -/
def pageLowOk (page frame : Nat) : Bool :=
  let n := pageBits (fld page 0 2) - 14
  fld page 14 n == 0 && fld frame 14 n == 0

/-- TLBW (R247). -/
def execTlbw (r : Nat) (s : State) : Host.Outcome State Fault Refusal :=
  runInstr xBASE 0x5F (do
    svcReg 0 r
    checkAll [⟨0, r, r != 15⟩]
    let page := (← readW r).toNat
    let frame := (← readW (r + 1)).toNat
    let s ← getS
    let vat := fld frame 53 11
    checkAll [⟨0, r, fld page 57 7 == 0 && fld page 5 9 == 0 && fld frame 52 1 == 0 && fld frame 0 14 == 0⟩,
      ⟨0, r, fld page 0 2 != 3⟩, ⟨0, r, pageLowOk page frame⟩, ⟨0, r, clusterOf vat == clusterOf s.node⟩,
      ⟨0, r, !(s.tlbOf vat).any (fun p => p.2.drain && pagesOverlap p.2.page page)⟩]
    modS (fun s => s.writeTlb vat page frame)
    advance 4) s

/-- The selector of a TLBI has no reserved bit and no SIZE 3 (R248). -/
def selectorOk (w : Nat) : Bool := fld w 57 7 == 0 && fld w 6 8 == 0 && fld w 0 2 != 3

/-- TLBI DRAIN (R248). -/
def execTlbiDrain (r : Nat) (s : State) : Host.Outcome State Fault Refusal :=
  runInstr xBASE 0x5F (do
    svcReg 0 r
    let w := (← readW r).toNat
    checkAll [⟨0, r, selectorOk w⟩]
    modS (fun s => { s with tlb := s.tlb.map (fun p =>
      if clusterOf (p.1 / 64) == clusterOf s.node && (bitAt w 5 || pagesOverlap p.2.page w) then (p.1, { p.2 with drain := true })
      else p) })
    advance 4) s

/-- Bytes of an element of a gather, from word 1 of its descriptor (15 Table 15-5). -/
def gathSize (w1 : Nat) : Nat := 128 * (fld w1 28 5 + 1)

/-- An element in flight, as a gather's `flight` holds it, was translated through `page`: the page of its first or its last byte. -/
def elementThrough (page w1 t : Nat) : Bool :=
  fld t 57 4 == 0 && (pageCovers page t || pageCovers page (t % 2 ^ 57 + gathSize w1 - 1))

/-- The far request of an event not yet performed at its home. -/
def pendingFar : Event → Option FarReq
  | .farMemoryAccess r => some r
  | .farAtomicService r => some r
  | _ => none

/-- The draining pages of a cluster by vat, those too whose entry has been replaced since. -/
def State.drainingPages (s : State) (cluster : Nat) : List (Nat × Nat) :=
  ((s.tlb.filter (fun p => p.2.drain)).map (fun (p : Nat × Tlb) => (p.1 / 64, p.2.page)) ++ s.drained).filter (fun p => clusterOf p.1 == cluster)

/-- An access translated through a draining entry of the cluster is not yet performed (R248): a far request in flight, or a
gathered element that has not landed. -/
def State.drainBusy (s : State) (cluster : Nat) : Bool :=
  (s.drainingPages cluster).any (fun (p : Nat × Nat) =>
    s.agenda.any (fun i => match pendingFar i with
      | some r => homeVat (nodeOf r.src) == p.1 && pageCovers p.2 r.va
      | none => false) ||
    s.cmds.any (fun c => c.1 / 8 == p.1 && c.2.kind == .gath && c.2.flight.any (fun f => elementThrough p.2 (c.2.args.getD 1 0) f.2)))

/-- TLBI CONFIRM (R248). -/
def execTlbiConfirm (r : Nat) (s : State) : Host.Outcome State Fault Refusal :=
  runInstr xBASE 0x5F (do
    svcReg 0 r
    let w := (← readW r).toNat
    checkAll [⟨0, r, selectorOk w⟩]
    let st ← getS
    let c := clusterOf st.node
    if st.drainBusy c then blockOn .retry
    else
      modS (fun s => { s with tlb := s.tlb.filter (fun p => !(clusterOf (p.1 / 64) == c && p.2.drain)), drained := s.drained.filter (fun p => clusterOf p.1 != c) })
      advance 4) s

/-! ### FLTRPL (R249) -/

/-- A requester word that R244 sends, of a vat of the cluster. -/
def requesterOk (cluster w : Nat) : Bool :=
  fld w 32 32 == 0 && fld w 11 1 == 0 && fld w 14 2 < 2 && fld w 21 3 < 3 && clusterOf (fld w 0 11) == cluster

/-- FLTRPL: the reply leaves. -/
def faultReply (retry : Bool) (r : Nat) (s : State) : Host.Outcome State Fault Refusal :=
  runInstr xBASE 0x5F (do
    svcReg 1 r
    let w := (← readW r).toNat
    let st ← getS
    checkAll [⟨0, r, requesterOk (clusterOf st.node) w⟩]
    modS (fun s => s.later (.faultReplyArrival w retry))
    advance 4) s

/-- FLTRPL RETRY. -/
def execFltrplRetry (r : Nat) (s : State) : Host.Outcome State Fault Refusal := faultReply true r s
/-- FLTRPL FAIL. -/
def execFltrplFail (r : Nat) (s : State) : Host.Outcome State Fault Refusal := faultReply false r s

end Sys2Proof.Machine
end

