-- ==== Sys2Proof/Machine/Engines.lean ====
section
/-!
DEFINITION. Semaphore instructions (15 R253), and what every engine command shares (15 R254 to R257, R268): the
control word, command slots, accesses, completions, ENGQ.
-/
namespace Sys2Proof.Machine
open Sys2Proof

/-! ### Semaphores (R253) -/

/-- The executing handler's rectangle reserves semaphore `i` (Table 9-9, SEMS). -/
def State.ownsSem (s : State) (i : Nat) : Bool :=
  match s.curSlot? with
  | some r => i ≤ 15 && bitAt (fld r.rfcs 16 16) i && !isService s.node
  | none => false

/-- The semaphore that a source names, checked. -/
def semOperand (a : Nat) : M Nat := do
  classes (fun s => [⟨1, a, wSource s a⟩])
  let i := (← srcW a).toNat
  let st ← getS
  checkAll [⟨1, a, st.ownsSem i⟩]
  return i

/-- The other entries of the vat that wait in SEMP on `i`, or have been resumed to take its count. -/
def State.semWaiters (s : State) (i : Nat) : List (Nat × Entry) :=
  s.entries.filter (fun p => p.1 / 128 == s.node && p.1 != s.curKey && p.2.wait == .sem i)

/-- SEMP (R253): a handler resumed from its wait takes a count; one that has not waited leaves one for each that does. -/
def execSemp (a : Nat) (s : State) : Host.Outcome State Fault Refusal :=
  runInstr xBASE 0x5A (do
    let i ← semOperand a
    let st ← getS
    let n := st.semCount st.node i
    let ahead := if st.curEntry.wait == .sem i then 0 else (st.semWaiters i).length
    if n ≤ ahead then blockOn (.sem i)
    else
      modS (fun s => (s.setSem s.node i (n - 1)).modEntry s.curKey (fun e => { e with wait := .none }))
      acquire
      advance 4) s

/-- SEMV (R253). -/
def execSemv (a : Nat) (s : State) : Host.Outcome State Fault Refusal :=
  runInstr xBASE 0x5A (do
    let i ← semOperand a
    modS (fun s => s.semUp s.node i)
    advance 4) s

/-- SEMR (R253). -/
def execSemr (d a : Nat) (s : State) : Host.Outcome State Fault Refusal :=
  runInstr xBASE 0x5A (do
    classes (fun s => [⟨0, d, isW d⟩, ⟨1, a, wSource s a⟩])
    let i ← semOperand a
    let st ← getS
    let n := ((st.semWaiters i).filter (fun p => p.2.state == .blocked)).length
    dstW d (BitVec.ofNat 64 (st.semCount st.node i + n * 2 ^ 16))
    advance 4) s

/-! ### Control words (Table 15-2) -/

def ctlLen (w : Nat) : Nat := fld w 40 24
def ctlTag (w : Nat) : Nat := fld w 16 16
def ctlAcq (w : Nat) : Bool := bitAt w 10
def ctlRel (w : Nat) : Bool := bitAt w 6
def ctlCk (w : Nat) : Nat := fld w 4 2
def ctlCt (w : Nat) : Nat := fld w 0 4
def ctlArmv (w : Nat) : Bool := bitAt w 39
def ctlArme (w : Nat) : Nat := fld w 33 6

/-- A control word is not bad (R254); `lo` and `hi` bound LEN, `arm` says that ARMV may be 1. (DEDUCED, log 24) -/
def State.ctlOk (s : State) (w lo hi : Nat) (arm : Bool) : Bool :=
  let t := s.tile s.node (ctlArme w)
  fld w 32 1 == 0 && fld w 14 2 == 0 && ctlCk w != 3 &&
  (ctlCk w != 2 || (ctlCt w != 0 && s.ownsChan (ctlCt w))) &&
  (ctlCk w != 1 || s.ownsSem (ctlCt w)) &&
  fld w 11 3 ≤ 5 && fld w 7 3 ≤ 5 &&
  (!ctlArmv w || (arm && t.v && t.slot == s.curEntry.slot)) &&
  lo ≤ ctlLen w && ctlLen w ≤ hi

/-- A write or atomic of entry `k` not yet performed at its home. -/
def writeInFlight (k : Nat) : Event → Bool
  | .nearStoreArrival r => 32 * r.src + r.ent == k
  | .nearAtomicArrival r => 32 * r.src + r.ent == k
  | .farMemoryAccess r => 32 * r.src + r.ent == k && r.op == .write
  | .farAtomicService r => 32 * r.src + r.ent == k
  | _ => false

/-- A fold of entry `k` is not performed (R318): it holds its outstanding slot until it is folded or inserted, or its refusal has entered. -/
def State.foldInFlight (s : State) (k : Nat) : Bool := (s.core (k / 32)).outs.any (fun o => o.fold && o.ent == k % 32)

/-- The handler's writes, atomics and folds are performed (R233, R235): the wait of a release step. (DEDUCED, log 22) -/
def performed : M Unit := do
  let s ← getS
  if s.agenda.any (writeInFlight s.curKey) || s.foldInFlight s.curKey then blockOn .retry else pure ()

/-! ### Scopes (R228) -/

/-- The aligned rectangle of a group along one axis: the part of `lo`, `n` (aligned, a power of two) in the block of `b` that holds `v`. -/
def groupAxis (lo n b v : Nat) : Nat × Nat := if n ≤ b then (lo, n) else (v / b * b, b)

/-- The group of a scope (Table 13-2) on a vat for a rectangle slot: its rectangle of vats. A service core, which belongs to no rectangle, is
a group of its own. (DEDUCED, log 23) -/
def scopeGroup (node : Nat) (slot : Option Slot) (scope w : Nat) : PhaseKey :=
  match slot with
  | none => ⟨0, node, 0, 1, 1⟩
  | some r =>
    let W := shapeW r.shape
    let H := shapeH r.shape
    let part (bw bh : Nat) : PhaseKey :=
      let (x, w) := groupAxis r.ox W bw (vatX node)
      let (y, h) := groupAxis r.oy H bh (vatY node)
      ⟨r.lid, x, y, w, h⟩
    match scope with
    | 0 => part 1 1
    | 1 => if bitAt w 15 then part (2 ^ fld w 16 4) (2 ^ fld w 20 4) else ⟨r.lid, r.ox, r.oy, W, H⟩
    | 2 => part 8 8
    | 3 => part 16 16
    | _ => ⟨r.lid, r.ox, r.oy, W, H⟩

/-- The group of a scope for the executing handler. (DEDUCED, log 23) -/
def State.phaseGroup (s : State) (scope w : Nat) : PhaseKey := scopeGroup s.node s.curSlot? scope w

/-- The reach of a scope on a vat, with its RECT group (Table 13-2). -/
def scopeReach (scope node : Nat) (g : PhaseKey) : Reach :=
  match scope with
  | 0 => .vat node
  | 1 => .group g
  | 2 => .cluster (clusterOf node)
  | 3 => .die (dieOf (homeVat node))
  | _ => .package

/-- The release of a scope by the executing handler (R230, R233, R235), of what it has written. -/
def State.releaseScope (s : State) (scope w : Nat) : State :=
  s.release (scopeReach scope s.node (s.phaseGroup scope w)) (· == .handler s.curLid s.curKey)

/-- A release step of a scope: once the handler's writes are performed (R230). -/
def releaseStep (scope : Nat) : M Unit := do
  performed
  modS (fun s => s.releaseScope scope 0)

/-- ACQ of a control word (R236): the release step of a FENCE of its scope. -/
def applyAcq (w : Nat) : M Unit := if ctlAcq w then releaseStep (fld w 11 3) else pure ()

/-- The state after the release step that ACQ of a control word makes. -/
def State.acqDone (s : State) (w : Nat) : State := if ctlAcq w then s.releaseScope (fld w 11 3) 0 else s

/-- The count of release events at the acquire that the reads of a command follow: its issue with ACQ (R236), else the last acquire of the issuing
activation. (DESIGN CHOICE, log 97) -/
def State.acquiredAt (s : State) (w : Nat) : Nat := if ctlAcq w then s.rels else s.curEntry.relAt

/-- The lowest free command slot of a vat (R256). -/
def State.freeCmd (s : State) (node : Nat) : Option Nat := (List.range 8).find? (fun i => (s.cmd? node i).isNone)

/-- Start a command in the lowest free slot, with its events; blocks while none is free. -/
def startCmd (c : Cmd) (events : Nat → Nat → List Event) : M Unit := do
  let s ← getS
  match s.freeCmd s.node with
  | none => blockOn .retry
  | some i =>
    modS (fun s =>
      let s := s.setCmd s.node i { c with lid := s.curLid, ent := s.cur.ent, order := s.turn, relAt := s.acquiredAt c.ctl.toNat }
      { s with agenda := s.agenda ++ events s.node i })

/-! ### Addresses (R216) -/

/-- The address word is a far one. -/
def addrFar (w : Nat) : Bool := bitAt w 63

/-- Where the byte `i` after an address word lies: near (scratchpad address) or far (virtual address); none outside the vat or the far
form. (DEDUCED, log 27) -/
def engAt (w : Nat) (i : Int) : Option (Bool × Nat) :=
  if addrFar w then
    let t := signed 57 w + i
    if -(2 ^ 56 : Int) ≤ t && t < 2 ^ 56 then some (true, wrapN 57 t) else none
  else
    let t := (nearOffset w : Int) + i
    if 0 ≤ t && t < 0x200000 then some (false, spAddr (vatAt (fld w 26 6) (fld w 21 5)) t.toNat) else none
where
  nearOffset (w : Nat) : Nat := fld w 0 21

/-- A near range of `n` bytes lies within 0x2000 to 0x1FFFFF of one vat (R257, R261); a far or malformed word passes here. -/
def nearRangeOk (w n : Nat) : Bool := addrFar w || !addrOk w || (0x2000 ≤ fld w 0 21 && fld w 0 21 + n ≤ 0x200000)

/-- The address trap for a malformed address word, the alignment trap for one that is not a multiple of `n`. -/
def addrCheck (w n : Nat) : M Unit :=
  if !addrOk w then addressTrap w else if w % n != 0 then alignmentTrap w else pure ()

/-! ### Engine reads (R257) -/

/-- Translation for an engine of a vat. -/
def State.engLookup (s : State) (vat va kind : Nat) : Except EngStop Nat :=
  match s.lookup vat va kind with
  | .physical pa _ => .ok pa
  | .miss => .error (.miss va kind va)
  | .fault c => .error (.fault va kind c va)
  | .draining => .error .wait

/-- An access that begins at `va` and cannot be made has used the translation there, whichever of its pages it stops on (R243). -/
def EngStop.start (va : Nat) : EngStop → EngStop
  | .miss at' kind _ => .miss at' kind va
  | .fault at' kind c _ => .fault at' kind c va
  | .wait => .wait

/-- Where an engine's far access of `n` bytes goes: it waits also while a link on the way is paused (R358), and a write while an RDF of an earlier
outstanding slot has still to read there (R231). -/
def State.engFar (s : State) (vat va n kind : Nat) : Except EngStop Nat := do
  let pa ← s.engLookup vat va kind
  if s.farPausedAll vat pa n || (kind != accRead && s.readPending pa n s.oids) then .error .wait else return pa

/-- Note the use of the translation of `va` for an access of `kind`. -/
def State.engTouch (s : State) (vat va kind : Nat) : State :=
  match s.lookup vat va kind with
  | .physical _ k => s.touchTlb k
  | _ => s

/-- The same for `n` bytes, which end in the next page perhaps. -/
def State.engTouchAll (s : State) (vat va n kind : Nat) : State :=
  (s.engTouch vat va kind).engTouch vat ((va + n - 1) % 2 ^ 57) kind

/-- Bytes `pa` to `pa + n - 1`, of value `v` and poisoned as `bad` says, with those of granule `g` as an earlier value of it has them. -/
def overlay (pa n : Nat) (v : Nat × Bool) (g : Granule) : Nat × Bool :=
  let lo := max pa (16 * g.num)
  let hi := min (pa + n) (16 * g.num + 16)
  if hi ≤ lo then v
  else (setFld v.1 (8 * (lo - pa)) (8 * (hi - lo)) (fld g.data (8 * (lo - 16 * g.num)) (8 * (hi - lo))), g.marks.contains (lo / 8 % 2))

/-- `n` bytes of far memory at a physical address, 8 at most, for a reader that has found earlier values: bytes, whether poisoned, STATUS. -/
def State.farPart (s : State) (found : List Granule) (pa n : Nat) : Nat × Bool × Nat :=
  if s.noMem pa then (0, false, 2)
  else
    let (v, bad) := found.foldl (overlay pa n) (s.farPeek pa n, s.farBad pa n)
    (v, bad, if bad then 1 else 0)

/-- An 8-byte word as an engine reads it: bytes, whether poisoned, STATUS. -/
def State.engWord (s : State) (vat : Nat) (found : List Granule) (at' : Option (Bool × Nat)) : Except EngStop (Nat × Bool × Nat) :=
  match at' with
  | none => .ok (0, false, 2)
  | some (false, a) =>
    if s.hasEmpty a 8 then .error .wait
    else
      let bad := (s.poisoned a 8).isSome
      .ok (s.peek a 8, bad, if bad then 1 else 0)
  | some (true, va) => do
    let k := min 8 (0x4000 - va % 0x4000)
    let pa ← s.engFar vat va k accRead
    if k == 8 then return s.farPart found pa 8
    else
      let pb ← s.engFar vat ((va + k) % 2 ^ 57) (8 - k) accRead
      let (x, b, st) := s.farPart found pa k
      let (y, b', st') := s.farPart found pb (8 - k)
      return (x + 2 ^ (8 * k) * y, b || b', max st st')

/-- `n` words from byte `i` after an address word: values with their poison, and STATUS. -/
def State.engWords (s : State) (vat : Nat) (found : List Granule) (w : Nat) (i : Int) : Nat → Except EngStop (List (Nat × Bool) × Nat)
  | 0 => .ok ([], 0)
  | n + 1 => do
    let (x, b, st) ← s.engWord vat found (engAt w i)
    let (r, st') ← s.engWords vat found w (i + 8) n
    return ((x, b) :: r, max st st')

/-- The keys of the tile-table entries whose range meets `n` bytes at a scratchpad address. -/
def State.entriesAt (s : State) (a n : Nat) : List Nat :=
  (s.tilesMeeting (a / 0x200000) (a % 0x200000) n).map (fun p => 64 * (a / 0x200000) + p.1)

/-- A command that holds entries `held` may read these bytes: every entry there is READY with room for a consumer, or
held. -/
def State.mayRead (s : State) (held : List Nat) (a n : Nat) : Bool :=
  (s.entriesAt a n).all (fun k =>
    held.contains k || ((s.tile (k / 64) (k % 64)).state == .ready && (s.tile (k / 64) (k % 64)).cons < 63))

/-- It becomes a consumer of the entries that it does not hold: the state and what it holds then. (DEDUCED, log 26) -/
def State.consumeAt (s : State) (held : List Nat) (a n : Nat) : State × List Nat :=
  (s.entriesAt a n).foldl (fun (s, h) k => if h.contains k then (s, h) else (s.consumeTile (k / 64) (k % 64), h ++ [k])) (s, held)

/-- Release entries. -/
def State.releaseAll (s : State) (held : List Nat) : State := held.foldl (fun s k => s.releaseTile (k / 64) (k % 64)) s

/-- A command that holds entries keeps those it will still read: its last read of the others' ranges is over (R257). -/
def State.releaseUnread (s : State) (held : List Nat) (still : Nat → Bool) : State × List Nat :=
  (s.releaseAll (held.filter (fun k => !still k)), held.filter still)

/-- Entry `k` meets `n` bytes from byte `i` after an address word. -/
def State.entryMeets (s : State) (k w : Nat) (i : Int) (n : Nat) : Bool :=
  match engAt w i with
  | some (false, a) => n != 0 && (s.entriesAt a n).contains k
  | _ => false

/-- What an engine read gives: the state with its consumers and translations noted, the entries held, the words with their poison, and
STATUS. -/
abbrev EngRead := State × List Nat × List (Nat × Bool) × Nat

/-- Read `n` words from byte `i` after an address word, all in one step, for a reader that has found earlier values of far granules. -/
def State.engRead (s : State) (vat : Nat) (found : List Granule) (held : List Nat) (w : Nat) (i : Int) (n : Nat) : Except EngStop EngRead :=
  match engAt w i with
  | some (false, a) =>
    if !s.mayRead held a (8 * n) || s.wayPaused vat (a / 0x200000) then .error .wait
    else do
      let (ws, st) ← s.engWords vat found w i n
      let (s, held) := s.consumeAt held a (8 * n)
      return (s, held, ws, st)
  | some (true, va) => do
    let (ws, st) ← (s.engWords vat found w i n).mapError (EngStop.start va)
    return (s.engTouchAll vat va (8 * n) accRead, held, ws, st)
  | none => do
    let (ws, st) ← s.engWords vat found w i n
    return (s, held, ws, st)

/-! ### Engine writes (R257) -/

/-- Mark the poisoned words of a list written at a scratchpad address. -/
def State.markWords (s : State) (a : Nat) : List (Nat × Bool) → State
  | [] => s
  | (_, b) :: r => (if b then s.mark a 8 else s).markWords (a + 8) r

/-- Write words at a scratchpad address, poisoned ones with their marks. -/
def State.putWords (s : State) (a : Nat) (ws : List (Nat × Bool)) : State :=
  (s.poke a (8 * ws.length) (packFields 64 (ws.map Prod.fst))).markWords a ws

/-- Credit `n` bytes landed at a scratchpad address to the FILLING entries there (R222). -/
def State.creditAt (s : State) (a n : Nat) : State :=
  (s.entriesAt a n).foldl (fun s k =>
    s.creditTile (k / 64) (k % 64) (overlapBytes (s.tile (k / 64) (k % 64)) (a % 0x200000) n)) s

/-- Set F on the lines of a range that lie in no FILLING entry. -/
def State.fillAt (s : State) (a n : Nat) : State :=
  (List.range ((a + n + 127) / 128 - a / 128)).foldl (fun s i =>
    let l := (a / 128 + i) * 128
    if (s.tilesMeeting (l / 0x200000) (l % 0x200000) 128).any (fun p => p.2.state == .filling) then s else s.fillLines l 128) s

/-- Arm entry `e` of a vat for a command whose `len` bytes at `lo` are being written first at `a` (R257): only an EMPTY entry
takes its PEND. -/
def State.armFor (s : State) (node slot e a n lo len : Nat) : State × Bool :=
  let t := s.tile node e
  if t.v && t.slot == slot && a / 0x200000 == node && overlapBytes t (a % 0x200000) n != 0 then
    (s.armTile node e (overlapBytes t (lo % 0x200000) len), true)
  else (s, false)

/-- A near write of a command waits for READY and DRAINING entries (R223). -/
def State.mayWrite (s : State) (a n : Nat) : Bool := !s.tileHeld (a / 0x200000) (a % 0x200000) n

/-- The same for a command of vat `node`, which also waits while a link on the way is paused (R358). -/
def State.mayReach (s : State) (node a n : Nat) : Bool := s.mayWrite a n && !s.wayPaused node (a / 0x200000)

/-- Mark far words with uncorrectable check codes: carried poison makes no entry of the fault-address queue. (DESIGN CHOICE, log 120) -/
def State.markFar (s : State) (pa : Nat) : List (Nat × Bool) → State
  | [] => s
  | (_, b) :: r => (if b then { s with farPoison := setAdd s.farPoison (pa / 8) } else s).markFar (pa + 8) r

/-- A far write of words at virtual address `va` by a writer: the state and STATUS. -/
def State.farPut (s : State) (by' : Writer) (vat va : Nat) (ws : List (Nat × Bool)) : Except EngStop (State × Nat) := do
  let pa ← s.engFar vat va (8 * ws.length) accWrite
  let s := s.engTouch vat va accWrite
  if s.noMem pa then return (s, 2)
  else return (((s.farPoke pa (8 * ws.length) (packFields 64 (ws.map Prod.fst))).markFar pa ws).farWrote by' pa (8 * ws.length), 0)

/-! ### Waits -/

/-- The requester word of a command slot, or of a stream unit at 8 + u (R257). -/
def State.engRequester (s : State) (node index kind : Nat) : Nat :=
  requesterWord (mget s.cmdSeqs (16 * node + index) 0) kind index 1 0 node

/-- What becomes of an access that cannot be made: the wait to record with its message sent and the use of a translation before it noted, or nothing to
change. -/
def State.engWaits (s : State) (node index : Nat) : EngStop → Option (State × CmdWait)
  | .wait => none
  | .miss va kind used => some ((s.engTouch node used kind).sendMiss node va (s.engRequester node index kind), .miss va)
  | .fault va kind c used => some ((s.engTouch node used kind).sendFault node va (s.engRequester node index kind) c, .fault va kind)

/-- The command of a slot has made a step: it finds no far value that was kept before. -/
def State.stampCmd (s : State) (node i : Nat) : State :=
  match s.cmd? node i with
  | some c => s.setCmd node i { c with readAt := s.turn + 1 }
  | none => s

/-- The result of an engine step of command `i`: its event stays due after a new wait; none when it must wait as it is. -/
def State.cmdResult (s : State) (node i : Nat) (ev : Event) (r : Except EngStop State) : Option State :=
  match r with
  | .ok s' => some (s'.stampCmd node i)
  | .error e =>
    match s.engWaits node i e, s.cmd? node i with
    | some (s', w), some c => some ((s'.setCmd node i { c with wait := w }).later ev)
    | _, _ => none

/-- A command whose slot is not stopped. -/
def State.cmdUnstopped (s : State) (node i : Nat) : Option Cmd :=
  match s.cmd? node i with
  | some c => if (s.slotOfLid node c.lid).any (fun p => p.2.stopped) then none else some c
  | none => none

/-- A command that can make its next access: it waits for no translation or reply. -/
def State.cmdLive (s : State) (node i : Nat) : Option Cmd :=
  match s.cmdUnstopped node i with
  | some c => if c.wait == .none then some c else none
  | none => none

/-- The next state of an engine event: `r` where it can act, else the event stays due. -/
def State.orLater (s : State) (ev : Event) (r : Option State) : State := r.getD (s.later ev)

/-- A command as a writer. -/
def Cmd.writer (c : Cmd) (node i : Nat) : Writer := .command c.lid node i c.order

/-! ### Completions (R255) -/

def kindCode : CmdKind → Nat
  | .xfer => 1 | .gath => 2 | .mcast => 3 | .glz => 4 | .fabric => 5

/-- A completion record (Table 15-3). -/
def completionWord (done tag kind status : Nat) : Word := BitVec.ofNat 64 (done * 2 ^ 32 + tag * 2 ^ 16 + kind * 2 ^ 8 + status)

/-- The release that REL of a control word makes (R236): of its scope, covering what the command has written. -/
def State.relDone (s : State) (node lid w : Nat) (mine : Writer → Bool) : State :=
  if ctlRel w then
    s.release (scopeReach (fld w 7 3) node (scopeGroup node ((s.slotOfLid node lid).map Prod.snd) (fld w 7 3) 0)) mine
  else s

/-- Post a completion for control word `ctl` of launch `lid` on a vat, after the release that REL makes of what `mine` accepts (R236). -/
def State.postCompletion (s : State) (node lid : Nat) (ctl : Word) (done kind status : Nat) (mine : Writer → Bool) : State :=
  let w := ctl.toNat
  let s := s.relDone node lid w mine
  let item : WaitItem := { words := [completionWord done (ctlTag w) kind status], acq := true }
  if ctlCk w == 2 then s.post (4 * node) (ctlCt w) item
  else
    let s := if ctlCk w == 1 then s.semUp node (ctlCt w) else s
    let rft := match s.slotOfLid node lid with
      | some (_, r) => fld r.rfcs 0 4
      | none => 0
    if status != 0 && rft != 0 then s.post (4 * node) rft item else s

/-- An event of the command in a slot. -/
def ofCmd (node i : Nat) : Event → Bool
  | .xferUnit n j => n == node && j == i
  | .gatherStage n j => n == node && j == i
  | .gatherElementIssue n j => n == node && j == i
  | .gatherElementLand n j _ => n == node && j == i
  | .mcastUnit n j _ => n == node && j == i
  | .glzPoint n j => n == node && j == i
  | .bufferFreeAcknowledgement n j => n == node && j == i
  | .engineCompletion n j => n == node && j == i
  | _ => false

/-- A command's slot is free, with no event of the command left (R256). -/
def State.freeCmdSlot (s : State) (node i : Nat) : State :=
  { s with cmds := mdel s.cmds (8 * node + i), agenda := s.agenda.filter (fun ev => !ofCmd node i ev) }

/-- The completions and the messages of gathers that wait for room in the channels of a core. -/
def State.recordsWaiting (s : State) (ck : Nat) : Nat :=
  ((List.range 16).map (fun c => ((s.waiting ck c).filter (fun it => it.oid.isNone && (it.acq || it.words.length != 1))).length)).foldl (· + ·) 0

/-- A completion is posted: while many records wait for room it is held back, so that an image has room for them (R309), but not in a stop. (DESIGN
CHOICE, log 65) -/
def State.completionFits (s : State) (node i : Nat) : Bool :=
  let lid := if i < 8 then (s.cmd? node i).map (·.lid) else (s.strmEnds.find? (fun t => t.1 == node && t.2.1 == i - 8)).map (fun t => t.2.2.lid)
  s.recordsWaiting (4 * node) < 48 || (lid.bind (s.slotOfLid node)).any (fun p => p.2.stopped)

/-- ENGINE_COMPLETION (R255, R256, R259): the record is posted and the slot freed; index 8 + u is a STRMX stream that went off. -/
def execEngineCompletion (node cmd : Nat) (s : State) : Host.Outcome State Fault Refusal :=
  .next (if 8 ≤ cmd then
      match s.strmEnds.find? (fun t => t.1 == node && t.2.1 == cmd - 8) with
      | some t =>
        let s := { s with strmEnds := s.strmEnds.erase t }
        s.postCompletion node t.2.2.lid (t.2.2.ctl.getD 0) t.2.2.popped 0 t.2.2.status (fun _ => false)
      | none => s
    else
      match s.cmd? node cmd with
      | some c =>
        let s := s.releaseAll c.tiles
        (s.freeCmdSlot node cmd).postCompletion node c.lid c.ctl c.done (kindCode c.kind) c.status (· == c.writer node cmd)
      | none => s)

/-! ### ENGQ (R268) -/

/-- The oldest of a list of commands with their slots. -/
def oldestCmd : List (Nat × Cmd) → Option (Nat × Cmd)
  | [] => none
  | p :: r => some (r.foldl (fun (b : Nat × Cmd) q => if q.2.order < b.2.order then q else b) p)

/-- The ENGQ result (Table 15-8) of a command in slot `i`; `st` is the STATE of one that waits for no message. -/
def engqWord (i : Nat) (c : Cmd) (st : Nat) : Nat :=
  let state := match c.wait with
    | .miss _ | .fault _ _ => 1
    | .line => 2
    | .none => st
  2 ^ 63 + kindCode c.kind * 2 ^ 60 + state * 2 ^ 58 + i * 2 ^ 55 + c.status * 2 ^ 48 + c.done % 2 ^ 48

end Sys2Proof.Machine
end

