-- ==== Sys2Proof/Machine/Copy.lean ====
section
/-!
DEFINITION. XFER and MCAST (15 R261, R266, R267) and their units, and the reading of a fabric send's source (21 R327).
-/
namespace Sys2Proof.Machine
open Sys2Proof

/-! ### XFER (R261) -/

/-- XFER (R261): `d` destination, `a` source, `b` control word. -/
def execXfer (d a b : Nat) (s : State) : Host.Outcome State Fault Refusal :=
  runInstr xENG 0x5B (do
    classes (fun s => [⟨0, d, wSource s d⟩, ⟨1, a, wSource s a⟩, ⟨2, b, wSource s b⟩])
    let src ← srcW a
    let ctl ← srcW b
    let dst ← srcW d
    let st ← getS
    let n := ctlLen ctl.toNat
    checkAll [⟨2, b, st.ctlOk ctl.toNat 16 0xFFFFF0 true⟩, ⟨0, d, nearRangeOk dst.toNat n⟩, ⟨1, a, nearRangeOk src.toNat n⟩]
    if !addrOk dst.toNat then addressTrap dst.toNat
    if !addrOk src.toNat then addressTrap src.toNat
    if dst.toNat % 16 != 0 then alignmentTrap dst.toNat
    if src.toNat % 16 != 0 then alignmentTrap src.toNat
    if n % 16 != 0 then alignmentTrap n
    applyAcq ctl.toNat
    startCmd { kind := .xfer, lid := 0, ent := 0, ctl := ctl, src := src, dst := dst, limit := n } (fun node i => [.xferUnit node i])
    advance 4) s

/-- Destination and source are near ranges of one vat with the destination less than 64 bytes above the source: units are copied one at a
time. -/
def closeOverlap (src dst : Nat) : Bool :=
  !addrFar src && !addrFar dst && fld src 21 11 == fld dst 21 11 && src < dst && dst < src + 64

/-- Bytes of the destination written together at place `pos`: an aligned near 64-byte unit that the range covers, else 16. -/
def writeUnit (c : Cmd) : Nat :=
  if !addrFar c.dst.toNat && (c.dst.toNat + c.pos) % 64 == 0 && c.pos + 64 ≤ c.limit && !closeOverlap c.src.toNat c.dst.toNat
  then 64 else 16

/-- Bytes of the source read together at place `p`. -/
def readUnit (c : Cmd) (p : Nat) : Nat :=
  if !addrFar c.src.toNat && (c.src.toNat + p) % 64 == 0 && p + 64 ≤ c.limit && !closeOverlap c.src.toNat c.dst.toNat
  then 64 else 16

/-- Words as 16-byte units from place `p`, in the form of `flight`: place, and bytes with the two poison marks above them. -/
def toUnits (p : Nat) : List (Nat × Bool) → List (Nat × Nat)
  | (x, b) :: (y, b') :: r => (p, x + 2 ^ 64 * y + 2 ^ 128 * b.toNat + 2 ^ 129 * b'.toNat) :: toUnits (p + 16) r
  | _ => []

/-- Units as words with their poison. -/
def ofUnits (us : List (Nat × Nat)) : List (Nat × Bool) :=
  us.flatMap (fun u => [(fld u.2 0 64, bitAt u.2 128), (fld u.2 64 64, bitAt u.2 129)])

/-- Read the source up to place `p`, in its units: state, command. What cannot be read leaves what has been read so far in this step. -/
def State.readTo (s : State) (node p had : Nat) : Nat → Cmd → Except EngStop (State × Cmd)
  | 0, c => .ok (s, c)
  | fuel + 1, c =>
    let q := c.pos + 16 * c.flight.length
    if p ≤ q then .ok (s, c)
    else
      match s.engRead node c.found c.tiles c.src.toNat q (readUnit c q / 8) with
      | .ok (s, held, ws, st) =>
        s.readTo node p had fuel { c with tiles := held, flight := c.flight ++ toUnits q ws, status := max c.status st }
      | .error e => if had < c.flight.length then .ok (s, c) else .error e

/-- Release the entries that hold no more of the source from place `q` to its end `hi`. -/
def State.releaseRead (s : State) (c : Cmd) (q hi : Nat) : State × Cmd :=
  let (s, held) := s.releaseUnread c.tiles (fun k => s.entryMeets k c.src.toNat q (hi - q))
  (s, { c with tiles := held })

/-- `n` bytes of a command are written at place `pos` of its destination range at scratchpad address `base` (R257), of `len` bytes as issued
and `hi` as it stands: arm, credit, and set F on the lines whose last byte this writes. -/
def State.landed (s : State) (c : Cmd) (node slot base pos len hi n : Nat) : State × Cmd :=
  let a := base + pos
  let w := c.ctl.toNat
  let (s, hit) := if ctlArmv w && !c.armed.contains node then s.armFor node slot (ctlArme w) a n base len else (s, false)
  let s := s.creditAt a n
  -- lines that end within these bytes, and the last line at the end of the range
  let fin := if pos + n == hi then a + n else (a + n) / 128 * 128
  let s := if a / 128 * 128 < fin then s.fillAt (a / 128 * 128) (fin - a / 128 * 128) else s
  (s, if hit then { c with armed := c.armed ++ [node] } else c)

/-- Write words of a command at place `pos` of its destination range, as they land (R257). -/
def State.landNear (s : State) (c : Cmd) (node slot base pos len hi : Nat) (ws : List (Nat × Bool)) : State × Cmd :=
  (s.putWords (base + pos) ws).landed c node slot base pos len hi (8 * ws.length)

/-- A command that ends short at place `pos` has written the last byte it writes to the line there (R257). -/
def State.fillShort (s : State) (base pos : Nat) : State :=
  if (base + pos) % 128 == 0 || pos == 0 then s else s.fillAt ((base + pos) / 128 * 128) 128

/-- A command has written the granule at `va`, with `st`: it reads no earlier value of it from then on. -/
def Cmd.wrote (c : Cmd) (s : State) (node va st : Nat) : Cmd :=
  let c := { c with status := max c.status st }
  match s.engLookup node va accWrite with
  | .ok pa => { c with found := c.found.filter (fun g => g.num != pa / 16) }
  | .error _ => c

/-- The next access of a copy: the source as far as the next unit reaches, or the write of the unit, whole, once it is read (R256, R261). (DESIGN CHOICE,
log 25) -/
def State.xferStep (s : State) (node i : Nat) : Option State :=
  match s.cmdLive node i with
  | none => if (s.cmd? node i).isNone then some s else none
  | some c =>
    if c.closing || c.limit ≤ c.pos then some s else
    s.cmdResult node i (.xferUnit node i) (do
      if 16 * c.flight.length < writeUnit c then
        let (s, c) ← s.readTo node (c.pos + writeUnit c) c.flight.length 8 c
        return (s.setCmd node i c).later (.xferUnit node i)
      let us := c.flight.take (writeUnit c / 16)
      let ws := ofUnits us
      let n := 16 * us.length
      let (s, c) ← match engAt c.dst.toNat c.pos with
        | some (false, a) =>
          if !s.mayReach node a n then .error .wait
          else
            let slot := ((s.slotOfLid node c.lid).map Prod.fst).getD 0
            .ok (s.landNear c node slot (a - c.pos) c.pos (ctlLen c.ctl.toNat) c.limit ws)
        | some (true, va) => do
          let (s, st) ← s.farPut (c.writer node i) node va ws
          pure (s, c.wrote s node va st)
        | none => .ok (s, { c with status := max c.status 2 })
      let c := { c with pos := c.pos + n, done := c.pos + n, flight := c.flight.drop us.length }
      let (s, c) := s.releaseRead c (c.pos + 16 * c.flight.length) c.limit
      let s := s.setCmd node i c
      return s.later (if c.pos < c.limit then .xferUnit node i else .engineCompletion node i))

/-! ### Fabric sends at their source (21 R327, R329) -/

/-- The device can be reached (R325, R328): itself before any PEERS, else a device whose fabric address has a domain. (DEDUCED, log 34; DESIGN CHOICE, log 83) -/
def State.reachable (s : State) (dev : Nat) : Bool :=
  match mget? s.fabric.peers dev with
  | some a => s.fabric.domains.any (fun p => p.1 == a)
  | none => dev == s.fabric.own

/-- An older fabric send of the vat to the same device has not left (R329). -/
def State.olderSend (s : State) (node i : Nat) (c : Cmd) : Bool :=
  s.cmds.any (fun p => p.1 / 8 == node && p.1 % 8 != i && p.2.kind == .fabric && !p.2.closing &&
    p.2.args.getD 1 0 == c.args.getD 1 0 && p.2.order < c.order)

/-- The message of a fabric send whose source is read whole. -/
def sendMessage (s : State) (node i : Nat) (c : Cmd) : FabricMsg :=
  let ws := ofUnits c.flight
  ⟨s.fabric.addr, node, i, c.args.getD 0 0, c.limit,
    packFields 64 (ws.map Prod.fst) + 2 ^ (8 * c.limit) * packFields 1 (ws.map (fun p => p.2.toNat)), none⟩

/-- A fabric send has read its source: the message leaves for its device, or its delivery fails. -/
def State.leaveFabric (s : State) (node i : Nat) (c : Cmd) : State :=
  let dev := c.args.getD 1 0
  let m := sendMessage s node i c
  let s := s.setCmd node i { c with closing := true }
  if !s.reachable dev then s.later (.fabricDeliveryFailure node i)
  else if dev == s.fabric.own then s.later (.fabricArrival m)
  else s

/-- The next unit of a fabric send is read, as XFER reads its source (R327); after the last one the message leaves. A stop does not hold it (R329). -/
def State.fabricStep (s : State) (node i : Nat) : Option State :=
  match s.cmd? node i with
  | none => some s
  | some c =>
    if c.closing then some s
    else if c.wait != .none then none
    else if c.limit ≤ c.pos then (if s.olderSend node i c then none else some (s.leaveFabric node i c))
    else
      s.cmdResult node i (.xferUnit node i) (do
        let (s, held, ws, st) ← s.engRead node c.found c.tiles c.src.toNat c.pos (readUnit c c.pos / 8)
        let n := readUnit c c.pos
        let c := { c with tiles := held, flight := c.flight ++ toUnits c.pos ws, pos := c.pos + n, status := max c.status st }
        let (s, c) := s.releaseRead c c.pos c.limit
        return (s.setCmd node i c).later (.xferUnit node i))

/-- A fail reply ends a fabric send before it leaves. (DEDUCED, log 35) -/
def State.failFabric (s : State) (node i : Nat) (c : Cmd) : State :=
  (s.setCmd node i { c with closing := true, done := c.pos, status := max c.status 3, wait := .none }).later (.engineCompletion node i)

/-- The next unit of a copy or of a fabric send. -/
def State.unitStep (s : State) (node i : Nat) : Option State :=
  match s.cmd? node i with
  | some c => if c.kind == .fabric then s.fabricStep node i else s.xferStep node i
  | none => some s

/-- Command `i` of a vat, or stream unit `i` − 8, finds an earlier value of a far granule (R231, R236): one kept since its last step, and that no release
before the acquire its reads follow serves it past. (DESIGN CHOICE, log 97) -/
def State.feedCopy (s : State) (node i n : Nat) : State :=
  match s.stale[n]? with
  | none => s
  | some g =>
    if i < 8 then
      match s.cmd? node i with
      | some c =>
        if c.readAt ≤ g.kept && g.open node c.relAt then s.setCmd node i { c with found := c.found.filter (fun x => x.num != g.num) ++ [g.granule 0] } else s
      | none => s
    else
      match s.strm? node (i - 8) with
      | some u =>
        if u.readAt ≤ g.kept && g.open node u.relAt then
          s.setStrm node (i - 8) { u with found := u.found.filter (fun x => x.num != g.num) ++ [g.granule 0] }
        else s
      | none => s

/-- XFER_UNIT (R261; R327 for the source of a fabric send). -/
def execXferUnit (node cmd : Nat) (s : State) : Host.Outcome State Fault Refusal :=
  .next (s.orLater (.xferUnit node cmd) (s.unitStep node cmd))

/-! ### MCAST (R266, R267) -/

/-- A multicast word names an aligned rectangle within the launch's rectangle and a range within the offsets (R266). -/
def mcastOk (w len : Nat) (r : Slot) : Bool :=
  let ox := fld w 21 6
  let oy := fld w 27 5
  let W := 2 ^ fld w 32 3
  let H := 2 ^ fld w 35 3
  fld w 38 26 == 0 && ox % W == 0 && oy % H == 0 && r.ox ≤ ox && ox + W ≤ r.ox + shapeW r.shape &&
  r.oy ≤ oy && oy + H ≤ r.oy + shapeH r.shape && fld w 0 21 % 64 == 0 && 0x2000 ≤ fld w 0 21 && fld w 0 21 + len ≤ 0x200000

/-- The receivers of a multicast word, as nodes. (DEDUCED, log 32) -/
def mcastNodes (w : Nat) : List Nat :=
  let W := 2 ^ fld w 32 3
  (List.range (W * 2 ^ fld w 35 3)).map (fun i => vatAt (fld w 21 6 + i % W) (fld w 27 5 + i / W))

/-- MCAST (R266): `d` source, `a` multicast word, `b` control word. -/
def execMcast (d a b : Nat) (s : State) : Host.Outcome State Fault Refusal :=
  runInstr xENG 0x5B (do
    classes (fun s => [⟨0, d, wSource s d⟩, ⟨1, a, wSource s a⟩, ⟨2, b, wSource s b⟩])
    let m ← srcW a
    let ctl ← srcW b
    let src ← srcW d
    let st ← getS
    let n := ctlLen ctl.toNat
    match st.curSlot? with
    | none => illegalOperand a 1
    | some r =>
      checkAll [⟨2, b, st.ctlOk ctl.toNat 64 0xFFFFC0 true && n % 64 == 0⟩, ⟨1, a, mcastOk m.toNat n r⟩,
        ⟨0, d, nearRangeOk src.toNat n⟩]
      addrCheck src.toNat 16
      applyAcq ctl.toNat
      let ns := mcastNodes m.toNat
      startCmd { kind := .mcast, lid := 0, ent := 0, ctl := ctl, src := src, dst := m, limit := n / 64, recv := ns.map (fun x => (x, 0)) }
        (fun node i => ns.map (fun x => .mcastUnit node i x))
      advance 4) s

/-- The least number of units that a receiver has written. -/
def leastUnits (recv : List (Nat × Nat)) : Nat := (recv.map Prod.snd).foldl min (recv.head?.map Prod.snd |>.getD 0)

/-- The next unit of receiver `x` of a multicast: read from the source if no receiver has needed it before, and written. -/
def State.mcastStep (s : State) (node i x : Nat) : Option State :=
  match s.cmdLive node i with
  | none => if (s.cmd? node i).isNone then some s else none
  | some c =>
    match c.recv.find? (fun p => p.1 == x) with
    | none => some s
    | some (_, u) =>
      if c.limit ≤ u then some s
      else if leastUnits c.recv + 4 ≤ u then none
      else
        s.cmdResult node i (.mcastUnit node i x) (do
          let (s, c) ← if u == c.pos then do
              let (s, held, ws, st) ← s.engRead node c.found c.tiles c.src.toNat (64 * u : Nat) 8
              let marks := packFields 1 (ws.map (fun p => p.2.toNat))
              pure (s, { c with tiles := held, pos := u + 1, status := max c.status st,
                                flight := c.flight ++ [(u, packFields 64 (ws.map Prod.fst) + 2 ^ 512 * marks)] })
            else pure (s, c)
          let v := ((c.flight.find? (fun p => p.1 == u)).map Prod.snd).getD 0
          let ws := (List.range 8).map (fun j => (fld v (64 * j) 64, bitAt v (512 + j)))
          let base := spAddr x (fld c.dst.toNat 0 21)
          if !s.mayWrite (base + 64 * u) 64 then .error .wait
          else
            let (s, c) := match s.slotOfLid x c.lid with
              | some (sl, _) => s.landNear c x sl base (64 * u) (ctlLen c.ctl.toNat) (64 * c.limit) ws
              | none => (s, c)
            let recv := c.recv.map (fun p => if p.1 == x then (x, u + 1) else p)
            let low := leastUnits recv
            let c := { c with recv := recv, flight := c.flight.filter (fun p => low ≤ p.1), done := 64 * low }
            let (s, c) := s.releaseRead c (64 * c.pos) (64 * c.limit)
            let s := s.setCmd node i c
            return s.later (if low == c.limit then .bufferFreeAcknowledgement node i else .mcastUnit node i x))

/-- MCAST_UNIT (R267). -/
def execMcastUnit (node cmd recv : Nat) (s : State) : Host.Outcome State Fault Refusal :=
  .next (s.orLater (.mcastUnit node cmd recv) (s.mcastStep node cmd recv))

/-- BUFFER_FREE_ACKNOWLEDGEMENT (R267): the combined acknowledgement lets the issuing vat post the completion. -/
def execBufferFreeAcknowledgement (node cmd : Nat) (s : State) : Host.Outcome State Fault Refusal :=
  .next (if (s.cmd? node cmd).isSome then s.later (.engineCompletion node cmd) else s)

/-- A fail reply ends a copy at the unit it has not read or written (R257): the units read before it are still written, unless the write has failed. -/
def State.failCopy (s : State) (node i : Nat) (c : Cmd) : State :=
  let kept : List (Nat × Nat) := match c.wait with
    | .fault _ k => if k == accWrite then [] else c.flight
    | _ => c.flight
  let s := s.releaseAll c.tiles
  let c := { c with limit := c.pos + 16 * kept.length, status := max c.status 3, wait := .none, flight := kept, tiles := [] }
  if !kept.isEmpty then s.setCmd node i c
  else
    let s := match engAt c.dst.toNat 0 with
      | some (false, a) => s.fillShort a c.pos
      | _ => s
    (s.setCmd node i { c with closing := true }).later (.engineCompletion node i)

/-- The same for a multicast: units already read still go to every receiver. -/
def State.failMcast (s : State) (node i : Nat) (c : Cmd) : State :=
  let s := s.releaseAll c.tiles
  let c := { c with limit := c.pos, status := max c.status 3, wait := .none, tiles := [] }
  let s := (c.recv.filter (fun p => p.2 == c.limit)).foldl (fun s p =>
    s.fillShort (spAddr p.1 (fld c.dst.toNat 0 21)) (64 * p.2)) s
  let s := s.setCmd node i c
  if leastUnits c.recv == c.limit then s.later (.bufferFreeAcknowledgement node i) else s

end Sys2Proof.Machine
end

