-- ==== Sys2Proof/Machine/Launch.lean ====
section
/-!
DEFINITION. Launches (09 R167 to R172, R363): LAUNCH, the reserve, commit and reject steps, and the end of a rectangle.
-/
namespace Sys2Proof.Machine
open Sys2Proof

/-! ### Launch requests (R167, R168) -/

/-- The number of handler records. -/
def reqNh (ws : List Nat) : Nat := fld (ws.getD 0 0) 25 6

/-- The handler records, as pairs of words. -/
def recordPairs : List Nat → List (Nat × Nat)
  | a :: b :: r => (a, b) :: recordPairs r
  | _ => []

/-- The handler records of a request. -/
def reqRecords (ws : List Nat) : List (Nat × Nat) := recordPairs ((ws.drop 5).take (2 * reqNh ws))

def recCore (r : Nat × Nat) : Nat := fld r.1 52 2
def recWs (r : Nat × Nat) : Nat := fld r.1 54 10

/-- The records of one core, in order. -/
def recordsOf (ws : List Nat) (core : Nat) : List (Nat × Nat) := (reqRecords ws).filter (fun r => recCore r == core)

/-- No two numbers are equal. -/
def distinct : List Nat → Bool
  | [] => true
  | x :: xs => !xs.contains x && distinct xs

/-- No two masks share a bit. -/
def disjointMasks : List Nat → Bool
  | [] => true
  | x :: xs => xs.all (fun y => Nat.land x y == 0) && disjointMasks xs

/-- The checks of a request (R168). -/
def requestOk (ws : List Nat) : Bool :=
  let w (i : Nat) : Nat := ws.getD i 0
  let rs := reqRecords ws
  let base := fld (w 1) 0 10
  let len := fld (w 1) 10 10
  let chans (core : Nat) : Nat := fld (w 2) (16 * core) 16
  fld (w 0) 31 33 == 0 && fld (w 0) 11 5 == 0 && fld (w 1) 38 26 == 0 && fld (w 2) 48 16 == 0 && fld (w 3) 32 32 == 0 &&
  fld (w 3) 12 4 == 0 && fld (w 4) 21 43 == 0 &&
  rs.all (fun r => fld r.1 21 21 == 0 && fld r.1 0 1 == 0 && fld r.2 16 48 == 0) &&
  reqNh ws != 0 && shapeOk (w 0) (fld (w 0) 0 6) (fld (w 0) 6 5) &&
  4 ≤ base && len != 0 && base + len ≤ 1024 && fld (w 1) 20 8 ≤ 128 && fld (w 1) 28 10 ≤ 512 &&
  (List.range 3).all (fun c => !bitAt (chans c) 0 &&
    (fld (w 3) (4 * c) 4 == 0 || bitAt (chans c) (fld (w 3) (4 * c) 4)) &&
    (recordsOf ws c).length ≤ 32 &&
    disjointMasks ((recordsOf ws c).map (fun r => fld r.2 0 16))) &&
  rs.all (fun r => recCore r != 3 && fld r.1 42 5 ≤ 16 && base ≤ recWs r && recWs r < base + len &&
    Nat.land (fld r.2 0 16) (65535 - chans (recCore r)) == 0) &&
  distinct (rs.map recWs)

/-- The words of `n` bytes, as a list of `k` 64-bit words. -/
def wordsOf (v : Nat) (k : Nat) : List Nat := (List.range k).map (fun i => fld v (64 * i) 64)

/-- ENDTO of the executing handler for channel `c`. -/
def State.myEndto (s : State) (c : Nat) : Nat :=
  if isService s.node then endtoService s.cur.ck c
  else endtoWord s.curLid ((s.curSlot?.map (·.lvn)).getD 0) s.coreNo c

/-- The slot of the executing handler as a launcher (R312, R313): its launch id and logical number; none on a service core. -/
def State.authority (s : State) : Option (Nat × Nat) :=
  if isService s.node then none else some (s.curLid, (s.curSlot?.map (·.lvn)).getD 0)

/-- A launch that passed its checks sends a reserve to every vat of its rectangle (R168). -/
def State.startLaunch (s : State) (l : Launch) : State :=
  let shape := l.req.getD 0 0
  { s with
    launches := s.launches ++ [l]
    agenda := s.agenda ++ (rectNodes shape (fld shape 0 6) (fld shape 6 5)).map (fun n => .launchReserve n l.lid) }

/-- LAUNCH (R168). It takes no outstanding slot; INFO of a request past the end names its start; a service core's id is its home vat's. (DEDUCED, log
100) -/
def execLaunch (d a : Nat) (s : State) : Host.Outcome State Fault Refusal :=
  runInstr xBASE 0x47 (do
    classes (fun s => [⟨0, d, chanField s d⟩, ⟨1, a, wSource s a⟩])
    let ea := (← srcW a).toNat
    if ea % 8 != 0 || ea < 0x2000 || 0x200000 < ea + 40 then alignmentTrap ea
    else
      let node := (← getS).node
      let head := wordsOf (← readSp (spAddr node ea) 40) 5
      let n := 40 + 16 * reqNh head
      let koff := fld (head.getD 4 0) 0 21
      if 0x200000 < ea + n then alignmentTrap ea
      else if koff != 0 && (koff % 8 != 0 || koff < 0x2000 || 0x200000 < koff + 1920) then alignmentTrap koff
      else
        let req := wordsOf (← readSp (spAddr node ea) n) (n / 8)
        let block ← if koff == 0 then pure 0 else readSp (spAddr node koff) 1920
        let ks := wordsOf block 240
        checkAll [⟨1, a, requestOk req⟩]
        modS (fun s =>
          let home := homeVat node
          let (lid, next) := s.pickLid (home * 2 ^ 20) 0xFFFFF s.lidFuel (s.vat home).ctr
          (s.modVat home (fun v => { v with ctr := next })).startLaunch
            ⟨lid, some s.cur.ck, req, ks, s.myEndto (d - 40), s.authority, 0, [], []⟩)
        advance 4) s

/-! ### Reserve (R169) -/

/-- The requests (words and bank run) that hold resources of a vat: resident slots and reservations. -/
def State.holders (s : State) (node : Nat) : List (List Nat × Nat) :=
  (s.slots.filter (fun p => p.1 / 4 == node)).map (fun p => ([p.2.shape, p.2.space, p.2.chans, p.2.rfcs], p.2.bank0)) ++
  (s.vat node).resv.map (fun r => (r.req, r.bank0))

/-- The lowest run of `n` consecutive banks that none of the holders has. -/
def freeBanks (hs : List (List Nat × Nat)) (n : Nat) : Option Nat :=
  if n == 0 then some 0
  else (List.range (129 - n)).find? (fun b => hs.all (fun h =>
    let k := fld (h.1.getD 1 0) 20 8
    k == 0 || h.2 + k ≤ b || b + n ≤ h.2))

/-- Free handler entries of a core, less those reserved. -/
def State.freeEntries (s : State) (ck : Nat) : Nat :=
  32 - ((s.entriesOf ck).filter (fun p => p.2.v)).length -
    ((s.vat (nodeOf ck)).resv.map (fun r => (recordsOf r.req (coreOf ck)).length)).foldl (· + ·) 0

/-- The reserve checks in order (Table 9-10): the first that fails, with its core; code 0 passes. -/
def State.reserveCode (s : State) (node : Nat) (req : List Nat) : Nat × Nat :=
  let hs := s.holders node
  let sp := req.getD 1 0
  let ch := req.getD 2 0
  let rf := req.getD 3 0
  let lo := fld sp 0 10
  let n := fld sp 10 10
  let total (f : Nat → Nat) : Nat := (hs.map (fun h => f (h.1.getD 1 0))).foldl (· + ·) 0
  if 4 ≤ hs.length then (1, 0)
  else if hs.any (fun h => lo < fld (h.1.getD 1 0) 0 10 + fld (h.1.getD 1 0) 10 10 && fld (h.1.getD 1 0) 0 10 < lo + n) then (2, 0)
  else
    match (List.range 3).find? (fun c => s.freeEntries (4 * node + c) < (recordsOf req c).length) with
    | some c => (3, c)
    | none =>
      match (List.range 3).find? (fun c => hs.any (fun h => Nat.land (fld (h.1.getD 2 0) (16 * c) 16) (fld ch (16 * c) 16) != 0)) with
      | some c => (4, c)
      | none =>
        if (freeBanks hs (fld sp 20 8)).isNone then (5, 0)
        else if 512 < total (fun x => fld x 28 10) + fld sp 28 10 then (6, 0)
        else if hs.any (fun h => Nat.land (fld (h.1.getD 3 0) 16 16) (fld rf 16 16) != 0) then (9, 0)
        else (0, 0)

/-- The logical number of a vat in a rectangle. -/
def lvnOf (shape ox oy node : Nat) : Nat := (vatY node - oy) * shapeW shape + (vatX node - ox)

/-- Drop a vat's reservation for a launch or resume. -/
def State.dropResv (s : State) (node lid : Nat) : State :=
  s.modVat node (fun v => { v with resv := v.resv.filter (fun r => r.lid != lid) })

/-- Record an answer of a launch. -/
def State.answerLaunch (s : State) (l : Launch) (a : Nat × Nat × Nat) : State :=
  let l' := { l with answers := l.answers ++ [a] }
  let s := { s with launches := s.launches.map (fun x => if x.lid == l.lid then l' else x) }
  let shape := l.req.getD 0 0
  if l'.answers.length == shapeSize shape then
    if l'.answers.any (fun x => x.2.1 != 0) then s.later (.launchReject l.lid)
    else { s with agenda := s.agenda ++ (rectNodes shape (fld shape 0 6) (fld shape 6 5)).map (fun n => .launchCommit n l.lid) }
  else s

/-- LAUNCH_RESERVE (R169): the vat tests the request, holds its resources if it passes, and answers. -/
def execLaunchReserve (node lid : Nat) (s : State) : Host.Outcome State Fault Refusal :=
  .next (match s.launches.find? (fun l => l.lid == lid) with
    | none => s
    | some l =>
      let shape := l.req.getD 0 0
      let (code, core) := s.reserveCode node l.req
      let bank := (freeBanks (s.holders node) (fld (l.req.getD 1 0) 20 8)).getD 0
      let s := if code == 0 then s.modVat node (fun v => { v with resv := v.resv ++ [⟨lid, l.req, bank⟩] }) else s
      s.answerLaunch l (lvnOf shape (fld shape 0 6) (fld shape 6 5) node, code, core))

/-! ### Commit and reject (R170) -/

/-- The identity words K0 to K15 (Table 2-3); K7 is stored as zero. -/
def identityWords (node lvn shape ox oy lid : Nat) : List Nat :=
  [vatX node, vatY node, lvn, shapeW shape, shapeH shape, oy * 64 + ox, lid, 0] ++ List.replicate 8 0

/-- A `.mirror` list that R348 admits: at most four words, each legal (R94) and no two alike; any other is no list. -/
def mirrorList (ws : List Nat) : List Nat :=
  if ws.length ≤ 4 && ws.all (fun w => w < 256 && !(172 ≤ w && w ≤ 175)) && distinct ws then ws else []

/-- The `.mirror` list of the handler whose entry point on core `ck` is at offset `entry`. -/
def State.mirrorsOf (s : State) (ck entry : Nat) : List Nat := mirrorList (mget s.mirrorLists (spAddr (nodeOf ck) entry) [])

/-- The entries of a core with the lowest free numbers filled from records, logical numbers from `lhn` up. (DESIGN CHOICE, log 87) -/
def fillEntries (ck slot : Nat) : Nat → List (Nat × Nat) → State → State
  | _, [], s => s
  | lhn, r :: rs, s =>
    let free := (List.range 32).find? (fun e => !(s.entry (32 * ck + e)).v)
    let s := match free with
      | some e => s.modEntry (32 * ck + e) (fun x =>
          { v := true, ws := recWs r * 2048, slot := slot, prio := fld r.1 49 3, msk := bitAt r.1 48, lnch := bitAt r.1 47,
            vregs := fld r.1 42 5, lhn := lhn, entry := fld r.1 1 20 * 2, chans := fld r.2 0 16, seq := x.seq, phase := x.phase,
            mirrors := s.mirrorsOf ck (fld r.1 1 20 * 2) })
      | none => s
    fillEntries ck slot (lhn + 1) rs s

/-- Set the counts of the semaphores of a mask to zero. -/
def State.clearSems (s : State) (node mask : Nat) : State :=
  (List.range 16).foldl (fun s i => if bitAt mask i then s.setSem node i 0 else s) s

/-- The lowest free rectangle slot of a vat. -/
def State.freeSlot (s : State) (node : Nat) : Nat := ((List.range 4).find? (fun i => (s.slot? node i).isNone)).getD 0

/-- A vat commits a launch (R170). The launch also writes the workspace fields with a reset value: Z handles, tag words, saved IP and ST (R3,
02 Table 2-1). -/
def State.commitVat (s : State) (node : Nat) (l : Launch) : State :=
  let w (i : Nat) : Nat := l.req.getD i 0
  let shape := w 0
  let ox := fld shape 0 6
  let oy := fld shape 6 5
  let lvn := lvnOf shape ox oy node
  let s := s.dropResv node l.lid
  let sl := s.freeSlot node
  let bank := (freeBanks (s.holders node) (fld (w 1) 20 8)).getD 0
  let slot : Slot := { lid := l.lid, lvn := lvn, ox := ox, oy := oy, shape := shape, space := w 1, chans := w 2, rfcs := w 3,
                       bank0 := bank, hwm := fld (w 1) 28 10 }
  let s := { s with slots := mset s.slots (4 * node + sl) slot }
  let s := s.poke (spAddr node (0x800 * sl)) 2048 (packFields 64 (identityWords node lvn shape ox oy l.lid ++ l.consts))
  let s := (List.range 3).foldl (fun s c =>
    (fillEntries (4 * node + c) sl 0 (recordsOf l.req c) s).modCore (4 * node + c) (fun k => { k with eh := mset k.eh sl 0 })) s
  let s := (reqRecords l.req).foldl (fun s r => s.poke (spAddr node (recWs r * 2048 + 0x540)) 64 0) s
  s.clearSems node (fld (w 3) 16 16)

/-- The commit of a launch on a vat waits for a READY or DRAINING tile that holds the registers it writes (R223); a host launch starts after the LOAD
frames accepted before it (R335, R363). -/
def State.commitWaits (s : State) (node : Nat) (l : Launch) : Bool :=
  (reqRecords l.req).any (fun r => s.tileHeld node (recWs r * 2048 + 0x540) 64)

/-- LAUNCH_COMMIT (R170): the vat commits, once nothing holds it; after the last vat the launcher gets START. -/
def execLaunchCommit (node lid : Nat) (s : State) : Host.Outcome State Fault Refusal :=
  .next (match s.launches.find? (fun l => l.lid == lid) with
    | none => s
    | some l =>
      if s.commitWaits node l then s.later (.launchCommit node lid) else
      let shape := l.req.getD 0 0
      let s := s.commitVat node l
      let l' := { l with commits := l.commits ++ [node] }
      if l'.commits.length == shapeSize shape then
        let rect : Rect := ⟨lid, shape, fld shape 0 6, fld shape 6 5, l.endto, l.auth, l.hostSeq⟩
        let s := { s with launches := s.launches.filter (fun x => x.lid != lid), rects := s.rects ++ [rect] }
        (s.deliver l.endto (verdictWord 0 0 0 lid)).later (.rectangleEnd lid)
      else { s with launches := s.launches.map (fun x => if x.lid == lid then l' else x) })

/-- The refusing answer with the lowest logical number. -/
def lowestRefusal (as : List (Nat × Nat × Nat)) : Nat × Nat × Nat :=
  ((as.filter (fun a => a.2.1 != 0)).foldl (fun (best : Option (Nat × Nat × Nat)) a =>
    match best with
    | none => some a
    | some b => some (if a.1 < b.1 then a else b)) none).getD (0, 0, 0)

/-- LAUNCH_REJECT (R170): every vat drops its reservation and the launcher gets one rejection word. -/
def execLaunchReject (lid : Nat) (s : State) : Host.Outcome State Fault Refusal :=
  .next (match s.launches.find? (fun l => l.lid == lid) with
    | none => s
    | some l =>
      let shape := l.req.getD 0 0
      let s := (rectNodes shape (fld shape 0 6) (fld shape 6 5)).foldl (fun s n => s.dropResv n lid) s
      let a := lowestRefusal l.answers
      let s := { s with launches := s.launches.filter (fun x => x.lid != lid) }.deliver l.endto (verdictWord a.2.1 a.2.2 a.1 lid)
      if l.endto == 0 then s.completeFrame l.hostSeq else s)

/-! ### The end of a rectangle (R172) -/

/-- The slot of a vat is quiet (R172). -/
def State.quietSlot (s : State) (node sl : Nat) (r : Slot) : Bool :=
  (List.range 3).all (fun c =>
    let ck := 4 * node + c
    (s.entriesOf ck).all (fun p => !(p.2.v && p.2.slot == sl) || s.entryState ck p.2 == .idle) &&
    (List.range 16).all (fun ch => !bitAt (reservedChans r c) ch || ((s.box ck ch).isEmpty && (s.waiting ck ch).isEmpty)) &&
    (s.core ck).outs.all (fun o => o.lid != r.lid)) &&
  (List.range 8).all (fun q => (s.queue node q).all (fun e => e.slot != sl)) &&
  r.inbox.isNone && r.reserved.isNone &&
  s.mqs.all (fun p => !(p.1 / 512 == node && p.2.slot == sl)) &&
  s.cmds.all (fun p => !(p.1 / 8 == node && p.2.lid == r.lid)) &&
  s.streams.all (fun p => !(p.1 / 4 == node && p.2.lid == r.lid)) &&
  s.strmEnds.all (fun t => !(t.1 == node && t.2.2.lid == r.lid)) &&
  s.matching.all (fun p => !(p.2.state == 2 && p.2.node == node && p.2.slot == sl)) &&
  !s.awaits r.lid r.lvn

/-- Every vat's slot of a rectangle is quiet. -/
def State.quiet (s : State) (lid : Nat) : Bool :=
  s.slots.all (fun p => p.2.lid != lid || s.quietSlot (p.1 / 4) (p.1 % 4) p.2)

/-- Free every resource of the slot that launch `lid` holds on a vat (R172). -/
def State.freeVat (s : State) (node lid : Nat) : State :=
  match s.slotOfLid node lid with
  | none => s
  | some (sl, r) =>
    { s with
      slots := mdel s.slots (4 * node + sl)
      entries := s.entries.map (fun p =>
        if p.1 / 128 == node && p.2.v && p.2.slot == sl then (p.1, { seq := p.2.seq, phase := p.2.phase }) else p)
      boxes := s.boxes.filter (fun p => !(p.1 / 64 == node && bitAt (reservedChans r (p.1 / 16 % 4)) (p.1 % 16)))
      waits := s.waits.filter (fun p => !(p.1 / 64 == node && bitAt (reservedChans r (p.1 / 16 % 4)) (p.1 % 16)))
      queues := s.queues.map (fun p => if p.1 / 8 == node then (p.1, p.2.filter (fun e => e.slot != sl)) else p)
      tiles := s.tiles.filter (fun p => !(p.1 / 64 == node && p.2.v && p.2.slot == sl))
      runs := s.runs.filter (fun p => !(p.1 / 128 == node && r.bank0 ≤ p.1 % 128 && p.1 % 128 < r.bank0 + fld r.space 20 8))
      mqs := s.mqs.filter (fun p => !(p.1 / 512 == node && p.2.slot == sl))
      cmds := s.cmds.filter (fun p => !(p.1 / 8 == node && p.2.lid == lid))
      streams := s.streams.filter (fun p => !(p.1 / 4 == node && p.2.lid == lid))
      strmEnds := s.strmEnds.filter (fun t => !(t.1 == node && t.2.2.lid == lid))
      matching := s.matching.filter (fun p => !(p.2.node == node && p.2.slot == sl && p.2.state != 0)) }

/-- Free a rectangle on every vat. -/
def State.freeRect (s : State) (r : Rect) : State :=
  let s := (rectNodes r.shape r.ox r.oy).foldl (fun s n => s.freeVat n r.lid) s
  { s with rects := s.rects.filter (fun x => x.lid != r.lid), phases := s.phases.filter (fun g => g.key.lid != r.lid) }

/-- The image job of a rectangle that is under way. -/
def State.activeImage (s : State) (lid : Nat) : Option ImageJob := s.images.find? (fun j => j.lid == lid && j.active)

/-- A rectangle can end: it is quiet, and no IMAGE of it is under way, whose verdict comes first (R311). (DEDUCED, log 57) -/
def State.canEnd (s : State) (lid : Nat) : Bool := s.quiet lid && (s.activeImage lid).isNone

/-- RECTANGLE_END (R172): a quiet rectangle frees its resources and its launcher gets END. -/
def execRectangleEnd (lid : Nat) (s : State) : Host.Outcome State Fault Refusal :=
  .next (match s.rects.find? (fun r => r.lid == lid) with
    | none => s
    | some r =>
      if s.canEnd lid then
        let s := ((s.freeRect r).release .package (fun w => w.lid == lid)).deliver r.endto (verdictWord 0x10 0 0 lid)
        if r.endto == 0 then s.completeFrame r.hostSeq else s
      else s.later (.rectangleEnd lid))

end Sys2Proof.Machine
end

