-- ==== Sys2Proof/Machine/Device.lean ====
section
/-!
DEFINITION. The device: reset (R3), boot (23 R352 to R354), islands (R355, R356), lanes (R357, R358), memory errors (R207, R359,
R360), the fault-address queue (14 R250), and fatal faults (19 R316).
-/
namespace Sys2Proof.Machine
open Sys2Proof

/-! ### Reset, fatal faults -/

/-- DEVICE_RESET (R3): every field at its reset value. Far memory, which no rule resets, stays, and with it the images in it (R311). (DEDUCED, log 46) -/
def execDeviceReset (s : State) : Host.Outcome State Fault Refusal :=
  .next { State.reset with far := s.far, farPoison := s.farPoison, mirrorLists := s.mirrorLists, moves := s.moves, turn := s.turn, oids := s.oids }

/-- The payload of a STATE frame (Table 21-6): HA, HC, the next device SEQ, a fault code. (PRESUMED, log 37) -/
def statePayload (s : State) (fault : Nat) : Nat := packFields 64 [s.host.ha, s.host.hc, s.host.next, fault]

/-- A fatal fault (R316, R336): all work is discarded, scratchpads are not kept, far memory is, EPOCH rises, and STATE reports it. (DESIGN CHOICE, log 45) -/
def State.fatal (s : State) : State :=
  let h : HostLink := { s.host with epoch := s.host.epoch + 1, ha := s.host.hc, doneSet := [], next := 1, window := [], held := [], queued := [] }
  let s' : State := { State.reset with
    far := s.far, farPoison := s.farPoison, farCount := s.farCount, badFrames := s.badFrames
    islands := s.islands, lanes := s.lanes, spares := s.spares, health := s.health, lsel := s.lsel, lselSet := s.lselSet
    fabric := { s.fabric with held := [] }, host := h, lost := s.turn + 1, mirrorLists := s.mirrorLists, moves := s.moves, turn := s.turn, oids := s.oids }
  s'.sendFrame 0x84 32 (statePayload s' 1)

/-- FATAL_FAULT (R316). -/
def execFatalFault (s : State) : Host.Outcome State Fault Refusal := .next s.fatal

/-! ### Islands (R355, R356) -/

/-- A clock on the step grid and a supply in range. -/
def islandOk (w : Nat) : Bool :=
  1200 ≤ fld w 0 16 && fld w 0 16 ≤ 4000 && fld w 0 16 % 100 == 0 && 600 ≤ fld w 16 16 && fld w 16 16 ≤ 950

/-- The island of an ISLAND word: off the grid or out of range, 4,000 MHz at the vendor's voltage. -/
def islandOf (vendorMv w : Nat) : Island :=
  if islandOk w then ⟨false, fld w 16 16, fld w 0 16, fld w 0 16⟩ else ⟨false, vendorMv, 4000, 4000⟩

/-- ISL of a core (Table 23-2). -/
def State.islWord (s : State) (node : Nat) : Nat :=
  let i := mget s.islands (clusterOf node) {}
  i.thr.toNat * 2 ^ 32 + i.mv * 2 ^ 16 + i.mhz

/-- The clusters of an array die. -/
def dieClusters (die : Nat) : List Nat := (List.range 32).filter (fun c => dieOf (vatAt (8 * (c % 8)) (8 * (c / 8))) == die)

/-- Change the islands of a die. -/
def State.modIslands (s : State) (die : Nat) (f : Island → Island) : State :=
  (dieClusters die).foldl (fun s c => { s with islands := mset s.islands c (f (mget s.islands c {})) }) s

/-- THROTTLE_STEP (R356): 10 µs over the HEALTH limit; at or below it nothing changes. -/
def execThrottleStep (d : DieTemp) (s : State) : Host.Outcome State Fault Refusal :=
  .next (if s.health.junction < d.temp then s.modIslands d.die (fun i => { i with mhz := max 1200 (i.mhz - 100), thr := true }) else s)

/-- THROTTLE_RECOVER (R356): 10 µs after 1 ms at 5 °C below the limit, one step up; at the configured clock THR clears. -/
def execThrottleRecover (d : DieTemp) (s : State) : Host.Outcome State Fault Refusal :=
  .next (if d.temp + 5 ≤ s.health.junction then s.modIslands d.die (fun i =>
      let f := min i.conf (i.mhz + 100)
      { i with mhz := f, thr := i.thr && f != i.conf })
    else s)

/-! ### Lanes (R357, R358) -/

/-- A lane number in LSEL layout names a lane. -/
def laneOk (w : Nat) : Bool :=
  let unit := fld w 10 6
  let lane := fld w 0 10
  match fld w 16 2 with
  | 0 => unit ≤ 15
  | 1 => unit ≤ 17 && lane ≤ 511
  | _ => false

/-- The link of a lane: KIND and UNIT. -/
def laneLink (w : Nat) : Nat := fld w 10 8
/-- Spare lanes of a link. -/
def linkSpares (link : Nat) : Nat := if link < 64 then 8 else 4

def State.lane (s : State) (w : Nat) : Lane := mget s.lanes (w % 2 ^ 18) {}
def State.setLane (s : State) (w : Nat) (l : Lane) : State := { s with lanes := mset s.lanes (w % 2 ^ 18) l }

/-- The LEYE value of a lane (Table 23-3). -/
def State.leyeWord (s : State) (w : Nat) : Nat :=
  if laneOk w then
    let l := s.lane w
    2 ^ 63 + l.spr.toNat * 2 ^ 62 + l.state * 2 ^ 60 + l.vmarg % 2 ^ 16 * 2 ^ 16 + l.hmarg % 2 ^ 16
  else 0

/-- LEYE: V is 0 until LSEL has been written (Table 23-3, Reset). (DEDUCED, log 106) -/
def State.leye (s : State) : Nat := if s.lselSet then s.leyeWord s.lsel else s.leyeWord s.lsel % 2 ^ 63

/-- A margin lies below its HEALTH threshold. -/
def lowMargin (h : Health) (vmarg hmarg : Nat) : Bool := hmarg < h.hmarg || vmarg < h.vmarg

/-- MARGIN_MESSAGE (R358): a lane's margins are measured; below a HEALTH threshold they are sent unless a message of the lane is pending. -/
def execMarginMessage (lane vmarg hmarg : Nat) (s : State) : Host.Outcome State Fault Refusal :=
  .next (if !laneOk lane then s
    else
      let l := s.lane lane
      let low := lowMargin s.health vmarg hmarg
      let s := s.setLane lane { l with vmarg := vmarg, hmarg := hmarg, pend := l.pend || low }
      if l.pend || !low then s
      else s.post (4 * svcNode 0 1 + 3) 2 { words := [BitVec.ofNat 64 (lane % 2 ^ 18), BitVec.ofNat 64 (s.leyeWord lane)] })

/-- LCMD RETRAIN of the lane in LSEL: its link pauses. -/
def State.retrain (s : State) : State :=
  let l := s.lane s.lsel
  let link := laneLink s.lsel
  let s := s.setLane s.lsel { l with state := 1, pend := false }
  { s with pauses := setAdd s.pauses link }.later (.retrainDone link)

/-- LCMD REPAIR of the lane in LSEL: onto a spare, or STATE 2 with none left. -/
def State.repair (s : State) : State :=
  let l := s.lane s.lsel
  let link := laneLink s.lsel
  let used := mget s.spares link 0
  if used < linkSpares link then
    { s.setLane s.lsel { l with spr := true, pend := false } with spares := mset s.spares link (used + 1) }
  else s.setLane s.lsel { l with state := 2, failed := true, pend := false }

/-- A lane of the link has failed with no spare left, from then on, whatever is retrained since. -/
def State.linkFailed (s : State) (link : Nat) : Bool := s.lanes.any (fun p => laneLink p.1 == link && p.2.failed)

/-- RETRAIN_DONE (R358). -/
def execRetrainDone (link : Nat) (s : State) : Host.Outcome State Fault Refusal :=
  .next { s with
    pauses := s.pauses.filter (· != link)
    lanes := s.lanes.map (fun p => if laneLink p.1 == link && p.2.state == 1 then (p.1, { p.2 with state := if p.2.failed then 2 else 0 }) else p) }

/-- The core is the fault service core of cluster 0. -/
def isLaneCore (s : State) : Bool := s.node == svcNode 0 1

/-- The body of an SRW to LCMD. (DEDUCED, log 47) -/
def lcmdBody (r v : Nat) : M Unit := do
  let st ← getS
  checkAll [⟨0, r, isLaneCore st⟩, ⟨0, r, v < 4⟩]
  if v == 1 && laneOk st.lsel then modS State.retrain
  else if v == 2 && laneOk st.lsel then modS State.repair
  else pure ()

/-! ### Memory errors (R207, R250, R359, R360) -/

/-- An entry for the fault-address queue of a cluster (Table 14-4). -/
def State.pushFaq (s : State) (kind line : Nat) : State :=
  let c := fld line 0 5
  let q := mget s.faqs c {}
  let w := 2 ^ 63 + kind * 2 ^ 61 + line % 2 ^ 45 * 2 ^ 7
  { s with faqs := mset s.faqs c (if q.items.length < 64 then { q with items := q.items ++ [w] } else { q with ovf := true }) }

/-- The count of corrected errors of a far line becomes `n`: as it passes the threshold, the line enters the queue with KIND 1. (DEDUCED, log 43) -/
def State.countFar (s : State) (line n : Nat) : State :=
  let old := mget s.farCount line 0
  let s := { s with farCount := mset s.farCount line n }
  if old ≤ s.health.ecc && s.health.ecc < n then s.pushFaq 1 line else s

/-- ECC_ERROR (R207, R359): corrected errors change nothing that is read; an uncorrectable one leaves a word whose bytes are unknown and
its mark, and on a link with a failed lane it is fatal (R358). (DESIGN CHOICE, log 42; DEDUCED, log 44) -/
def execEccError (e : EccError) (s : State) : Host.Outcome State Fault Refusal :=
  .next (match e with
    | .scratchCorrected _ => s
    | .accCorrected _ => s
    | .scratch w =>
      let m := storeN (scratchFill s.lost) s.mem (8 * w) 8 (Config.errorWord s.turn w).toNat
      { s with mem := m, poison := setAdd s.poison w }
    | .acc row => { s with accPoison := setAdd s.accPoison row }
    | .farCorrected line => s.countFar line (mget s.farCount line 0 + 1)
    | .link l => if s.linkFailed l then s.fatal else s
    | .far w =>
      if (stackLink (8 * w)).any s.linkFailed then s.fatal
      else
      let m := storeN zeroFill s.far (8 * w) 8 (Config.errorWord s.turn w).toNat
      { s with far := m, farPoison := setAdd s.farPoison w }.pushFaq 0 (w / 16)
    | .control => s.fatal)

/-- SCRUB (R360): corrections are never seen as writes; those of each far line count. -/
def execScrub (far : List (Nat × Nat)) (s : State) : Host.Outcome State Fault Refusal :=
  .next (far.foldl (fun s p => s.countFar p.1 (mget s.farCount p.1 0 + p.2)) s)

/-! ### Boot (R352 to R354) -/

/-- Load the SERVICE programs: the bytes of their scratchpads. -/
def State.loadCode (s : State) (code : List (Nat × Nat × Nat)) : State :=
  code.foldl (fun s c => { s with mem := storeN (scratchFill s.lost) s.mem (spAddr c.1 c.2.1) 1 c.2.2 }) s

/-- Fill the service cores' handler tables, lowest entries first (R241). -/
def State.loadService (s : State) (es : List ServiceEntry) : State :=
  es.foldl (fun s x =>
    let ck := 4 * x.node + 3
    match (List.range 32).find? (fun e => !(s.entry (32 * ck + e)).v) with
    | some e => s.modEntry (32 * ck + e) (fun y =>
        { v := true, ws := x.ws, slot := 0, prio := x.prio, msk := x.msk, lnch := x.lnch, vregs := x.vregs, lhn := e, entry := x.entry,
          chans := x.chans, seq := y.seq, phase := y.phase, mirrors := s.mirrorsOf ck x.entry })
    | none => s) s

/-- Both signatures verify (R352). -/
def signaturesOk (x : Signatures) : Bool := x.ecdsa && x.lms

/-- TYPE of a record's payload (Table 23-1). -/
def recordType : RecordBody → Nat
  | .island _ => 1 | .fabric _ _ => 2 | .health _ => 3 | .badpage _ => 4 | .service _ _ => 5 | .ident _ => 6 | .unknown _ => 0

/-- The accepted records of a TYPE, in flash order. -/
def acceptedOf (rs : List FlashRecord) (type : Nat) : List RecordBody × List Nat :=
  let ok := rs.filter (fun r => signaturesOk r.signed && fld r.header 56 8 == type && recordType r.body == type)
  (ok.map (·.body), ok.map (fun r => fld r.header 32 24))

/-- The record of a TYPE that is used (R353): of the accepted ones the first with the highest VER. -/
def usedOf (rs : List FlashRecord) (type : Nat) : Option RecordBody :=
  let (bodies, vers) := acceptedOf rs type
  let top := vers.foldl max 0
  ((bodies.zip vers).find? (fun p => p.2 == top)).map Prod.fst

/-- The frames of every accepted BADPAGE record, joined (R353). -/
def withheldFrames (rs : List FlashRecord) : List Nat :=
  (acceptedOf rs 4).1.foldl (fun xs b =>
    match b with
    | .badpage fs => fs.foldl setAdd xs
    | _ => xs) []

/-- The state that steps 2 to 5 and 7 of R354 leave, with the defaults of R353 where no record is accepted. -/
def bootState (b : BootRecords) (s : State) : State :=
  let words := match usedOf b.records 1 with
    | some (.island ws) => ws
    | _ => []
  let mv := match usedOf b.records 6 with
    | some (.ident v) => v
    | _ => Config.resetMv
  { State.reset with
    mirrorLists := s.mirrorLists, moves := s.moves, turn := s.turn, oids := s.oids
    badFrames := withheldFrames b.records
    health := match usedOf b.records 3 with
      | some (.health h) => h
      | _ => {}
    lanes := b.margins.foldl (fun m x => mset m (x.1 % 2 ^ 18) { vmarg := x.2.1, hmarg := x.2.2 }) []
    islands := (List.range 32).map (fun c => (c, islandOf mv (words.getD c 0)))
    fabric := match usedOf b.records 2 with
      | some (.fabric addr d) => { up := true, addr := addr, domains := d }
      | _ => {} }

/-- BOOT (R352 to R354): with neither firmware copy accepted the device stops, its ports down and no frame sent. Else step 6 loads and starts the
service programs of the state that the other steps leave. (DEDUCED, log 48; DESIGN CHOICE, log 68; DESIGN CHOICE, log 84) -/
def execBoot (b : BootRecords) (s : State) : Host.Outcome State Fault Refusal :=
  .next (if !signaturesOk b.copyA && !signaturesOk b.copyB then
      { State.reset with far := s.far, farPoison := s.farPoison, mirrorLists := s.mirrorLists, moves := s.moves, turn := s.turn, oids := s.oids }
    else
      match usedOf b.records 5 with
      | some (.service es code) => ((bootState b s).loadCode code).loadService es
      | _ => bootState b s)

end Sys2Proof.Machine
end

