-- ==== Sys2Proof/Machine/Gather.lean ====
section
/-!
DEFINITION. GATH and GEND (15 R262 to R265): the stage lines, the issue and the landing of elements.
-/
namespace Sys2Proof.Machine
open Sys2Proof

/-! ### Descriptor (Table 15-5): word 0 and word 1 are `args` 0 and 1 -/

def gathBase (c : Cmd) : Nat := c.args.getD 0 0
def gathStage (w1 : Nat) : Nat := 128 * fld w1 14 14
def gathDest (w1 : Nat) : Nat := 128 * fld w1 0 14
def gathKch (w1 : Nat) : Nat := fld w1 33 4

/-- The checks of a descriptor for `n` elements (R263) but for KCH. -/
def gathDescOk (w0 w1 n : Nat) : Bool :=
  let len := n * gathSize w1
  fld w1 37 27 == 0 && 0x2000 ≤ gathStage w1 && gathStage w1 + 512 ≤ 0x200000 && 0x2000 ≤ gathDest w1 &&
  gathDest w1 + len ≤ 0x200000 && (gathStage w1 + 512 ≤ gathDest w1 || gathDest w1 + len ≤ gathStage w1) &&
  nearRangeOk w0 0

/-- Clear F on the lines of a range that lie in no tile-table entry's range (R263). -/
def State.emptyFree (s : State) (a n : Nat) : State :=
  (List.range (n / 128)).foldl (fun s i => if (s.entriesAt (a + 128 * i) 128).isEmpty then s.emptyLines (a + 128 * i) 128 else s) s

/-- GATH (R263): `d` descriptor offset, `a` index source, `b` control word. -/
def execGath (d a b : Nat) (s : State) : Host.Outcome State Fault Refusal :=
  runInstr xENG 0x5B (do
    classes (fun s => [⟨0, d, wSource s d⟩, ⟨1, a, wSource s a⟩, ⟨2, b, wSource s b⟩])
    let src ← srcW a
    let ctl ← srcW b
    let off := (← srcW d).toNat
    let st ← getS
    let n := ctlLen ctl.toNat
    let late : List Check := [⟨1, a, nearRangeOk src.toNat (8 * n)⟩]
    checkAll [⟨2, b, st.ctlOk ctl.toNat 1 0xFFFFFF true⟩, ⟨0, d, 0x2000 ≤ off && off < 0x200000⟩]
    if off % 16 != 0 then do
      checkAll late
      if !addrOk src.toNat then addressTrap src.toNat
      alignmentTrap off
    else
      let v ← readSp (spAddr st.node off) 16
      let w0 := fld v 0 64
      let w1 := fld v 64 64
      let kch := gathKch w1
      checkAll ([⟨0, d, gathDescOk w0 w1 n⟩,
        ⟨0, d, kch == 0 || (st.ownsChan kch && (st.boundEntry st.cur.ck kch).isSome)⟩] ++ late)
      if !addrOk src.toNat then addressTrap src.toNat
      if !addrOk w0 then addressTrap w0
      if src.toNat % 8 != 0 then alignmentTrap src.toNat
      applyAcq ctl.toNat
      startCmd { kind := .gath, lid := 0, ent := 0, ctl := ctl, src := src, dst := 0, args := [w0, w1], limit := n }
        (fun node i => [.gatherStage node i, .gatherElementIssue node i])
      modS (fun s => s.emptyFree (spAddr s.node (gathDest w1)) (n * gathSize w1))
      advance 4) s

/-! ### Staging -/

/-- Entry `k` holds bytes that the gather will still read: index lines not staged, stage lines not issued, targets not known yet or in flight
(R257). (DEDUCED, log 26) -/
def State.gathStill (s : State) (node : Nat) (c : Cmd) (k : Nat) : Bool :=
  let w1 := c.args.getD 1 0
  let n := gathSize w1
  let base := gathBase c
  s.entryMeets k c.src.toNat (128 * c.pos : Nat) (8 * (c.limit - 16 * c.pos)) ||
  (c.issued < c.limit && (s.entriesAt (spAddr node (gathStage w1)) 512).contains k) ||
  (!addrFar base && addrOk base && k / 64 == vatAt (fld base 26 6) (fld base 21 5) && c.issued < c.limit) ||
  c.flight.any (fun f => fld f.2 57 3 == 1 && (s.entriesAt (f.2 % 2 ^ 57) n).contains k)

/-- The gather keeps the entries that it will still read. -/
def State.gathRelease (s : State) (node : Nat) (c : Cmd) : State × Cmd :=
  let (s, held) := s.releaseUnread c.tiles (s.gathStill node c)
  (s, { c with tiles := held })

/-- The scratchpad address of the stage line of index line `q`. -/
def stageAddr (node : Nat) (c : Cmd) (q : Nat) : Nat := spAddr node (gathStage (c.args.getD 1 0) + 128 * (q % 4))

/-- A far element in flight is to be translated again (R313), as bit 60 of what `flight` holds says. -/
def Cmd.anew (c : Cmd) : List Nat := (c.flight.filter (fun f => bitAt f.2 60)).map Prod.fst

/-- Stage the next index line (R263): copy its indices, and hand the line to the kernel if there is one. A miss or fault on the line is
met once every element before it is issued; after a RESUME the elements in flight are translated first. -/
def State.stageStep (s : State) (node i : Nat) : Option State :=
  match s.cmdLive node i with
  | none => if (s.cmd? node i).isNone then some s else none
  | some c =>
    if c.limit ≤ 16 * c.pos then some s
    else if 4 ≤ c.stage.length || !c.anew.isEmpty then none
    else
      let met (e : EngStop) : EngStop := if c.stage.isEmpty then e else .wait
      s.cmdResult node i (.gatherStage node i) (do
        let first := 16 * c.pos
        let n := min 16 (c.limit - first)
        let (s, held, ws, st) ← (s.engRead node c.found c.tiles c.src.toNat (8 * first : Nat) n).mapError met
        let a := stageAddr node c c.pos
        if !s.mayWrite a (8 * n) then .error .wait
        else
          let s := ((s.putWords a ws).creditAt a (8 * n)).fillAt a (8 * n)
          let kch := gathKch (c.args.getD 1 0)
          let s := if kch == 0 then s
            else s.post (4 * node) kch { words := [BitVec.ofNat 64 (a % 0x200000), BitVec.ofNat 64 (first + n * 2 ^ 32)] }
          let c := { c with pos := c.pos + 1, tiles := held, status := max c.status st, stage := c.stage ++ [⟨s.turn, first, n, kch == 0, []⟩] }
          let (s, c) := s.gathRelease node c
          return (s.setCmd node i c).later (.gatherStage node i))

/-- GATHER_STAGE (R263). -/
def execGatherStage (node cmd : Nat) (s : State) : Host.Outcome State Fault Refusal :=
  .next (s.orLater (.gatherStage node cmd) (s.stageStep node cmd))

/-- The stage lines of kernel commands of a vat that the executing handler entry holds: (turn, command, first element). -/
def State.heldStages (s : State) : List (Nat × Nat × Nat) :=
  (s.cmds.filter (fun p => p.1 / 8 == s.node && p.2.kind == .gath)).flatMap (fun p =>
    let kch := gathKch (p.2.args.getD 1 0)
    if kch != 0 && (s.boundEntry (4 * s.node) kch).any (fun b => b.1 == s.cur.ent) then
      (p.2.stage.filter (fun l => !l.free)).map (fun l => (l.turn, p.1 % 8, l.first))
    else [])

/-- A stage line is released with its words as they stand; a line that is empty is read when it is full again. -/
def State.releaseLine (s : State) (node : Nat) (c : Cmd) (l : StageLine) : StageLine :=
  let a := stageAddr node c (l.first / 16)
  { l with free := true, words := if s.hasEmpty a (8 * l.count) then [] else (List.range l.count).map (fun j => s.peek (a + 8 * j) 8) }

/-- GEND (R265): releases the oldest stage line handed to the executing entry. (DEDUCED, log 29) -/
def execGend (s : State) : Host.Outcome State Fault Refusal :=
  runInstr xENG 0x5B (do
    let st ← getS
    match st.heldStages with
    | [] => illegalOperand 0 0
    | l :: r =>
      let best := r.foldl (fun (b : Nat × Nat × Nat) x => if x.1 < b.1 then x else b) l
      modS (fun s =>
        match s.cmd? s.node best.2.1 with
        | some c => s.setCmd s.node best.2.1 { c with stage := c.stage.map (fun l =>
            if l.first == best.2.2 then s.releaseLine s.node c l else l) }
        | none => s)
      advance 4) s

/-! ### Issue -/

/-- Free the stage lines whose elements are all issued. -/
def freeStages (c : Cmd) : Cmd := { c with stage := c.stage.filter (fun l => c.issued < l.first + l.count) }

/-- The completion of a gather is due once every element is landed or skipped (R263), and every zero of a fail is written (R264). -/
def State.gathDone (s : State) (node i : Nat) (c : Cmd) : State :=
  let (s, c) := s.gathRelease node c
  if c.done == c.limit && c.flight.isEmpty && !c.closing then (s.setCmd node i { c with closing := true }).later (.engineCompletion node i)
  else s.setCmd node i c

/-- The target of `n` bytes at a virtual address, as `flight` holds it. -/
def State.farTarget (s : State) (node va n : Nat) : Except EngStop Nat := do
  let pa ← s.engLookup node va accRead
  let pb ← (s.engLookup node ((va + n - 1) % 2 ^ 57) accRead).mapError (EngStop.start va)
  return va + 2 ^ 64 * pa + 2 ^ 128 * (pb / 0x4000 * 0x4000)

/-- The target of an element as `flight` holds it: far, the virtual address with the physical addresses of its first and second page
part from bits 64 and 128; near, bit 57 and the scratchpad address; outside its memory, bit 58. Bit 59 stands for the zeros of a fail, with the
number of the element after the last one in bits 31:0; bit 60 for a far element that must be translated again (R313). -/
def State.gathTarget (s : State) (node : Nat) (c : Cmd) (x : Nat) : Except EngStop Nat :=
  let n := gathSize (c.args.getD 1 0)
  let i : Int := (x * n : Nat)
  match engAt (gathBase c) i, engAt (gathBase c) (i + n - 1) with
  | some (false, a), some _ => .ok (2 ^ 57 + a)
  | some (true, va), some _ => s.farTarget node va n
  | _, _ => .ok (2 ^ 58)

/-- The index of the next element of stage line `l`: the word its kernel left, or the stage word as it stands. -/
def State.stageIndex (s : State) (node : Nat) (c : Cmd) (l : StageLine) : Except EngStop (State × List Nat × Nat) :=
  match l.words[c.issued - l.first]? with
  | some x => .ok (s, c.tiles, x)
  | none => do
    let a := stageAddr node c (c.issued / 16) + 8 * (c.issued % 16)
    if !s.mayRead c.tiles a 8 then .error .wait
    let (x, _, _) ← s.engWord node [] (some (false, a))
    let (s, held) := s.consumeAt c.tiles a 8
    return (s, held, x)

/-- The vat's slot of a command. -/
def State.cmdSlot (s : State) (node : Nat) (c : Cmd) : Nat := ((s.slotOfLid node c.lid).map Prod.fst).getD 0

/-- The lines of element `e` become full, with what the write before has left there. -/
def State.gathLanded (s : State) (node : Nat) (c : Cmd) (e : Nat) : State × Cmd :=
  let w1 := c.args.getD 1 0
  let n := gathSize w1
  let len := n * ctlLen c.ctl.toNat
  s.landed c node (s.cmdSlot node c) (spAddr node (gathDest w1)) (n * e) len len n

/-- Element `e`'s lines take a write. -/
def State.gathRoom (s : State) (node : Nat) (c : Cmd) (e : Nat) : Bool :=
  let w1 := c.args.getD 1 0
  s.mayWrite (spAddr node (gathDest w1) + gathSize w1 * e) (gathSize w1)

/-- The elements of a gather in flight at once, so that its image holds them (R309). (DESIGN CHOICE, log 65) -/
abbrev flightRoom : Nat := 256

/-- Issue or skip the next element (R263): the lines of one that is skipped become full as if it had landed. -/
def State.issueStep (s : State) (node i : Nat) : Option State :=
  match s.cmdLive node i with
  | none => if (s.cmd? node i).isNone then some s else none
  | some c =>
    let e := c.issued
    if c.limit ≤ e then some s
    else if flightRoom ≤ c.flight.length || !c.anew.isEmpty then none
    else
      match c.stage.find? (fun l => l.first ≤ e && e < l.first + l.count) with
      | none => none
      | some l =>
        if !l.free then none
        else
          s.cmdResult node i (.gatherElementIssue node i) (do
            let (s, held, x) ← s.stageIndex node c l
            let c := { c with tiles := held }
            let n := gathSize (c.args.getD 1 0)
            if x == 2 ^ 64 - 1 then
              if !s.gathRoom node c e then .error .wait
              let (s, c) := s.gathLanded node c e
              return (s.gathDone node i (freeStages { c with issued := e + 1, done := c.done + 1 })).later (.gatherElementIssue node i)
            else
              let t ← s.gathTarget node c x
              let s := if t / 2 ^ 57 % 4 == 0 then s.engTouchAll node (t % 2 ^ 57) n accRead else s
              let (s, c) := s.gathRelease node (freeStages { c with issued := e + 1, flight := c.flight ++ [(e, t)] })
              let s := s.setCmd node i c
              return (s.later (.gatherElementLand node i e)).later (.gatherElementIssue node i))

/-- GATHER_ELEMENT_ISSUE (R263). -/
def execGatherElementIssue (node cmd : Nat) (s : State) : Host.Outcome State Fault Refusal :=
  .next (s.orLater (.gatherElementIssue node cmd) (s.issueStep node cmd))

/-! ### Landing -/

/-- A far word of an element in flight: word `j` of its `n` bytes. -/
def State.flightWord (s : State) (found : List Granule) (t j : Nat) : Nat × Bool × Nat :=
  let va := t % 2 ^ 57
  let k := min 8 (0x4000 - (va + 8 * j) % 0x4000)
  let at' (o : Nat) : Nat :=
    if va % 0x4000 + o < 0x4000 then fld t 64 64 + o else fld t 128 64 + (va + o) % 0x4000
  if k == 8 then s.farPart found (at' (8 * j)) 8
  else
    let (x, b, st) := s.farPart found (at' (8 * j)) k
    let (y, b', st') := s.farPart found (at' (8 * j + k)) (8 - k)
    (x + 2 ^ (8 * k) * y, b || b', max st st')

/-- The words of an element in flight. -/
def State.elementRead (s : State) (node : Nat) (found : List Granule) (held : List Nat) (t n : Nat) : Except EngStop EngRead :=
  if t / 2 ^ 58 % 2 == 1 then .ok (s, held, List.replicate (n / 8) (0, false), 2)
  else if t / 2 ^ 57 % 2 == 1 then
    let a := t % 2 ^ 57
    s.engRead node found held (a / 0x200000 % 64 * 2 ^ 26 + a / 0x200000 / 64 * 2 ^ 21 + a % 0x200000) 0 (n / 8)
  else
    let ps := (List.range (n / 8)).map (s.flightWord found t)
    let k := min n (0x4000 - t % 0x4000)
    if s.farPausedAll node (fld t 64 64) k || (k < n && s.farPausedAll node (fld t 128 64) (n - k)) then .error .wait
    else .ok (s, held, ps.map (fun p => (p.1, p.2.1)), (ps.map (fun p => p.2.2)).foldl max 0)

/-- The zeros of a fail reach element `e`, then the next one up to `last` (R264). -/
def State.zeroStep (s : State) (node i e last : Nat) (c : Cmd) : Except EngStop State :=
  if !s.gathRoom node c e then .error .wait
  else
    let w1 := c.args.getD 1 0
    let s := s.poke (spAddr node (gathDest w1) + gathSize w1 * e) (gathSize w1) 0
    let (s, c) := s.gathLanded node c e
    let rest := c.flight.filter (fun f => f.1 != e)
    if e + 1 < last then
      .ok ((s.setCmd node i { c with flight := rest ++ [(e + 1, 2 ^ 59 + last)] }).later (.gatherElementLand node i (e + 1)))
    else .ok (s.gathDone node i { c with flight := rest })

/-- Element `e` lands (R263): its lines become full under R257. It lands also while a later element waits (R264), and while its slot stops (R308 step 5).
After a RESUME a far element is first translated, the lowest one before the others, and none above it lands before that (R264, R313). -/
def State.landStep (s : State) (node i e : Nat) : Option State :=
  match s.cmd? node i with
  | none => some s
  | some c =>
    match c.flight.find? (fun f => f.1 == e) with
    | none => some s
    | some (_, t) =>
      if (bitAt t 60 && c.wait != .none) || c.anew.any (· < e) then none else
      s.cmdResult node i (.gatherElementLand node i e) (do
        if bitAt t 59 then s.zeroStep node i e (t % 2 ^ 32) c
        else
          let w1 := c.args.getD 1 0
          let n := gathSize w1
          if bitAt t 60 then
            let t' ← s.farTarget node (t % 2 ^ 57) n
            let flight := c.flight.map (fun f => if f.1 == e then (e, t') else f)
            return ((s.engTouchAll node (t % 2 ^ 57) n accRead).setCmd node i { c with flight := flight }).later (.gatherElementLand node i e)
          let (s, held, ws, st) ← s.elementRead node c.found c.tiles t n
          if !s.gathRoom node c e then .error .wait
          else
            let (s, c) := (s.putWords (spAddr node (gathDest w1) + n * e) ws).gathLanded node c e
            return s.gathDone node i { c with tiles := held, done := c.done + 1, status := max c.status st,
                                              flight := c.flight.filter (fun f => f.1 != e) })

/-- GATHER_ELEMENT_LAND (R263). -/
def execGatherElementLand (node cmd elem : Nat) (s : State) : Host.Outcome State Fault Refusal :=
  .next (s.orLater (.gatherElementLand node cmd elem) (s.landStep node cmd elem))

/-- The element that a fail of a gather names: the lowest of those in flight to be translated again, else the next one to issue, or the first one of the
index line that it stages. -/
def Cmd.failedAt (c : Cmd) : Nat :=
  match c.anew with
  | x :: r => r.foldl min x
  | [] => if c.stage.isEmpty then min c.limit (16 * c.pos) else c.issued

/-- A fail at element `e` of a gather (R264): elements below `e` are delivered, zeros are written for those from there on, as elements land, STATUS PAGE,
and DONE = e once all is written. -/
def State.failGath (s : State) (node i : Nat) (c : Cmd) : State :=
  let e := c.failedAt
  let lower := c.flight.filter (fun f => f.1 < e && !bitAt f.2 59)
  let flight := lower ++ c.flight.filter (fun f => bitAt f.2 59)
  let c' := { c with limit := e, done := e - lower.length, status := max c.status 3, wait := .none, flight := flight }
  if e < c.limit then
    (s.setCmd node i { c' with flight := flight ++ [(e, 2 ^ 59 + c.limit)] }).later (.gatherElementLand node i e)
  else s.gathDone node i c'

end Sys2Proof.Machine
end

