-- ==== Sys2Proof/Machine/Glaze.lean ====
section
/-!
DEFINITION. The Glaze engine (16 R272 to R284): GLZ, its issue checks, and the units it writes. The command's `args` are the
block's words 0 to 8, the block's offset, then the words of the weight table; `pos` is the next destination point, `work` its unit.
-/
namespace Sys2Proof.Machine
open Sys2Proof

/-! ### The command block (Tables 16-1 to 16-3) -/

/-- A grid descriptor: its four words. -/
structure Grid where
  w0 : Nat
  w1 : Nat
  w2 : Nat
  w3 : Nat
  deriving DecidableEq, Repr

/-- The grid at word `k` of a block. -/
def gridAt (ws : List Nat) (k : Nat) : Grid := ⟨ws.getD k 0, ws.getD (k + 1) 0, ws.getD (k + 2) 0, ws.getD (k + 3) 0⟩

def gridFmt (g : Grid) : Nat := fld g.w1 36 5
/-- The element size. -/
def gridEs (g : Grid) : Nat := if gridFmt g == tF32 then 4 else 2
/-- The extent on an axis. -/
def gridN (g : Grid) (axis : Nat) : Nat := fld g.w1 (12 * axis) 12 + 1
/-- The stride in bytes on an axis; those that a transfer of `dim` + 1 dimensions ignores are zero. -/
def gridStride (g : Grid) (dim axis : Nat) : Int :=
  match axis with
  | 0 => gridEs g
  | 1 => if 1 ≤ dim then signed 32 (fld g.w2 0 32) else 0
  | _ => if 2 ≤ dim then signed 32 (fld g.w2 32 32) else 0

def glzDir (w : Nat) : Nat := fld w 0 2
def glzBnd (w : Nat) : Nat := fld w 2 2
def glzRm (w : Nat) : Nat := fld w 4 2
def glzDim (w : Nat) : Nat := fld w 6 2
def glzWoff (w : Nat) : Nat := fld w 8 21

/-- The extents on an axis meet R275. -/
def axisOk (dir dim axis : Nat) (src dst : Grid) : Bool :=
  let fine := if dir == 0 then gridN src axis else gridN dst axis
  let coarse := if dir == 0 then gridN dst axis else gridN src axis
  if axis ≤ dim then fine == 2 * coarse else fine == 1 && coarse == 1

/-- A grid descriptor has no reserved bit and a format that GLZ takes. -/
def gridOk (g : Grid) : Bool := g.w3 == 0 && fld g.w1 41 23 == 0 && 9 ≤ gridFmt g && gridFmt g ≤ 11

/-- Offset of point `p` (x, y, z) from ADDR (R273). -/
def pointOffset (g : Grid) (dim : Nat) (p : Nat × Nat × Nat) : Int :=
  (p.1 : Int) * gridStride g dim 0 + (p.2.1 : Int) * gridStride g dim 1 + (p.2.2 : Int) * gridStride g dim 2

/-- The lowest byte of a grid from ADDR, and the end of its highest element. -/
def gridSpan (g : Grid) (dim : Nat) : Int × Int :=
  let ends (axis : Nat) : Int := ((gridN g axis : Int) - 1) * gridStride g dim axis
  let lo := min 0 (ends 0) + min 0 (ends 1) + min 0 (ends 2)
  let hi := max 0 (ends 0) + max 0 (ends 1) + max 0 (ends 2)
  (lo, hi + gridEs g)

/-- A near grid lies within 0x2000 to 0x1FFFFF of its vat. -/
def gridNearOk (g : Grid) (dim : Nat) : Bool :=
  let (lo, hi) := gridSpan g dim
  addrFar g.w0 || !addrOk g.w0 || (0x2000 ≤ (fld g.w0 0 21 : Int) + lo && (fld g.w0 0 21 : Int) + hi ≤ 0x200000)

/-- Source and destination ranges overlap (Table 16-4). -/
def gridsMeet (src dst : Grid) (dim : Nat) : Bool :=
  let (l, h) := gridSpan src dim
  let (l', h') := gridSpan dst dim
  let b (g : Grid) : Int := if addrFar g.w0 then signed 57 g.w0 else (fld g.w0 0 32 : Nat)
  addrFar src.w0 == addrFar dst.w0 && addrOk src.w0 && addrOk dst.w0 && b src + l < b dst + h' && b dst + l' < b src + h

/-! ### Weights (R276) -/

/-- Stencil tables that a command reads. -/
def tableCount (dir dim : Nat) : Nat := if dir == 0 then 1 else 2 ^ (dim + 1)

/-- Weight `i` of table `p`, as its code; `ws` is the words of the weight table. -/
def weightCode (ws : List Nat) (p i : Nat) : Nat := fld (ws.getD (8 + 8 * p + i / 4) 0) (16 * (i % 4)) 16

/-- The weight table's words meet R276. -/
def weightsOk (ws : List Nat) (count dim : Nat) : Bool :=
  fld (ws.getD 0 0) 5 59 == 0 && fld (ws.getD 0 0) 0 5 ≤ 22 &&
  (List.range count).all (fun p => (List.range (3 ^ (dim + 1))).all (fun i => weightCode ws p i != 0x8000))

/-- Words of a stencil table that hold weights of indices below 3^(DIM+1): no other is read. -/
def weightWords (dim : Nat) : Nat := (2 * 3 ^ (dim + 1) + 7) / 8

/-- The words of a stencil table at a scratchpad address, those that are not read as zero. -/
def readStencil (a dim : Nat) : M (List Nat) := do
  let v ← readSp a (8 * weightWords dim)
  return (List.range 8).map (fun i => if i < weightWords dim then fld v (64 * i) 64 else 0)

/-- The words of `n` stencil tables from `a`. -/
def readStencils (a dim : Nat) : Nat → M (List Nat)
  | 0 => return []
  | n + 1 => do
    let ws ← readStencil a dim
    let r ← readStencils (a + 64) dim n
    return ws ++ r

/-- The words of a weight table as far as the engine reads it (R276): word 0, and the weights of its stencil tables. -/
def readWeights (a dir dim : Nat) : M (List Nat) := do
  let w ← readSp a 8
  let r ← readStencils (a + 64) dim (tableCount dir dim)
  return w :: List.replicate 7 0 ++ r

/-! ### GLZ (R277) -/

/-- The contents of a block that name a place to read weights from: the Glaze word and the grids. -/
def blockOk (ws : List Nat) : Bool :=
  let g := ws.getD 8 0
  let src := gridAt ws 0
  let dst := gridAt ws 4
  fld g 29 35 == 0 && glzDir g != 3 && glzBnd g != 3 && glzDim g != 3 && gridOk src && gridOk dst &&
  (List.range 3).all (fun a => axisOk (glzDir g) (glzDim g) a src dst)

/-- WOFF is a multiple of 64, and its tables lie in 0x2000 to 0x1FFFFF. -/
def woffOk (g : Nat) : Bool :=
  0x2000 ≤ glzWoff g && glzWoff g % 64 == 0 && glzWoff g + 64 + 64 * tableCount (glzDir g) (glzDim g) ≤ 0x200000

/-- ADDR and the strides that count are multiples of the element size. -/
def gridAligned (g : Grid) (dim : Nat) : Bool :=
  g.w0 % gridEs g == 0 && gridStride g dim 1 % (gridEs g : Int) == 0 && gridStride g dim 2 % (gridEs g : Int) == 0

/-- GLZ (R277): `d` block offset, `a` control word. -/
def execGlz (d a : Nat) (s : State) : Host.Outcome State Fault Refusal :=
  runInstr xGLZ 0x5C (do
    classes (fun s => [⟨0, d, wSource s d⟩, ⟨1, a, wSource s a⟩])
    let ctl ← srcW a
    let off := (← srcW d).toNat
    let st ← getS
    checkAll [⟨1, a, st.ctlOk ctl.toNat 0 0 false⟩, ⟨0, d, 0x2000 ≤ off && off + 80 ≤ 0x200000⟩]
    if off % 16 != 0 then alignmentTrap off
    else
      let v ← readSp (spAddr st.node off) 72
      let ws := (List.range 9).map (fun i => fld v (64 * i) 64)
      let g := ws.getD 8 0
      let src := gridAt ws 0
      let dst := gridAt ws 4
      let dim := glzDim g
      -- the Glaze word tells where the table is; then both are checked
      let tab ← if glzDir g != 3 && dim != 3 && woffOk g then readWeights (spAddr st.node (glzWoff g)) (glzDir g) dim else pure []
      checkAll [⟨0, d, blockOk ws⟩, ⟨0, d, woffOk g⟩, ⟨0, d, weightsOk tab (tableCount (glzDir g) dim) dim⟩, ⟨0, d, gridNearOk src dim && gridNearOk dst dim⟩,
        ⟨0, d, !gridsMeet src dst dim⟩]
      if !addrOk src.w0 then addressTrap src.w0
      if !addrOk dst.w0 then addressTrap dst.w0
      if !gridAligned src dim then alignmentTrap src.w0
      if !gridAligned dst dim then alignmentTrap dst.w0
      applyAcq ctl.toNat
      storeLocal (off + 72) 8 0
      startCmd { kind := .glz, lid := 0, ent := 0, ctl := ctl, src := BitVec.ofNat 64 src.w0, dst := BitVec.ofNat 64 dst.w0,
                 args := ws ++ [off] ++ tab, limit := gridN dst 0 * gridN dst 1 * gridN dst 2 }
        (fun node i => [.glzPoint node i])
      advance 4) s

/-! ### Destination points and units (R278, R281) -/

/-- Point `q` in ascending order: x fastest, then y, then z. -/
def pointOf (g : Grid) (q : Nat) : Nat × Nat × Nat := (q % gridN g 0, q / gridN g 0 % gridN g 1, q / gridN g 0 / gridN g 1)

/-- Unit size at a destination: 64 bytes near, 16 far. -/
def unitSize (g : Grid) : Nat := if addrFar g.w0 then 16 else 64

/-- The base of a grid as an integer, of whole units: offsets and virtual addresses are counted from it. -/
def gridBase (g : Grid) : Int := if addrFar g.w0 then signed 57 g.w0 else (fld g.w0 0 21 : Nat)

/-- The byte address of a point on its grid's own scale. -/
def pointByte (g : Grid) (dim q : Nat) : Int := gridBase g + pointOffset g dim (pointOf g q)

/-- The points of a row (y, z) with a byte in `lo` to `lo + n - 1`, as numbers, ascending. -/
def rowPoints (g : Grid) (dim : Nat) (lo : Int) (n y z : Nat) : List Nat :=
  let es := gridEs g
  let start := gridBase g + pointOffset g dim (0, y, z)
  -- x with lo ≤ start + es · x < lo + n
  let x0 := if start ≥ lo then 0 else ((lo - start).toNat + es - 1) / es
  let x1 := if start ≥ lo + n then 0 else ((lo + n - start).toNat + es - 1) / es
  let x1 := min x1 (gridN g 0)
  (List.range (x1 - x0)).map (fun i => x0 + i + gridN g 0 * (y + gridN g 1 * z))

/-- The points with a byte in `lo` to `lo + n - 1`, ascending. -/
def windowPoints (g : Grid) (dim : Nat) (lo : Int) (n : Nat) : List Nat :=
  (List.range (gridN g 2)).flatMap (fun z => (List.range (gridN g 1)).flatMap (fun y => rowPoints g dim lo n y z))

/-- The start of the unit of point `q`. -/
def unitStart (g : Grid) (dim q : Nat) : Int :=
  let n : Int := unitSize g
  pointByte g dim q / n * n

/-- The points of the unit of point `q`. -/
def unitPoints (g : Grid) (dim q : Nat) : List Nat := windowPoints g dim (unitStart g dim q) (unitSize g)

/-- The first point from `q` on that opens its unit: the unit is written when its lowest point comes. The fuel is the number of points. -/
def nextUnit (g : Grid) (dim total : Nat) : Nat → Nat → Nat
  | 0, q => q
  | fuel + 1, q =>
    if total ≤ q then q
    else if ((unitPoints g dim q).head?.getD q) == q then q
    else nextUnit g dim total fuel (q + 1)

/-! ### The sum of one point (R278, R279) -/

/-- `bound` on one axis (R279). -/
def boundIndex (bnd n : Nat) (i : Int) : Option Nat :=
  if 0 ≤ i && i < n then some i.toNat
  else if bnd == 0 then none
  else if bnd == 1 then some (if i < 0 then 0 else n - 1)
  else some (if i < 0 then n - 1 else 0)

/-- The stencil offsets of `dim` + 1 dimensions, each from -1 to 1. -/
def stencil (dim : Nat) : List (Int × Int × Int) :=
  let axis (k : Nat) : List Int := if k ≤ dim then [-1, 0, 1] else [0]
  (axis 2).flatMap (fun oz => (axis 1).flatMap (fun oy => (axis 0).map (fun ox => (ox, oy, oz))))

/-- The weight index of an offset (R276). -/
def widx (dim : Nat) (o : Int × Int × Int) : Nat :=
  ((o.1 + 1) + (if 1 ≤ dim then 3 * (o.2.1 + 1) else 0) + (if 2 ≤ dim then 9 * (o.2.2 + 1) else 0)).toNat

/-- The terms of destination point `q`: source point and weight, the zero weights and the points outside left out. -/
def pointTerms (src dst : Grid) (g : Nat) (tab : List Nat) (q : Nat) : List ((Nat × Nat × Nat) × Int) :=
  let dim := glzDim g
  let (x, y, z) := pointOf dst q
  let restrict := glzDir g == 0
  let base (v : Nat) : Int := if restrict then (2 * v : Nat) else (v / 2 : Nat)
  let p := if restrict then 0 else x % 2 + (if 1 ≤ dim then 2 * (y % 2) else 0) + (if 2 ≤ dim then 4 * (z % 2) else 0)
  (stencil dim).filterMap (fun o =>
    let w := signed 16 (weightCode tab p (widx dim o))
    if w == 0 then none
    else
      match boundIndex (glzBnd g) (gridN src 0) (base x + o.1),
        (if 1 ≤ dim then boundIndex (glzBnd g) (gridN src 1) (base y + o.2.1) else some 0),
        (if 2 ≤ dim then boundIndex (glzBnd g) (gridN src 2) (base z + o.2.2) else some 0) with
      | some a, some b, some c => some ((a, b, c), w)
      | _, _, _ => none)

/-- `term(v, w)` in units of XS (R278). -/
def glzTerm (v : Val) (w : Int) (sh : Nat) : Int :=
  match v with
  | .nan .. => xsNan
  | .inf n => xsOfVal (.inf (n != (w < 0)))
  | .fin n m e => xsOfVal (.fin (n != (w < 0)) (m * w.natAbs) (e - sh))

/-- What one element read gives: its value (zero where it is poisoned or has no memory), whether it is poisoned, STATUS, and what the
command holds then. -/
def State.glzElem (s : State) (node : Nat) (found : List Granule) (held : List Nat) (g : Grid) (off : Int) : Except EngStop (State × List Nat × Val × Bool × Nat) := do
  -- the 8-byte word that holds the element
  let b := off + gridBase g
  let lead : Int := b % 8
  let (s, held, ws, st) ← s.engRead node found held g.w0 (off - lead) 1
  let (x, bad) := ws.getD 0 (0, false)
  let es := gridEs g
  let v := elemVal (gridFmt g) (fld x (8 * lead.toNat) (8 * es))
  return (s, held, if st == 0 then v else .fin false 0 0, bad, st)

/-- Add an XS value. -/
def glzAdd (a : GlzSum) (x : Int) : GlzSum :=
  let (t, f) := xsAdd a.acc x
  { a with acc := t, nv := a.nv || f.nv }

/-- The number of the source unit that holds a term's element (R227): 64 bytes near, 16 far. -/
def termUnit (src : Grid) (dim : Nat) (t : (Nat × Nat × Nat) × Int) : Int := (gridBase src + pointOffset src dim t.1) / (unitSize src : Int)

/-- The terms of a point by the source units that hold them, in the order in which they are first needed. -/
def termUnits (src : Grid) (dim : Nat) (ts : List ((Nat × Nat × Nat) × Int)) : List (List ((Nat × Nat × Nat) × Int)) :=
  ((ts.map (termUnit src dim)).eraseDups).map (fun u => ts.filter (fun t => termUnit src dim t == u))

/-- Add the terms of one source unit to a sum, read in one step (R227, R281): NV of terms that hold both infinities and a NaN depends on their order. (DESIGN
CHOICE, log 85) -/
def State.glzSum (s : State) (node : Nat) (found : List Granule) (src : Grid) (dim sh : Nat) :
    List ((Nat × Nat × Nat) × Int) → List Nat → GlzSum → Except EngStop (State × List Nat × GlzSum)
  | [], held, a => .ok (s, held, a)
  | (p, w) :: r, held, a => do
    let (s, held, v, bad, st) ← s.glzElem node found held src (pointOffset src dim p)
    let a := glzAdd a (glzTerm v w sh)
    s.glzSum node found src dim sh r held { a with bad := a.bad || bad, st := max a.st st }

/-- `glz_round` (R278): code and flags of a total under format `fmt` and mode `rm`. -/
def glzRound (rm fmt : Nat) (x : Int) : Nat × FFlags := encodeVal rm (floatFormat fmt) (valOfXs x)

/-- What is written for one point: byte in its unit, code, poison. -/
abbrev GlzOut := Nat × Nat × Bool

/-- One point of a unit from its sum: what to write, flags, STATUS. `old` is the unit's old bytes with the marks of its words, for PROLONG.ADD. -/
def glzPointOut (dst : Grid) (g : Nat) (start : Int) (old : Nat × List Nat) (q : Nat) (a : GlzSum) : GlzOut × FFlags × Nat :=
  let b := (pointByte dst (glzDim g) q - start).toNat
  let oldBad := glzDir g == 2 && old.2.contains (b / 8)
  let a := if glzDir g == 2 && !oldBad then glzAdd a (xsOfVal (elemVal (gridFmt dst) (fld old.1 (8 * b) (8 * gridEs dst)))) else a
  let a := if oldBad then { a with bad := true, st := max a.st 1 } else a
  let (code, f) := glzRound (glzRm g) (gridFmt dst) a.acc
  ((b, code, a.bad), f.or { nv := a.nv }, a.st)

/-- The points of a unit from their sums. -/
def glzOuts (dst : Grid) (g : Nat) (start : Int) (old : Nat × List Nat) : List (Nat × GlzSum) → List GlzOut × FFlags × Nat
  | [] => ([], {}, 0)
  | (q, a) :: r =>
    let (o, f, st) := glzPointOut dst g start old q a
    let (os, fs, sts) := glzOuts dst g start old r
    (o :: os, f.or fs, max st sts)

/-- The outcome of the points on one 8-byte word of a unit: bytes written (mask by byte), their values, poison. -/
def wordOut (es w : Nat) (outs : List GlzOut) : Nat × Nat × Bool :=
  (outs.filter (fun o => o.1 / 8 == w)).foldl (fun (acc : Nat × Nat × Bool) o =>
    let k := o.1 % 8
    (Nat.lor acc.1 ((2 ^ es - 1) * 2 ^ k), setFld acc.2.1 (8 * k) (8 * es) o.2.1, acc.2.2 || o.2.2)) (0, 0, false)

/-- Bytes `i` to 7 of a word written where the mask has them. -/
def pokeMasked (poke : State → Nat → Nat → State) (mask v : Nat) : Nat → State → State
  | 0, s => s
  | n + 1, s =>
    let i := 7 - n
    pokeMasked poke mask v n (if bitAt mask i then poke s i (fld v (8 * i) 8) else s)

/-- Write the points of a near unit at scratchpad address `a`. -/
def State.putUnit (s : State) (a es : Nat) (outs : List GlzOut) : State :=
  (List.range 8).foldl (fun s w =>
    let (m, v, bad) := wordOut es w outs
    let s := if m == 0 then s else if m == 255 then s.poke (a + 8 * w) 8 v
      else pokeMasked (fun s i x => s.poke (a + 8 * w + i) 1 x) m v 8 s
    if bad then s.mark (a + 8 * w) 8 else s) s

/-- Write the points of a far unit at physical address `pa`. -/
def State.farPutUnit (s : State) (pa es : Nat) (outs : List GlzOut) : State :=
  (List.range 2).foldl (fun s w =>
    let (m, v, bad) := wordOut es w outs
    let s := if m == 0 then s else if m == 255 then s.farPoke (pa + 8 * w) 8 v
      else pokeMasked (fun s i x => s.farPoke (pa + 8 * w + i) 1 x) m v 8 s
    if bad then { s with farPoison := setAdd s.farPoison (pa / 8 + w) } else s) s

/-- Credit the bytes of a unit's points to the FILLING entries there. -/
def State.creditUnit (s : State) (a es : Nat) (outs : List GlzOut) : State :=
  outs.foldl (fun s o => s.creditAt (a + o.1) es) s

/-- The old unit that PROLONG.ADD adds to, from its words. -/
def oldUnit (ws : List (Nat × Bool)) : Nat × List Nat :=
  (packFields 64 (ws.map Prod.fst), (List.range ws.length).filter (fun i => (ws.getD i (0, false)).2))

/-- The block offset, the Glaze word, and the weight words of a command. -/
def glzOff (c : Cmd) : Nat := c.args.getD 9 0
def glzWord (c : Cmd) : Nat := c.args.getD 8 0
def glzTab (c : Cmd) : List Nat := c.args.drop 10

/-- After the last unit (R280, R282): the result word is written, and the completion is due. -/
def State.glzEnd (s : State) (node i : Nat) (c : Cmd) : Except EngStop State :=
  let a := spAddr node (glzOff c + 72)
  if !s.mayWrite a 8 then .error .wait
  else
    let s := ((s.poke a 8 (c.done * 2 ^ 32 + c.flags)).creditAt a 8).fillAt a 8
    .ok ((s.setCmd node i { c with closing := true }).later (.engineCompletion node i))

/-- The grids and the Glaze word's dimension of a command. -/
def glzSrc (c : Cmd) : Grid := gridAt c.args 0
def glzDst (c : Cmd) : Grid := gridAt c.args 4

/-- The unit of point `p` opens at this point. -/
def unitHead (dst : Grid) (dim p : Nat) : Nat := (unitPoints dst dim p).head?.getD p

/-- The lines of a unit whose last byte the command writes there: no point of a line lies in a unit still to come, and it does not hold the result
word, which is written last (R257, R280). -/
def State.fillUnit (s : State) (node : Nat) (c : Cmd) (q : Nat) (start : Int) (a : Nat) : State :=
  let dst := glzDst c
  let dim := glzDim (glzWord c)
  let later := (windowPoints dst dim (start / 128 * 128) 128).any (fun p => unitStart dst dim p != start && q < unitHead dst dim p)
  if later || a / 128 == spAddr node (glzOff c + 72) / 128 then s else s.fillAt (a / 128 * 128) 128

/-- The source units of a destination point. -/
def glzUnits (c : Cmd) (p : Nat) : List (List ((Nat × Nat × Nat) × Int)) :=
  let g := glzWord c
  termUnits (glzSrc c) (glzDim g) (pointTerms (glzSrc c) (glzDst c) g (glzTab c) p)

/-- What has been read for a point: the count of its source units, and their sum. -/
def GlzWork.part (w : GlzWork) (p : Nat) : Nat × GlzSum := mget w.parts p (0, {})

/-- Every term of the point is in its sum. -/
def glzSummed (c : Cmd) (p : Nat) : Bool := (glzUnits c p).length ≤ (c.work.part p).1

/-- Entry `k` holds bytes that the command will still read: a term of a point not in its sum yet, or an old unit not read yet (R257). -/
def State.glzStill (s : State) (c : Cmd) (k : Nat) : Bool :=
  let g := glzWord c
  let dim := glzDim g
  let src := glzSrc c
  let dst := glzDst c
  (List.range (gridN dst 0 * gridN dst 1 * gridN dst 2)).any (fun p =>
    c.pos ≤ unitHead dst dim p &&
      ((glzDir g == 2 && s.entryMeets k dst.w0 (unitStart dst dim p - gridBase dst) 64) ||
        ((glzUnits c p).drop (c.work.part p).1).any (fun u => u.any (fun t => s.entryMeets k src.w0 (pointOffset src dim t.1) (gridEs src)))))

/-- The command goes on, with the entries that it will still read. -/
def State.glzKeep (s : State) (node i : Nat) (c : Cmd) : State :=
  let (s, held) := s.releaseUnread c.tiles (s.glzStill c)
  s.setCmd node i { c with tiles := held }

/-- The same, with its next event due. -/
def State.glzNext (s : State) (node i : Nat) (c : Cmd) : State := (s.glzKeep node i c).later (.glzPoint node i)

/-- The read of the next source unit of point `p`: the command with the unit's terms in the sum (R281). -/
def State.glzRead (s : State) (node : Nat) (c : Cmd) (p : Nat) : Except EngStop (State × Cmd) := do
  let g := glzWord c
  let (n, a) := c.work.part p
  let (s, held, a) ← s.glzSum node c.found (glzSrc c) (glzDim g) (fld ((glzTab c).getD 0 0) 0 5) ((glzUnits c p).getD n []) c.tiles a
  return (s, { c with tiles := held, work := { c.work with parts := mset c.work.parts p (n + 1, a) } })

/-- The read of a far unit for PROLONG.ADD, an access of its own (R281). -/
def State.glzOld (s : State) (node i : Nat) (c : Cmd) (off : Int) : Except EngStop State := do
  let (s, held, ws, st) ← s.engRead node c.found c.tiles (glzDst c).w0 off 2
  return s.glzNext node i { c with tiles := held, status := if st == 2 then max c.status 2 else c.status,
                                   work := { c.work with old := some (oldUnit ws) } }

/-- The old bytes that a unit's points are added to: none but for PROLONG.ADD, those read before, or the near unit as it stands. -/
def State.glzOldBytes (s : State) (node : Nat) (c : Cmd) (off : Int) : Except EngStop (State × List Nat × (Nat × List Nat)) :=
  if glzDir (glzWord c) != 2 then .ok (s, c.tiles, (0, []))
  else
    match c.work.old with
    | some o => .ok (s, c.tiles, o)
    | none => do
      let (s, held, ws, _) ← s.engRead node c.found c.tiles (glzDst c).w0 off 8
      return (s, held, oldUnit ws)

/-- The write of the unit that opens at point `q`, its points all summed: with the read of a near one in the same step (R281). -/
def State.glzWrite (s : State) (node i : Nat) (c : Cmd) (q : Nat) : Except EngStop State := do
  let dst := glzDst c
  let dim := glzDim (glzWord c)
  let start := unitStart dst dim q
  let off := start - gridBase dst
  let pts := unitPoints dst dim q
  let (s, held, old) ← s.glzOldBytes node c off
  let (outs, f, st) := glzOuts dst (glzWord c) start old (pts.map (fun p => (p, (c.work.part p).2)))
  let parts := c.work.parts.filter (fun x => !pts.contains x.1)
  let c := { c with tiles := held, pos := q + 1, done := c.done + pts.length, work := { parts := parts },
                    flags := Nat.lor c.flags (flagBits f).toNat, status := max c.status st }
  match engAt dst.w0 off with
  | some (false, a) =>
    if !s.mayReach node a (unitSize dst) then .error .wait
    else return (((s.putUnit a (gridEs dst) outs).creditUnit a (gridEs dst) outs).fillUnit node c q start a).glzNext node i c
  | some (true, va) => do
    let pa ← s.engFar node va 16 accWrite
    let s := s.engTouch node va accWrite
    let s' := if s.noMem pa then s else (s.farPutUnit pa (gridEs dst) outs).farWrote (c.writer node i) pa 16
    return s'.glzNext node i (c.wrote s node va (if s.noMem pa then 2 else 0))
  | none => return s.glzNext node i { c with status := max c.status 2 }

/-- Something of the unit at the command's place has been read. -/
def glzBegun (c : Cmd) : Bool :=
  let dst := glzDst c
  let dim := glzDim (glzWord c)
  c.work.old.isSome || (unitPoints dst dim (nextUnit dst dim c.limit c.limit c.pos)).any (fun p => (c.work.part p).1 != 0)

/-- A command that may act: one whose slot is stopped finishes the unit under way, until its vat's image is begun (R283). -/
def State.glzLive (s : State) (node i : Nat) : Option Cmd :=
  match s.cmd? node i with
  | some c => if c.wait == .none && ((s.cmdUnstopped node i).isSome || (glzBegun c && !s.imageBegun node c.lid)) then some c else none
  | none => none

/-- The next access of a command: each source unit of each point of a destination unit is read in a step of its own, then the unit is written (R278,
R281). (DEDUCED, log 31) -/
def State.glzStep (s : State) (node i : Nat) : Option State :=
  match s.glzLive node i with
  | none => if (s.cmd? node i).isNone then some s else none
  | some c =>
    if c.closing then some s
    else
      s.cmdResult node i (.glzPoint node i) (
        let dst := glzDst c
        let dim := glzDim (glzWord c)
        let q := nextUnit dst dim c.limit c.limit c.pos
        if c.limit ≤ q then s.glzEnd node i c
        else
          match (unitPoints dst dim q).find? (fun p => !glzSummed c p) with
          | some p => (s.glzRead node { c with pos := q } p).map (fun r => r.1.glzNext node i r.2)
          | none =>
            if addrFar dst.w0 && glzDir (glzWord c) == 2 && c.work.old.isNone then s.glzOld node i c (unitStart dst dim q - gridBase dst)
            else s.glzWrite node i c q)

/-- The points summed in part at which the engine reads no further ahead, so that its image holds them (R283, R309). (DESIGN CHOICE, log 65) -/
abbrev partRoom : Nat := 32

/-- The engine reads the next source unit of point `p` ahead of its turn, where it can be read (R281). -/
def State.glzLook (s : State) (node i p : Nat) : State :=
  match s.cmdLive node i with
  | some c =>
    let room := c.work.parts.length < partRoom || (c.work.part p).1 != 0
    let ahead := p < c.limit && c.pos ≤ unitHead (glzDst c) (glzDim (glzWord c)) p && !glzSummed c p
    if c.kind == .glz && !c.closing && room && ahead then
      match s.glzRead node c p with
      | .ok (s, c) => (s.glzKeep node i c).stampCmd node i
      | .error _ => s
    else s
  | none => s

/-- GLZ_POINT (R278 to R282). -/
def execGlzPoint (node cmd : Nat) (s : State) : Host.Outcome State Fault Refusal :=
  .next (s.orLater (.glzPoint node cmd) (s.glzStep node cmd))

/-- The command writes no unit any more: it has written the last byte it writes to the lines it has begun (R257). -/
def State.fillBegun (s : State) (node : Nat) (c : Cmd) : State :=
  let dst := glzDst c
  let dim := glzDim (glzWord c)
  ((List.range c.pos).filter (fun q => unitHead dst dim q == q)).foldl (fun s q =>
    let start := unitStart dst dim q
    match engAt dst.w0 (start - gridBase dst) with
    | some (false, a) =>
      if (windowPoints dst dim (start / 128 * 128) 128).any (fun p => c.pos ≤ unitHead dst dim p) && a / 128 != spAddr node (glzOff c + 72) / 128 then
        s.fillAt (a / 128 * 128) 128
      else s
    | _ => s) s

/-- A fail at an access for a unit ends the command there, the result word still to be written (R282). -/
def State.failGlz (s : State) (node i : Nat) (c : Cmd) : State :=
  let s := (s.fillBegun node c).releaseAll c.tiles
  s.setCmd node i { c with limit := 0, status := max c.status 3, wait := .none, work := {}, tiles := [] }

/-! ### ENGQ (R268) and the replies to faults (R246, R257) -/

/-- A command waits on a line, entry or receiver: its next event cannot act. -/
def State.cmdStuck (s : State) (node i : Nat) (c : Cmd) : Bool :=
  c.wait == .none &&
  (match c.kind with
    | .xfer => (s.xferStep node i).isNone
    | .mcast => leastUnits c.recv != c.limit && c.recv.all (fun p => p.2 == c.limit || (s.mcastStep node i p.1).isNone)
    | .gath => !c.closing && (c.limit ≤ 16 * c.pos || (s.stageStep node i).isNone) && (c.limit ≤ c.issued || (s.issueStep node i).isNone) &&
        c.flight.all (fun f => (s.landStep node i f.1).isNone)
    | .glz => (s.glzStep node i).isNone
    | .fabric => !c.closing && (s.fabricStep node i).isNone)

/-- The state with no translation entry draining. -/
def State.undrained (s : State) : State := { s with tlb := s.tlb.map (fun p => (p.1, { p.2 with drain := false })) }

/-- The STATE of a command that waits for no message (Table 15-8): 0 where it can act or only a paused link holds it, 1 where a draining translation entry
holds it (R243), else 2. -/
def State.cmdState (s : State) (node i : Nat) (c : Cmd) : Nat :=
  let t : State := { s with pauses := [] }
  if !t.cmdStuck node i c then 0 else if !t.undrained.cmdStuck node i c then 1 else 2

/-- ENGQ (R268). -/
def execEngq (d a : Nat) (s : State) : Host.Outcome State Fault Refusal :=
  runInstr xENG 0x5B (do
    classes (fun s => [⟨0, d, isW d⟩, ⟨1, a, wSource s a⟩])
    let tag := (← srcW a).toNat % 2 ^ 16
    let st ← getS
    let mine := st.cmds.filter (fun p => p.1 / 8 == st.node && p.2.lid == st.curLid && ctlTag p.2.ctl.toNat == tag)
    dstW d (BitVec.ofNat 64 (match oldestCmd mine with
      | some (k, c) => engqWord (k % 8) c (st.cmdState st.node (k % 8) c)
      | none => 0))
    advance 4) s

end Sys2Proof.Machine
end

