-- ==== Sys2Proof/Machine/Streams.lean ====
section
/-!
DEFINITION. Streams (15 R258 to R260): STRM, STRMX, STRMOFF and the fetch of strips.
-/
namespace Sys2Proof.Machine
open Sys2Proof

/-- The least near offset of a descriptor's strips. -/
def strmLow (ws : List Nat) : Int :=
  let w (i : Nat) : Nat := ws.getD i 0
  let down (n : Nat) (st : Int) : Int := if st < 0 then ((n : Int) - 1) * st else 0
  (fld (w 0) 0 21 : Nat) + down (fld (w 1) 0 16) (signed 32 (fld (w 2) 0 32)) + down (fld (w 1) 16 16) (signed 32 (fld (w 2) 32 32)) +
    down (fld (w 1) 32 16) (signed 32 (fld (w 3) 0 32))

/-- The descriptor's checks of R259 but those of ADDR: `hnd` says that HND is an arithmetic handler of the rectangle. (DEDUCED, log 28) -/
def strmDescOk (ws : List Nat) (hnd : Nat → Bool) : Bool :=
  let w (i : Nat) : Nat := ws.getD i 0
  fld (w 1) 48 16 == 0 && fld (w 3) 42 22 == 0 &&
  fld (w 1) 0 16 != 0 && fld (w 1) 16 16 != 0 && fld (w 1) 32 16 != 0 && isVTag (fld (w 3) 32 5) &&
  fld (w 2) 0 6 == 0 && fld (w 2) 32 6 == 0 && fld (w 3) 0 6 == 0 && hnd (fld (w 3) 37 5) &&
  (addrFar (w 0) || !addrOk (w 0) || 0x2000 ≤ strmLow ws)

/-- STRM, and STRMX where `b` names the control word (R259). -/
def streamStart (d a : Nat) (b : Option Nat) (s : State) : Host.Outcome State Fault Refusal :=
  runInstr xENG 0x5B (do
    classes (fun s => [⟨0, d, 28 ≤ d && d ≤ 31⟩, ⟨1, a, wSource s a⟩] ++
      (match b with | some b => [⟨2, b, wSource s b⟩] | none => []))
    let off := (← srcW a).toNat
    let ctl ← match b with
      | some b => do pure (some (← srcW b))
      | none => pure none
    let st ← getS
    let u := d - 28
    let ctlCheck : List Check := match b, ctl with
      | some b, some w => [⟨2, b, st.ctlOk w.toNat 0 0 false⟩]
      | _, _ => []
    checkAll [⟨0, d, (st.strm? st.node u).isNone⟩, ⟨1, a, 0x2000 ≤ off && off < 0x200000⟩]
    if off % 32 != 0 then do
      checkAll ctlCheck
      alignmentTrap off
    else
      let ws := (List.range 4).map (fun i => 64 * i)
      let v ← readSp (spAddr st.node off) 32
      let desc := ws.map (fun i => fld v i 64)
      let hnd (h : Nat) : Bool := (st.entriesOf (4 * st.node + 2)).any (fun p =>
        p.2.v && p.2.slot == st.curEntry.slot && p.2.lhn == h)
      checkAll ([⟨1, a, strmDescOk desc hnd⟩] ++ ctlCheck)
      addrCheck (desc.getD 0 0) 64
      match ctl with
      | some w => applyAcq w.toNat
      | none => pure ()
      modS (fun s => (s.setStrm s.node u { lid := s.curLid, slot := s.curEntry.slot, desc := desc, ctl := ctl, relAt := s.acquiredAt ((ctl.getD 0).toNat) }).later
        (.streamFetch s.node u))
      advance 4) s

/-- STRM (R259). -/
def execStrm (d a : Nat) (s : State) : Host.Outcome State Fault Refusal := streamStart d a none s
/-- STRMX (R259). -/
def execStrmx (d a b : Nat) (s : State) : Host.Outcome State Fault Refusal := streamStart d a (some b) s

/-- STRMOFF (R259): changes nothing when the stream is off. -/
def execStrmoff (d : Nat) (s : State) : Host.Outcome State Fault Refusal :=
  runInstr xENG 0x5B (do
    classes (fun _ => [⟨0, d, 28 ≤ d && d ≤ 31⟩])
    modS (fun s =>
      match s.strm? s.node (d - 28) with
      | some u => (s.releaseAll u.tiles).streamOff s.node (d - 28) { u with tiles := [] }
      | none => s)
    advance 4) s

/-- The offset of strip `k` from ADDR (R258). -/
def stripOffset (desc : List Nat) (k : Nat) : Int :=
  let w (i : Nat) : Nat := desc.getD i 0
  let n0 := fld (w 1) 0 16
  let n1 := fld (w 1) 16 16
  (k % n0 : Nat) * signed 32 (fld (w 2) 0 32) + (k / n0 % n1 : Nat) * signed 32 (fld (w 2) 32 32) +
    (k / n0 / n1 : Nat) * signed 32 (fld (w 3) 0 32)

/-- A strip from number `p` on, of `n` at most, lies in entry `k`. -/
def State.stripMeets (s : State) (desc : List Nat) (k : Nat) : Nat → Nat → Bool
  | 0, _ => false
  | n + 1, p => s.entryMeets k (desc.getD 0 0) (stripOffset desc p) 64 || s.stripMeets desc k n (p + 1)

/-- What a stream unit does next, if it can act: the strip at its place is fetched, the stream ends where the strip leaves its
memory, or a wait begins (R257, R259). A strip with an uncorrectable word is delivered as it is stored, without a trap, and STATUS is POISON. (DESIGN CHOICE,
log 111) -/
def State.streamStep (s : State) (node unit : Nat) : Option State :=
  match s.strm? node unit with
  | none => some s
  | some u =>
    if u.ended || u.pos == stripCount u then some s
    else if 4 ≤ u.fetched.length || u.wait != .none || (s.slotOfLid node u.lid).any (fun p => p.2.stopped) then none
    else
      let w := u.desc.getD 0 0
      let i := stripOffset u.desc u.pos
      if (engAt w i).isNone then
        some ((s.releaseAll u.tiles).setStrm node unit { u with ended := true, status := max u.status 2, tiles := [] })
      else
        match s.engRead node u.found u.tiles w i 8 with
        | .ok (s, held, ws, st) =>
          let (s, held) := s.releaseUnread held (fun k => s.stripMeets u.desc k (stripCount u - (u.pos + 1)) (u.pos + 1))
          let u := { u with pos := u.pos + 1, fetched := u.fetched ++ [packFields 64 (ws.map Prod.fst)], status := max u.status st,
                            tiles := held, readAt := s.turn + 1 }
          some ((s.setStrm node unit u).later (.streamFetch node unit))
        | .error e =>
          match s.engWaits node (8 + unit) e with
          | some (s, w) => some ((s.setStrm node unit { u with wait := w }).later (.streamFetch node unit))
          | none => none

/-- STREAM_FETCH (R259). -/
def execStreamFetch (node unit : Nat) (s : State) : Host.Outcome State Fault Refusal :=
  .next (s.orLater (.streamFetch node unit) (s.streamStep node unit))

end Sys2Proof.Machine
end

