-- ==== Sys2Proof/Machine/Scalar.lean ====
section
/-!
DEFINITION. The scalar integer instructions (05 R71, R72) and the sixteen 16-bit operations (03 R33, R34): the W forms here, the V lanes
of the 16-bit form over the lane operations of this file.
-/
namespace Sys2Proof.Machine
open Sys2Proof

/-! ### 64-bit operations (Table 5-1) -/

def aluMulh (a b : Word) : Word := BitVec.ofInt 64 (a.toInt * b.toInt / 2 ^ 64)
def aluMulhu (a b : Word) : Word := BitVec.ofNat 64 (a.toNat * b.toNat / 2 ^ 64)
def aluDiv (a b : Word) : Word := if b == 0 then BitVec.allOnes 64 else a.sdiv b
def aluDivu (a b : Word) : Word := if b == 0 then BitVec.allOnes 64 else a / b
def aluRem (a b : Word) : Word := if b == 0 then a else a.srem b
def aluRemu (a b : Word) : Word := if b == 0 then a else a % b
def aluAndn (a b : Word) : Word := a &&& ~~~b
def aluShl (a b : Word) : Word := if 64 ≤ b.toNat then 0 else a <<< b.toNat
def aluShr (a b : Word) : Word := if 64 ≤ b.toNat then 0 else a >>> b.toNat
def aluSar (a b : Word) : Word := if 64 ≤ b.toNat then a.sshiftRight 63 else a.sshiftRight b.toNat
def aluRor (a b : Word) : Word := a.rotateRight (b.toNat % 64)
def aluMin (a b : Word) : Word := if a.slt b then a else b
def aluMax (a b : Word) : Word := if a.slt b then b else a
def aluMinu (a b : Word) : Word := if a < b then a else b
def aluMaxu (a b : Word) : Word := if a < b then b else a
def aluSlt (a b : Word) : Word := if a.slt b then 1 else 0
def aluSltu (a b : Word) : Word := if a < b then 1 else 0
def aluSeq (a b : Word) : Word := if a == b then 1 else 0
def aluClz (a : Word) : Word := if a == 0 then 64 else BitVec.ofNat 64 (63 - Nat.log2 a.toNat)
/-- Trailing zeros, counted up to `n` bits. -/
def trailing (x : Nat) : Nat → Nat
  | 0 => 0
  | n + 1 => if x % 2 == 1 then 0 else 1 + trailing (x / 2) n
def aluCtz (a : Word) : Word := BitVec.ofNat 64 (trailing a.toNat 64)
/-- One bits among the low `n`. -/
def ones (x : Nat) : Nat → Nat
  | 0 => 0
  | n + 1 => x % 2 + ones (x / 2) n
def aluPopc (a : Word) : Word := BitVec.ofNat 64 (ones a.toNat 64)
/-- The low `n` bytes in reverse order. -/
def swapBytes (x : Nat) : Nat → Nat
  | 0 => 0
  | n + 1 => x % 256 * 256 ^ n + swapBytes (x / 256) n
def aluBswap (a : Word) : Word := BitVec.ofNat 64 (swapBytes a.toNat 8)
def aluSext (a b : Word) : Word := if 63 ≤ b.toNat then a else BitVec.ofInt 64 (signed (b.toNat + 1) a.toNat)

/-- An absolute near address (R72, AXY): b packs x and y as K5 does. -/
def aluAxy (a b : Word) : Word :=
  BitVec.ofNat 64 (fld b.toNat 0 6 * 2 ^ 26 + fld b.toNat 6 5 * 2 ^ 21 + fld a.toNat 0 21)
/-- A near address relative to (x, y) (R72, AREL): all ones off the mesh. -/
def aluArel (x y : Word) (a b : Word) : Word :=
  let x' : Int := x.toNat + signed 8 (fld b.toNat 0 8)
  let y' : Int := y.toNat + signed 8 (fld b.toNat 8 8)
  if 0 ≤ x' && x' ≤ 63 && 0 ≤ y' && y' ≤ 31 then
    BitVec.ofNat 64 (x'.toNat * 2 ^ 26 + y'.toNat * 2 ^ 21 + fld a.toNat 0 21)
  else BitVec.allOnes 64

/-! ### The forms -/

/-- Form A with two sources (R71). -/
def aluA (op : Nat) (f : Word → Word → Word) (d a b : Nat) (s : State) : Host.Outcome State Fault Refusal :=
  runInstr xBASE op (do
    classes (fun s => [⟨0, d, wDest s d⟩, ⟨1, a, wSource s a⟩, ⟨2, b, wSource s b⟩])
    let x ← srcW a
    let y ← srcW b
    dstW d (f x y)
    advance 4) s

/-- Form A with one source. -/
def aluU (op : Nat) (f : Word → Word) (d a : Nat) (s : State) : Host.Outcome State Fault Refusal :=
  runInstr xBASE op (do
    classes (fun s => [⟨0, d, wDest s d⟩, ⟨1, a, wSource s a⟩])
    let x ← srcW a
    dstW d (f x)
    advance 4) s

/-- Form K: b is the constant word Kk. -/
def aluK (op : Nat) (f : Word → Word → Word) (d a k : Nat) (s : State) : Host.Outcome State Fault Refusal :=
  runInstr xBASE op (do
    classes (fun s => [⟨0, d, wDest s d⟩, ⟨1, a, wSource s a⟩])
    let x ← srcW a
    let y ← readK k
    dstW d (f x y)
    advance 4) s

/-- Immediate form: b is the count. -/
def aluImm (op : Nat) (f : Word → Word → Word) (d a c : Nat) (s : State) : Host.Outcome State Fault Refusal :=
  runInstr xBASE op (do
    classes (fun s => [⟨0, d, wDest s d⟩, ⟨1, a, wSource s a⟩])
    let x ← srcW a
    dstW d (f x (BitVec.ofNat 64 c))
    advance 4) s

/-! ### Lane operations (03 Table 3-2, 05 Table 5-3) -/

/-- An integer lane operation on lanes of `w` bits, wrapping (R50); `sg` for S tags. -/
def intLane (op : LaneOp) (w : Nat) (sg : Bool) (x y d : Nat) : Nat :=
  let m := 2 ^ w
  let less := if sg then signed w x < signed w y else x % m < y % m
  match op with
  | .add => (x + y) % m
  | .sub => (x + (m - y % m)) % m
  | .mul => x * y % m
  | .div => 0
  | .min => if less then x else y
  | .max => if less then y else x
  | .fma => (x * y + d) % m
  | .fms => (x * y + (m - d % m)) % m
  | .and => Nat.land x y
  | .or => Nat.lor x y
  | .xor => Nat.xor x y
  | .andn => Nat.land x (m - 1 - y % m)
  | .shl => if w ≤ y then 0 else x * 2 ^ y % m
  | .shr => if w ≤ y then 0 else x / 2 ^ y
  | .sar => if w ≤ y then wrapN w (if signed w x < 0 then -1 else 0) else wrapN w (signed w x / ((2 ^ y : Nat) : Int))
  | .neg => (m - y % m) % m
  | .abs => if sg && signed w y < 0 then (m - y % m) % m else y
  | .not => m - 1 - y % m

/-- A float lane operation (R55 to R57); `ops` gives the order in which R56 looks for a NaN in a two-operand sum or
product. -/
def floatLane (op : LaneOp) (rm t x y d : Nat) (bFirst : Bool) : Nat × FFlags :=
  let f := floatFormat t
  let w := elemBits t
  let vx := decodeFloat f x
  let vy := decodeFloat f y
  let ops := if bFirst then [vy, vx] else [vx, vy]
  match op with
  | .add => addFloat rm f ops false vx vy
  | .sub => addFloat rm f ops true vx vy
  | .mul => mulFloat rm f ops vx vy
  | .div => divFloat rm f vx vy
  | .fma => fmaFloat rm f false vx vy (decodeFloat f d)
  | .fms => fmaFloat rm f true vx vy (decodeFloat f d)
  | .min => (if fkey w y < fkey w x then y else x, {})
  | .max => (if fkey w x < fkey w y then y else x, {})
  | .neg => ((y + 2 ^ (w - 1)) % 2 ^ w, {})
  | .abs => (y % 2 ^ (w - 1), {})
  | _ => (x, {})

/-- A lane operation under a lane tag. -/
def laneOp (op : LaneOp) (rm t x y d : Nat) (bFirst : Bool) : Nat × FFlags :=
  if isIntTag t then (intLane op (elemBits t) (isSTag t) x y d, {}) else floatLane op rm t x y d bFirst

/-- The operation takes integer tags only. -/
def intOnly : LaneOp → Bool
  | .and | .or | .xor | .andn | .shl | .shr | .sar | .not => true
  | _ => false

/-- The operation reads only b. -/
def unaryLane : LaneOp → Bool
  | .neg | .abs | .not => true
  | _ => false

/-- Whether a lane operation allows a tag (Table 3-2, Table 5-3). -/
def laneAllowed (op : LaneOp) (t : Nat) : Bool :=
  if intOnly op then isIntTag t
  else if op == .div then isLaneFloat t
  else isLaneTag t

/-! ### The 16-bit form (R33, R34) -/

/-- A 16-bit instruction: `f` on W registers, `op` on V lanes. Where d and b name one stream register, d's strip is popped first. (DESIGN CHOICE, log 80) -/
def lane16 (op : LaneOp) (f : Word → Word → Word) (d b k : Nat) (s : State) : Host.Outcome State Fault Refusal :=
  runInstr xBASE 0 (do
    if k == 1 then
      checkAll [⟨0, d, d < 16⟩]
      let x ← if unaryLane op then pure 0 else readW d
      let y ← readK b
      writeW d (f x y)
    else if d < 16 && b < 16 then
      let x ← if unaryLane op then pure 0 else readW d
      let y ← readW b
      writeW d (f x y)
    else if d < 16 || b < 16 then illegalOperand b 2
    else
      let td ← readTag (d - 16)
      let x ← if unaryLane op then pure (⟨td, 0⟩ : VVal) else readV (d - 16)
      let y ← readV (b - 16)
      if !unaryLane op && x.tag != y.tag then formatTrap x.tag y.tag 2
      else if !laneAllowed op y.tag then formatTrap 0 y.tag 2
      else
        let rm ← roundMode
        let w := elemBits y.tag
        let rs := (List.range (lanesOf y.tag)).map (fun i =>
          laneOp op rm y.tag (laneAt w x.val i) (laneAt w y.val i) 0 true)
        dstV d y.tag (packFields w (rs.map (·.1)))
        raiseFlags (allFlags (rs.map (·.2)))
    advance 2) s

/-- MOV, 16-bit, k = 1 (R33): the constant word Kb. -/
def execMov16 (d b : Nat) (s : State) : Host.Outcome State Fault Refusal :=
  runInstr xBASE 0 (do
    checkAll [⟨0, d, d < 16⟩]
    let y ← readK b
    writeW d y
    advance 2) s
/-- ADD, 16-bit (Table 3-2). -/
def execAdd16 (d b k : Nat) (s : State) : Host.Outcome State Fault Refusal :=
  lane16 .add (fun x y => x + y) d b k s
/-- SUB, 16-bit (Table 3-2). -/
def execSub16 (d b k : Nat) (s : State) : Host.Outcome State Fault Refusal :=
  lane16 .sub (fun x y => x - y) d b k s
/-- MUL, 16-bit (Table 3-2). -/
def execMul16 (d b k : Nat) (s : State) : Host.Outcome State Fault Refusal :=
  lane16 .mul (fun x y => x * y) d b k s
/-- MIN, 16-bit (Table 3-2). -/
def execMin16 (d b k : Nat) (s : State) : Host.Outcome State Fault Refusal :=
  lane16 .min aluMin d b k s
/-- MAX, 16-bit (Table 3-2). -/
def execMax16 (d b k : Nat) (s : State) : Host.Outcome State Fault Refusal :=
  lane16 .max aluMax d b k s
/-- AND, 16-bit (Table 3-2). -/
def execAnd16 (d b k : Nat) (s : State) : Host.Outcome State Fault Refusal :=
  lane16 .and (fun x y => x &&& y) d b k s
/-- OR, 16-bit (Table 3-2). -/
def execOr16 (d b k : Nat) (s : State) : Host.Outcome State Fault Refusal :=
  lane16 .or (fun x y => x ||| y) d b k s
/-- XOR, 16-bit (Table 3-2). -/
def execXor16 (d b k : Nat) (s : State) : Host.Outcome State Fault Refusal :=
  lane16 .xor (fun x y => x ^^^ y) d b k s
/-- ANDN, 16-bit (Table 3-2). -/
def execAndn16 (d b k : Nat) (s : State) : Host.Outcome State Fault Refusal :=
  lane16 .andn aluAndn d b k s
/-- SHL, 16-bit (Table 3-2). -/
def execShl16 (d b k : Nat) (s : State) : Host.Outcome State Fault Refusal :=
  lane16 .shl aluShl d b k s
/-- SHR, 16-bit (Table 3-2). -/
def execShr16 (d b k : Nat) (s : State) : Host.Outcome State Fault Refusal :=
  lane16 .shr aluShr d b k s
/-- SAR, 16-bit (Table 3-2). -/
def execSar16 (d b k : Nat) (s : State) : Host.Outcome State Fault Refusal :=
  lane16 .sar aluSar d b k s
/-- NEG, 16-bit (Table 3-2). -/
def execNeg16 (d b k : Nat) (s : State) : Host.Outcome State Fault Refusal :=
  lane16 .neg (fun _ y => 0 - y) d b k s
/-- ABS, 16-bit (Table 3-2). -/
def execAbs16 (d b k : Nat) (s : State) : Host.Outcome State Fault Refusal :=
  lane16 .abs (fun _ y => if y.slt 0 then 0 - y else y) d b k s
/-- NOT, 16-bit (Table 3-2). -/
def execNot16 (d b k : Nat) (s : State) : Host.Outcome State Fault Refusal :=
  lane16 .not (fun _ y => ~~~y) d b k s

/-! ### Form A (Table 5-1) -/

/-- ADD (Table 5-1). -/
def execAdd (d a b : Nat) (s : State) : Host.Outcome State Fault Refusal :=
  aluA 0x0 (fun x y => x + y) d a b s
/-- SUB (Table 5-1). -/
def execSub (d a b : Nat) (s : State) : Host.Outcome State Fault Refusal :=
  aluA 0x0 (fun x y => x - y) d a b s
/-- MUL (Table 5-1). -/
def execMul (d a b : Nat) (s : State) : Host.Outcome State Fault Refusal :=
  aluA 0x0 (fun x y => x * y) d a b s
/-- MULH (Table 5-1). -/
def execMulh (d a b : Nat) (s : State) : Host.Outcome State Fault Refusal :=
  aluA 0x0 aluMulh d a b s
/-- MULHU (Table 5-1). -/
def execMulhu (d a b : Nat) (s : State) : Host.Outcome State Fault Refusal :=
  aluA 0x0 aluMulhu d a b s
/-- DIV (Table 5-1). -/
def execDiv (d a b : Nat) (s : State) : Host.Outcome State Fault Refusal :=
  aluA 0x0 aluDiv d a b s
/-- DIVU (Table 5-1). -/
def execDivu (d a b : Nat) (s : State) : Host.Outcome State Fault Refusal :=
  aluA 0x0 aluDivu d a b s
/-- REM (Table 5-1). -/
def execRem (d a b : Nat) (s : State) : Host.Outcome State Fault Refusal :=
  aluA 0x0 aluRem d a b s
/-- AND (Table 5-1). -/
def execAnd (d a b : Nat) (s : State) : Host.Outcome State Fault Refusal :=
  aluA 0x1 (fun x y => x &&& y) d a b s
/-- OR (Table 5-1). -/
def execOr (d a b : Nat) (s : State) : Host.Outcome State Fault Refusal :=
  aluA 0x1 (fun x y => x ||| y) d a b s
/-- XOR (Table 5-1). -/
def execXor (d a b : Nat) (s : State) : Host.Outcome State Fault Refusal :=
  aluA 0x1 (fun x y => x ^^^ y) d a b s
/-- ANDN (Table 5-1). -/
def execAndn (d a b : Nat) (s : State) : Host.Outcome State Fault Refusal :=
  aluA 0x1 aluAndn d a b s
/-- SHL (Table 5-1). -/
def execShl (d a b : Nat) (s : State) : Host.Outcome State Fault Refusal :=
  aluA 0x1 aluShl d a b s
/-- SHR (Table 5-1). -/
def execShr (d a b : Nat) (s : State) : Host.Outcome State Fault Refusal :=
  aluA 0x1 aluShr d a b s
/-- SAR (Table 5-1). -/
def execSar (d a b : Nat) (s : State) : Host.Outcome State Fault Refusal :=
  aluA 0x1 aluSar d a b s
/-- ROR (Table 5-1). -/
def execRor (d a b : Nat) (s : State) : Host.Outcome State Fault Refusal :=
  aluA 0x1 aluRor d a b s
/-- MIN (Table 5-1). -/
def execMin (d a b : Nat) (s : State) : Host.Outcome State Fault Refusal :=
  aluA 0x2 aluMin d a b s
/-- MAX (Table 5-1). -/
def execMax (d a b : Nat) (s : State) : Host.Outcome State Fault Refusal :=
  aluA 0x2 aluMax d a b s
/-- MINU (Table 5-1). -/
def execMinu (d a b : Nat) (s : State) : Host.Outcome State Fault Refusal :=
  aluA 0x2 aluMinu d a b s
/-- MAXU (Table 5-1). -/
def execMaxu (d a b : Nat) (s : State) : Host.Outcome State Fault Refusal :=
  aluA 0x2 aluMaxu d a b s
/-- SLT (Table 5-1). -/
def execSlt (d a b : Nat) (s : State) : Host.Outcome State Fault Refusal :=
  aluA 0x2 aluSlt d a b s
/-- SLTU (Table 5-1). -/
def execSltu (d a b : Nat) (s : State) : Host.Outcome State Fault Refusal :=
  aluA 0x2 aluSltu d a b s
/-- SEQ (Table 5-1). -/
def execSeq (d a b : Nat) (s : State) : Host.Outcome State Fault Refusal :=
  aluA 0x2 aluSeq d a b s
/-- REMU (Table 5-1). -/
def execRemu (d a b : Nat) (s : State) : Host.Outcome State Fault Refusal :=
  aluA 0x2 aluRemu d a b s
/-- SEXT (Table 5-1). -/
def execSext (d a b : Nat) (s : State) : Host.Outcome State Fault Refusal :=
  aluA 0x3 aluSext d a b s
/-- AXY (Table 5-1). -/
def execAxy (d a b : Nat) (s : State) : Host.Outcome State Fault Refusal :=
  aluA 0x3 aluAxy d a b s
/-- MOV (Table 5-1). -/
def execMov (d a : Nat) (s : State) : Host.Outcome State Fault Refusal :=
  aluU 0x3 (fun x => x) d a s
/-- CLZ (Table 5-1). -/
def execClz (d a : Nat) (s : State) : Host.Outcome State Fault Refusal :=
  aluU 0x3 aluClz d a s
/-- CTZ (Table 5-1). -/
def execCtz (d a : Nat) (s : State) : Host.Outcome State Fault Refusal :=
  aluU 0x3 aluCtz d a s
/-- POPC (Table 5-1). -/
def execPopc (d a : Nat) (s : State) : Host.Outcome State Fault Refusal :=
  aluU 0x3 aluPopc d a s
/-- BSWAP (Table 5-1). -/
def execBswap (d a : Nat) (s : State) : Host.Outcome State Fault Refusal :=
  aluU 0x3 aluBswap d a s
/-- AREL (R72): K0 and K1 are the executing vat's identity words. -/
def execArel (d a b : Nat) (s : State) : Host.Outcome State Fault Refusal :=
  runInstr xBASE 0x3 (do
    classes (fun s => [⟨0, d, wDest s d⟩, ⟨1, a, wSource s a⟩, ⟨2, b, wSource s b⟩])
    let x ← srcW a
    let y ← srcW b
    let kx ← readK 0
    let ky ← readK 1
    dstW d (aluArel kx ky x y)
    advance 4) s
/-- AREL, form K (R72). -/
def execArelK (d a k : Nat) (s : State) : Host.Outcome State Fault Refusal :=
  runInstr xBASE 0xD (do
    classes (fun s => [⟨0, d, wDest s d⟩, ⟨1, a, wSource s a⟩])
    let x ← srcW a
    let y ← readK k
    let kx ← readK 0
    let ky ← readK 1
    dstW d (aluArel kx ky x y)
    advance 4) s

/-! ### Form K and the immediate shifts (Table 5-1) -/

/-- ADD, form K (Table 5-1). -/
def execAddK (d a k : Nat) (s : State) : Host.Outcome State Fault Refusal :=
  aluK 0x4 (fun x y => x + y) d a k s
/-- SUB, form K (Table 5-1). -/
def execSubK (d a k : Nat) (s : State) : Host.Outcome State Fault Refusal :=
  aluK 0x4 (fun x y => x - y) d a k s
/-- MUL, form K (Table 5-1). -/
def execMulK (d a k : Nat) (s : State) : Host.Outcome State Fault Refusal :=
  aluK 0x5 (fun x y => x * y) d a k s
/-- MULH, form K (Table 5-1). -/
def execMulhK (d a k : Nat) (s : State) : Host.Outcome State Fault Refusal :=
  aluK 0x5 aluMulh d a k s
/-- AND, form K (Table 5-1). -/
def execAndK (d a k : Nat) (s : State) : Host.Outcome State Fault Refusal :=
  aluK 0x6 (fun x y => x &&& y) d a k s
/-- OR, form K (Table 5-1). -/
def execOrK (d a k : Nat) (s : State) : Host.Outcome State Fault Refusal :=
  aluK 0x6 (fun x y => x ||| y) d a k s
/-- XOR, form K (Table 5-1). -/
def execXorK (d a k : Nat) (s : State) : Host.Outcome State Fault Refusal :=
  aluK 0x7 (fun x y => x ^^^ y) d a k s
/-- ANDN, form K (Table 5-1). -/
def execAndnK (d a k : Nat) (s : State) : Host.Outcome State Fault Refusal :=
  aluK 0x7 aluAndn d a k s
/-- MIN, form K (Table 5-1). -/
def execMinK (d a k : Nat) (s : State) : Host.Outcome State Fault Refusal :=
  aluK 0x8 aluMin d a k s
/-- MAX, form K (Table 5-1). -/
def execMaxK (d a k : Nat) (s : State) : Host.Outcome State Fault Refusal :=
  aluK 0x8 aluMax d a k s
/-- MINU, form K (Table 5-1). -/
def execMinuK (d a k : Nat) (s : State) : Host.Outcome State Fault Refusal :=
  aluK 0x9 aluMinu d a k s
/-- MAXU, form K (Table 5-1). -/
def execMaxuK (d a k : Nat) (s : State) : Host.Outcome State Fault Refusal :=
  aluK 0x9 aluMaxu d a k s
/-- SLT, form K (Table 5-1). -/
def execSltK (d a k : Nat) (s : State) : Host.Outcome State Fault Refusal :=
  aluK 0xa aluSlt d a k s
/-- SLTU, form K (Table 5-1). -/
def execSltuK (d a k : Nat) (s : State) : Host.Outcome State Fault Refusal :=
  aluK 0xa aluSltu d a k s
/-- SEQ, form K (Table 5-1). -/
def execSeqK (d a k : Nat) (s : State) : Host.Outcome State Fault Refusal :=
  aluK 0xb aluSeq d a k s
/-- DIV, form K (Table 5-1). -/
def execDivK (d a k : Nat) (s : State) : Host.Outcome State Fault Refusal :=
  aluK 0xc aluDiv d a k s
/-- DIVU, form K (Table 5-1). -/
def execDivuK (d a k : Nat) (s : State) : Host.Outcome State Fault Refusal :=
  aluK 0xc aluDivu d a k s
/-- AXY, form K (Table 5-1). -/
def execAxyK (d a k : Nat) (s : State) : Host.Outcome State Fault Refusal :=
  aluK 0xd aluAxy d a k s
/-- MOV, form K (Table 5-1): the a field is zero. -/
def execMovK (d k : Nat) (s : State) : Host.Outcome State Fault Refusal :=
  runInstr xBASE 0xB (do
    classes (fun s => [⟨0, d, wDest s d⟩])
    let y ← readK k
    dstW d y
    advance 4) s
/-- SHL by an immediate count (Table 5-1). -/
def execShlImm (d a c : Nat) (s : State) : Host.Outcome State Fault Refusal :=
  aluImm 0xe aluShl d a c s
/-- SHR by an immediate count (Table 5-1). -/
def execShrImm (d a c : Nat) (s : State) : Host.Outcome State Fault Refusal :=
  aluImm 0xe aluShr d a c s
/-- SAR by an immediate count (Table 5-1). -/
def execSarImm (d a c : Nat) (s : State) : Host.Outcome State Fault Refusal :=
  aluImm 0xf aluSar d a c s
/-- ROR by an immediate count (Table 5-1). -/
def execRorImm (d a c : Nat) (s : State) : Host.Outcome State Fault Refusal :=
  aluImm 0xf aluRor d a c s

end Sys2Proof.Machine
end

