-- ==== Sys2Proof/Machine/Vector.lean ====
section
/-!
DEFINITION. The vector instructions (05 R76 to R87): lane arithmetic in its four forms, VSEL, the compares, VDOT,
VPERM, VBCAST, VEXT, VINS, the unary instructions, VCVT, VTAG, VRED and VNZS. Tags are checked in field order a, b, d (R68); the
classes of all fields come before them and the register bounds of a relative field between the two (R28).
-/
namespace Sys2Proof.Machine
open Sys2Proof

/-- A tag from 0x01 to 0x0F: lanes of one byte or more. -/
def isLane15 (t : Nat) : Bool := 1 ≤ t && t ≤ 15

/-- Lane `i` under a tag from 0x01 to 0x0F; the unused bits of E3M2 and E2M3 are ignored (R49). (DEDUCED, log 77) -/
def lane15 (t v i : Nat) : Nat :=
  let x := laneAt (elemBits t) v i
  if t == 14 || t == 15 then x % 64 else x

/-- The low bits of a word as a lane of a tag; the unused bits of E3M2 and E2M3 are zero (R82). -/
def lowLane (t : Nat) (w : Word) : Nat :=
  if t == 14 || t == 15 then w.toNat % 64 else w.toNat % 2 ^ elemBits t

/-- A lane value as a W register: S lanes sign-extended, all others zero-extended (R82, R86). -/
def laneToW (t x : Nat) : Word :=
  if isSTag t then BitVec.ofInt 64 (signed (elemBits t) x) else BitVec.ofNat 64 x

/-- The class check of a b source. -/
def bCheck (s : State) : BSrc → List Check
  | .field f => [⟨2, f, vSource s f⟩]
  | _ => []

/-- The b operand of a lane instruction under tag `t` of operand a (R76): a relative register's number `n`
has been found beforehand. A constant fills every lane with its low bits, a count is every lane. -/
def bOperand (b : BSrc) (n t : Nat) : M VVal :=
  match b with
  | .field f => srcV f
  | .rel _ => readV n
  | .const k => do
    let w ← readK k
    return ⟨t, packFields (elemBits t) (List.replicate (lanesOf t) w.toNat)⟩
  | .imm c => return ⟨t, packFields (elemBits t) (List.replicate (lanesOf t) c)⟩

/-- The register number of a relative b operand (R28, R78). -/
def bRel : BSrc → M Nat
  | .rel f => relV f 2
  | _ => return 0

/-- Operands a and b with the checks of R76: a's tag is accepted, b's is the same. A relative operand out of bounds traps before an empty source
blocks. (DESIGN CHOICE, log 102) -/
def lanePair (ok : Nat → Bool) (a : Nat) (b : BSrc) : M (VVal × VVal) := do
  let n ← bRel b
  let x ← srcV a
  let y ← bOperand b n x.tag
  if !ok x.tag then formatTrap 0 x.tag 1
  else if y.tag != x.tag then formatTrap x.tag y.tag 2
  else return (x, y)

/-- The operation reads d. (DEDUCED, log 80) -/
def readsD : LaneOp → Bool
  | .fma | .fms => true
  | _ => false

/-- A lane instruction (R76). An empty source blocks before the tag checks, and these come before the room of a full destination. (DEDUCED, log 102) -/
def laneVec (op : LaneOp) (opc d a m : Nat) (b : BSrc) (s : State) : Host.Outcome State Fault Refusal :=
  runInstr xVEC opc (do
    classes (fun s => [⟨0, d, if readsD op then isV d else vDest s d⟩, ⟨1, a, vSource s a⟩] ++ bCheck s b)
    let (x, y) ← lanePair (laneAllowed op) a b
    let z ← if readsD op then readV (d - 16) else pure ⟨x.tag, 0⟩
    if z.tag != x.tag then formatTrap x.tag z.tag 0
    else
      let mk ← laneMask m
      let rm ← roundMode
      let w := elemBits x.tag
      let (ls, fs) := laneResults ((List.range (lanesOf x.tag)).map (fun i =>
        if activeLane mk i then
          some (laneOp op rm x.tag (laneAt w x.val i) (laneAt w y.val i) (laneAt w z.val i) false)
        else none))
      dstLanes d x.tag w ls
      raiseFlags fs
      advance 4) s

/-- VSEL (R77): the mask field is the selector M0 to M7. -/
def selVec (opc d a m : Nat) (b : BSrc) (s : State) : Host.Outcome State Fault Refusal :=
  runInstr xVEC opc (do
    classes (fun s => [⟨0, d, vDest s d⟩, ⟨1, a, vSource s a⟩] ++ bCheck s b)
    let (x, y) ← lanePair isLane15 a b
    let sel ← readM m
    dstV d x.tag (packFields (elemBits x.tag) ((List.range (lanesOf x.tag)).map (fun i =>
      if bitAt sel.toNat i then lane15 x.tag x.val i else lane15 x.tag y.val i)))
    advance 4) s

/-- The relation of two lanes (R79). -/
def relHolds (r : LaneRel) (t x y : Nat) : Bool :=
  match r with
  | .eq => x == y
  | .lt =>
    if isIntTag t then intVal t x < intVal t y else fkey (elemBits t) x < fkey (elemBits t) y
  | .le =>
    if isIntTag t then intVal t x ≤ intVal t y else fkey (elemBits t) x ≤ fkey (elemBits t) y

/-- The number whose bit `i` is `f i`, for `i` below `n`. -/
def bitsFrom (f : Nat → Bool) : Nat → Nat
  | 0 => 0
  | n + 1 => bitsFrom f n + (if f n then 2 ^ n else 0)

/-- A compare (R79). -/
def cmpVec (r : LaneRel) (opc d a m : Nat) (b : BSrc) (s : State) : Host.Outcome State Fault Refusal :=
  runInstr xVEC opc (do
    classes (fun s => [⟨0, d, isM d⟩, ⟨1, a, vSource s a⟩] ++ bCheck s b)
    let (x, y) ← lanePair isLaneTag a b
    let mk ← laneMask m
    let w := elemBits x.tag
    writeM (d - 56) (BitVec.ofNat 64 (bitsFrom
      (fun i => activeLane mk i && relHolds r x.tag (laneAt w x.val i) (laneAt w y.val i)) (lanesOf x.tag)))
    advance 4) s

/-- Products and further terms summed exactly and rounded once into `f` (R66, R80, Table 4-9): a NaN term gives
the canonical NaN, alone with no flag; 0 × ∞ or infinities of both signs give it with NV. -/
def chunkSum (rm : Nat) (f : FloatFormat) (ps : List (Val × Val)) (extra : List Val) : Nat × FFlags :=
  let qs := ps.map (fun p => mulVal p.1 p.2)
  let terms := qs.map (·.1) ++ extra
  let nv := qs.any (·.2) || (terms.any (isInfOf false) && terms.any (isInfOf true))
  if nv then (canonNan f false, { nv := true })
  else if terms.any isNan then (canonNan f false, {})
  else if terms.isEmpty then (0, {})
  else sumRound rm f terms

/-- VDOT (R80). -/
def dotVec (opc d a m : Nat) (b : BSrc) (s : State) : Host.Outcome State Fault Refusal :=
  runInstr xVEC opc (do
    classes (fun s => [⟨0, d, vDest s d⟩, ⟨1, a, vSource s a⟩] ++ bCheck s b)
    let (x, y) ← lanePair isLaneTag a b
    let mk ← laneMask m
    let rm ← roundMode
    let w := elemBits x.tag
    let ps := ((List.range (lanesOf x.tag)).filter (activeLane mk)).map (fun i => (laneAt w x.val i, laneAt w y.val i))
    let r : Nat × FFlags :=
      if isIntTag x.tag then (ps.foldl (fun acc p => acc + p.1 * p.2) 0 % 2 ^ w, {})
      else
        let f := floatFormat x.tag
        chunkSum rm f (ps.map (fun p => (decodeFloat f p.1, decodeFloat f p.2))) []
    dstV d x.tag r.1
    raiseFlags r.2
    advance 4) s

/-- VPERM (R81). -/
def permVec (opc d a m : Nat) (b : BSrc) (s : State) : Host.Outcome State Fault Refusal :=
  runInstr xVEC opc (do
    classes (fun s => [⟨0, d, vDest s d⟩, ⟨1, a, vSource s a⟩] ++ bCheck s b)
    let n ← bRel b
    let x ← srcV a
    let y ← bOperand b n x.tag
    if !isLane15 x.tag then formatTrap 0 x.tag 1
    else if y.tag != tN8 then formatTrap tN8 y.tag 2
    else
      let mk ← laneMask m
      let k := lanesOf x.tag
      dstLanes d x.tag (elemBits x.tag) ((List.range k).map (fun i =>
        if activeLane mk i then some (lane15 x.tag x.val (laneAt 8 y.val i % k)) else none))
      advance 4) s

/-- Every active lane of `d` takes the low bits of a word under tag `t` (R82). -/
def fillLanes (d t m : Nat) (w : Word) : M Unit := do
  let mk ← laneMask m
  dstLanes d t (elemBits t) ((List.range (lanesOf t)).map (fun i =>
    if activeLane mk i then some (lowLane t w) else none))

/-- VBCAST (R82). -/
def execVbcast (d a b m : Nat) (s : State) : Host.Outcome State Fault Refusal :=
  runInstr xVEC 0x1C (do
    classes (fun s => [⟨0, d, vDest s d⟩, ⟨1, a, wSource s a⟩, ⟨2, b, isLane15 b⟩])
    fillLanes d b m (← srcW a)
    advance 4) s

/-- VBCAST, form K (R82): the a field holds the tag code. -/
def execVbcastK (d a k m : Nat) (s : State) : Host.Outcome State Fault Refusal :=
  runInstr xVEC 0x24 (do
    classes (fun s => [⟨0, d, vDest s d⟩, ⟨1, a, isLane15 a⟩])
    fillLanes d a m (← readK k)
    advance 4) s

/-- VEXT (R82). -/
def execVext (d a b m : Nat) (s : State) : Host.Outcome State Fault Refusal :=
  runInstr xVEC 0x1C (do
    classes (fun s => [⟨0, d, wDest s d⟩, ⟨1, a, vSource s a⟩, ⟨2, b, wSource s b⟩])
    let x ← srcV a
    let i := (← srcW b).toNat
    if !isLane15 x.tag then formatTrap 0 x.tag 1
    else
      let mk ← laneMask m
      dstW d (if i < lanesOf x.tag && activeLane mk i then laneToW x.tag (lane15 x.tag x.val i) else 0)
      advance 4) s

/-- VINS (R82): d is a register and keeps its tag. -/
def execVins (d a b m : Nat) (s : State) : Host.Outcome State Fault Refusal :=
  runInstr xVEC 0x1C (do
    classes (fun s => [⟨0, d, isV d⟩, ⟨1, a, wSource s a⟩, ⟨2, b, wSource s b⟩])
    let i := (← srcW a).toNat
    let v ← srcW b
    let z ← readV (d - 16)
    if !isLane15 z.tag then formatTrap 0 z.tag 0
    else
      let mk ← laneMask m
      let n := elemBits z.tag / 8
      if i < lanesOf z.tag && activeLane mk i then
        writeReg (0x80 + 64 * (d - 16) + n * i) n (lowLane z.tag v)
      advance 4) s

/-- VMOV of a value to `d` (R83): all 64 bytes when unmasked, the active lanes of a lane tag when masked, unused
bits as zero (R49). -/
def moveV (d m : Nat) (x : VVal) : M Unit :=
  if !(if m == 0 then isVTag x.tag else isLane15 x.tag) then formatTrap 0 x.tag 1
  else if m == 0 then dstV d x.tag x.val
  else do
    let mk ← laneMask m
    let w := elemBits x.tag
    dstLanes d x.tag w ((List.range (lanesOf x.tag)).map (fun i =>
      if activeLane mk i then some (lane15 x.tag x.val i) else none))

/-- VMOV (R83). (DEDUCED, log 69) -/
def execVmov (d a m : Nat) (s : State) : Host.Outcome State Fault Refusal :=
  runInstr xVEC 0x1D (do
    classes (fun s => [⟨0, d, vDest s d⟩, ⟨1, a, vSource s a⟩])
    moveV d m (← srcV a)
    advance 4) s

/-- VMOV with a relative (R78). -/
def execVmovRelA (d a m : Nat) (s : State) : Host.Outcome State Fault Refusal :=
  runInstr xVEC 0x2A (do
    classes (fun s => [⟨0, d, vDest s d⟩])
    let n ← relV a 1
    moveV d m (← readV n)
    advance 4) s

/-- VMOV with d relative (R78). -/
def execVmovRelD (d a m : Nat) (s : State) : Host.Outcome State Fault Refusal :=
  runInstr xVEC 0x2A (do
    classes (fun s => [⟨1, a, vSource s a⟩])
    let n ← relV d 0
    moveV (16 + n) m (← srcV a)
    advance 4) s

/-- A unary lane instruction: `f` gives an active lane's result and flags under the tag (R83). -/
def unaryVec (ok : Nat → Bool) (f : Nat → Nat → Nat → Nat × FFlags) (d a m : Nat) (s : State) :
    Host.Outcome State Fault Refusal :=
  runInstr xVEC 0x1D (do
    classes (fun s => [⟨0, d, vDest s d⟩, ⟨1, a, vSource s a⟩])
    let x ← srcV a
    if !ok x.tag then formatTrap 0 x.tag 1
    else
      let mk ← laneMask m
      let rm ← roundMode
      let w := elemBits x.tag
      let (ls, fs) := laneResults ((List.range (lanesOf x.tag)).map (fun i =>
        if activeLane mk i then some (f rm x.tag (laneAt w x.val i)) else none))
      dstLanes d x.tag w ls
      raiseFlags fs
      advance 4) s

/-- VABS (R83). -/
def execVabs (d a m : Nat) (s : State) : Host.Outcome State Fault Refusal :=
  unaryVec isLaneTag (fun rm t x => laneOp .abs rm t 0 x 0 false) d a m s
/-- VNEG (R83). -/
def execVneg (d a m : Nat) (s : State) : Host.Outcome State Fault Refusal :=
  unaryVec isLaneTag (fun rm t x => laneOp .neg rm t 0 x 0 false) d a m s
/-- VSQRT (R83). -/
def execVsqrt (d a m : Nat) (s : State) : Host.Outcome State Fault Refusal :=
  unaryVec isLaneFloat (fun rm t x => sqrtFloat rm (floatFormat t) (decodeFloat (floatFormat t) x)) d a m s

/-! ### Conversion (R62, R84) -/

/-- Element `i` of a 64-byte value under any tag of Table 4-1. -/
def elementVal (t v i : Nat) : Val :=
  if isLakeTag t then lakeElem (lakeN t) (fld v (8 * lakeBytes t * (i / 16)) (8 * lakeBytes t)) (i % 16)
  else elemVal t (fld v (elemBits t * i) (elemBits t))

/-- Values as lake blocks of sixteen, the last one padded with +0 (R84); the counter bounds the blocks. -/
def lakeBlocks (rm t : Nat) : Nat → List Val → List Nat × FFlags
  | 0, _ => ([], {})
  | k + 1, xs =>
    if xs.isEmpty then ([], {})
    else
      let b := xs.take 16
      let r := lakeEncode rm (lakeN t) (b ++ List.replicate (16 - b.length) (.fin false 0 0))
      let (rs, fs) := lakeBlocks rm t k (xs.drop 16)
      (r.1 :: rs, r.2.or fs)

/-- Values written from bit 0 up under a tag, by Table 4-6; `none` is an inactive element, +0 without flags. -/
def writeElems (rm t : Nat) (xs : List (Option Val)) : Nat × FFlags :=
  if isLakeTag t then
    let (bs, fs) := lakeBlocks rm t 8 (xs.map (·.getD (.fin false 0 0)))
    (packFields (8 * lakeBytes t) bs, fs)
  else
    let rs := xs.map (fun x => match x with
      | some v => valToElem rm t v
      | none => (0, {}))
    (packFields (elemBits t) (rs.map (·.1)), allFlags (rs.map (·.2)))

/-- VCVT (R84). -/
def execVcvt (d a b m : Nat) (s : State) : Host.Outcome State Fault Refusal :=
  runInstr xVEC 0x1D (do
    classes (fun s => [⟨0, d, vDest s d⟩, ⟨1, a, vSource s a⟩, ⟨2, b, isVTag b⟩])
    let x ← srcV a
    if !isVTag x.tag then formatTrap 0 x.tag 1
    else
      let mk ← laneMask m
      let rm ← roundMode
      let r := writeElems rm b ((List.range (min (elemsOf x.tag) (elemsOf b))).map (fun i =>
        if activeLane mk i then some (elementVal x.tag x.val i) else none))
      dstV d b r.1
      raiseFlags r.2
      advance 4) s

/-- VTAG (R85): the mask field is ignored. -/
def execVtag (d a b _m : Nat) (s : State) : Host.Outcome State Fault Refusal :=
  runInstr xVEC 0x1D (do
    classes (fun s => [⟨0, d, vDest s d⟩, ⟨1, a, vSource s a⟩, ⟨2, b, isVTag b⟩])
    let x ← srcV a
    if !isVTag x.tag then formatTrap 0 x.tag 1
    else
      dstV d b x.val
      advance 4) s

/-- The lane operation of a reduction code (R41). -/
def reduceOp (b : Nat) : LaneOp :=
  match b with
  | 0 => .add | 1 => .min | 2 => .max | 3 => .and | 4 => .or | _ => .xor

/-- The reduction of lanes from lane 0 upward (Table 4-9). -/
def reduceLanes (op : LaneOp) (rm t : Nat) : List Nat → Option (Nat × FFlags)
  | [] => none
  | x :: xs => some (xs.foldl (fun acc y =>
      let r := laneOp op rm t acc.1 y 0 false
      (r.1, acc.2.or r.2)) (x, {}))

/-- VRED (R86). -/
def execVred (d a b m : Nat) (s : State) : Host.Outcome State Fault Refusal :=
  runInstr xVEC 0x1D (do
    classes (fun s => [⟨0, d, wDest s d⟩, ⟨1, a, vSource s a⟩, ⟨2, b, b < 6⟩])
    let x ← srcV a
    if !laneAllowed (reduceOp b) x.tag then formatTrap 0 x.tag 1
    else
      let mk ← laneMask m
      let rm ← roundMode
      let w := elemBits x.tag
      match reduceLanes (reduceOp b) rm x.tag (((List.range (lanesOf x.tag)).filter (activeLane mk)).map (laneAt w x.val)) with
      | none => dstW d 0
      | some r =>
        dstW d (laneToW x.tag r.1)
        raiseFlags r.2
      advance 4) s

/-- The lane is zero: +0 or −0 for a float tag (R87). -/
def laneZero (t x : Nat) : Bool :=
  if isIntTag t then x == 0 else x % 2 ^ (elemBits t - 1) == 0

/-- VNZS (R87). -/
def execVnzs (d a b m : Nat) (s : State) : Host.Outcome State Fault Refusal :=
  runInstr xVEC 0x1D (do
    classes (fun s => [⟨0, d, wDest s d⟩, ⟨1, a, vSource s a⟩, ⟨2, b, wSource s b⟩])
    let x ← srcV a
    let i0 := (← srcW b).toNat
    if !isLaneTag x.tag then formatTrap 0 x.tag 1
    else
      let mk ← laneMask m
      let w := elemBits x.tag
      let r := ((List.range (lanesOf x.tag)).find? (fun i =>
        i0 ≤ i && activeLane mk i && !laneZero x.tag (laneAt w x.val i))).getD (lanesOf x.tag)
      dstW d (BitVec.ofNat 64 r)
      advance 4) s

/-! ### The lane instructions by name (Table 5-3, R78) -/

/-- VADD (R76). -/
def execVadd (d a b m : Nat) (s : State) : Host.Outcome State Fault Refusal :=
  laneVec .add 0x1a d a m (.field b) s
/-- VADD with b relative (R78). -/
def execVaddRel (d a b m : Nat) (s : State) : Host.Outcome State Fault Refusal :=
  laneVec .add 0x27 d a m (.rel b) s
/-- VSUB (R76). -/
def execVsub (d a b m : Nat) (s : State) : Host.Outcome State Fault Refusal :=
  laneVec .sub 0x1a d a m (.field b) s
/-- VSUB with b relative (R78). -/
def execVsubRel (d a b m : Nat) (s : State) : Host.Outcome State Fault Refusal :=
  laneVec .sub 0x27 d a m (.rel b) s
/-- VMUL (R76). -/
def execVmul (d a b m : Nat) (s : State) : Host.Outcome State Fault Refusal :=
  laneVec .mul 0x1a d a m (.field b) s
/-- VMUL with b relative (R78). -/
def execVmulRel (d a b m : Nat) (s : State) : Host.Outcome State Fault Refusal :=
  laneVec .mul 0x27 d a m (.rel b) s
/-- VDIV (R76). -/
def execVdiv (d a b m : Nat) (s : State) : Host.Outcome State Fault Refusal :=
  laneVec .div 0x1a d a m (.field b) s
/-- VDIV with b relative (R78). -/
def execVdivRel (d a b m : Nat) (s : State) : Host.Outcome State Fault Refusal :=
  laneVec .div 0x27 d a m (.rel b) s
/-- VMIN (R76). -/
def execVmin (d a b m : Nat) (s : State) : Host.Outcome State Fault Refusal :=
  laneVec .min 0x1a d a m (.field b) s
/-- VMIN with b relative (R78). -/
def execVminRel (d a b m : Nat) (s : State) : Host.Outcome State Fault Refusal :=
  laneVec .min 0x27 d a m (.rel b) s
/-- VMAX (R76). -/
def execVmax (d a b m : Nat) (s : State) : Host.Outcome State Fault Refusal :=
  laneVec .max 0x1a d a m (.field b) s
/-- VMAX with b relative (R78). -/
def execVmaxRel (d a b m : Nat) (s : State) : Host.Outcome State Fault Refusal :=
  laneVec .max 0x27 d a m (.rel b) s
/-- VFMA (R76). -/
def execVfma (d a b m : Nat) (s : State) : Host.Outcome State Fault Refusal :=
  laneVec .fma 0x1a d a m (.field b) s
/-- VFMA with b relative (R78). -/
def execVfmaRel (d a b m : Nat) (s : State) : Host.Outcome State Fault Refusal :=
  laneVec .fma 0x27 d a m (.rel b) s
/-- VFMS (R76). -/
def execVfms (d a b m : Nat) (s : State) : Host.Outcome State Fault Refusal :=
  laneVec .fms 0x1a d a m (.field b) s
/-- VFMS with b relative (R78). -/
def execVfmsRel (d a b m : Nat) (s : State) : Host.Outcome State Fault Refusal :=
  laneVec .fms 0x27 d a m (.rel b) s
/-- VAND (R76). -/
def execVand (d a b m : Nat) (s : State) : Host.Outcome State Fault Refusal :=
  laneVec .and 0x1b d a m (.field b) s
/-- VAND with b relative (R78). -/
def execVandRel (d a b m : Nat) (s : State) : Host.Outcome State Fault Refusal :=
  laneVec .and 0x28 d a m (.rel b) s
/-- VOR (R76). -/
def execVor (d a b m : Nat) (s : State) : Host.Outcome State Fault Refusal :=
  laneVec .or 0x1b d a m (.field b) s
/-- VOR with b relative (R78). -/
def execVorRel (d a b m : Nat) (s : State) : Host.Outcome State Fault Refusal :=
  laneVec .or 0x28 d a m (.rel b) s
/-- VXOR (R76). -/
def execVxor (d a b m : Nat) (s : State) : Host.Outcome State Fault Refusal :=
  laneVec .xor 0x1b d a m (.field b) s
/-- VXOR with b relative (R78). -/
def execVxorRel (d a b m : Nat) (s : State) : Host.Outcome State Fault Refusal :=
  laneVec .xor 0x28 d a m (.rel b) s
/-- VANDN (R76). -/
def execVandn (d a b m : Nat) (s : State) : Host.Outcome State Fault Refusal :=
  laneVec .andn 0x1b d a m (.field b) s
/-- VANDN with b relative (R78). -/
def execVandnRel (d a b m : Nat) (s : State) : Host.Outcome State Fault Refusal :=
  laneVec .andn 0x28 d a m (.rel b) s
/-- VSHL (R76). -/
def execVshl (d a b m : Nat) (s : State) : Host.Outcome State Fault Refusal :=
  laneVec .shl 0x1b d a m (.field b) s
/-- VSHL with b relative (R78). -/
def execVshlRel (d a b m : Nat) (s : State) : Host.Outcome State Fault Refusal :=
  laneVec .shl 0x28 d a m (.rel b) s
/-- VSHR (R76). -/
def execVshr (d a b m : Nat) (s : State) : Host.Outcome State Fault Refusal :=
  laneVec .shr 0x1b d a m (.field b) s
/-- VSHR with b relative (R78). -/
def execVshrRel (d a b m : Nat) (s : State) : Host.Outcome State Fault Refusal :=
  laneVec .shr 0x28 d a m (.rel b) s
/-- VSAR (R76). -/
def execVsar (d a b m : Nat) (s : State) : Host.Outcome State Fault Refusal :=
  laneVec .sar 0x1b d a m (.field b) s
/-- VSAR with b relative (R78). -/
def execVsarRel (d a b m : Nat) (s : State) : Host.Outcome State Fault Refusal :=
  laneVec .sar 0x28 d a m (.rel b) s
/-- VADD, form K (R76). -/
def execVaddK (d a k m : Nat) (s : State) : Host.Outcome State Fault Refusal :=
  laneVec .add 0x1e d a m (.const k) s
/-- VSUB, form K (R76). -/
def execVsubK (d a k m : Nat) (s : State) : Host.Outcome State Fault Refusal :=
  laneVec .sub 0x1e d a m (.const k) s
/-- VMUL, form K (R76). -/
def execVmulK (d a k m : Nat) (s : State) : Host.Outcome State Fault Refusal :=
  laneVec .mul 0x1f d a m (.const k) s
/-- VFMA, form K (R76). -/
def execVfmaK (d a k m : Nat) (s : State) : Host.Outcome State Fault Refusal :=
  laneVec .fma 0x1f d a m (.const k) s
/-- VMIN, form K (R76). -/
def execVminK (d a k m : Nat) (s : State) : Host.Outcome State Fault Refusal :=
  laneVec .min 0x20 d a m (.const k) s
/-- VMAX, form K (R76). -/
def execVmaxK (d a k m : Nat) (s : State) : Host.Outcome State Fault Refusal :=
  laneVec .max 0x20 d a m (.const k) s
/-- VAND, form K (R76). -/
def execVandK (d a k m : Nat) (s : State) : Host.Outcome State Fault Refusal :=
  laneVec .and 0x21 d a m (.const k) s
/-- VOR, form K (R76). -/
def execVorK (d a k m : Nat) (s : State) : Host.Outcome State Fault Refusal :=
  laneVec .or 0x21 d a m (.const k) s
/-- VXOR, form K (R76). -/
def execVxorK (d a k m : Nat) (s : State) : Host.Outcome State Fault Refusal :=
  laneVec .xor 0x22 d a m (.const k) s
/-- VANDN, form K (R76). -/
def execVandnK (d a k m : Nat) (s : State) : Host.Outcome State Fault Refusal :=
  laneVec .andn 0x22 d a m (.const k) s
/-- VSHL by an immediate count (R76). -/
def execVshlImm (d a c m : Nat) (s : State) : Host.Outcome State Fault Refusal :=
  laneVec .shl 0x25 d a m (.imm c) s
/-- VSHR by an immediate count (R76). -/
def execVshrImm (d a c m : Nat) (s : State) : Host.Outcome State Fault Refusal :=
  laneVec .shr 0x25 d a m (.imm c) s
/-- VSAR by an immediate count (R76). -/
def execVsarImm (d a c m : Nat) (s : State) : Host.Outcome State Fault Refusal :=
  laneVec .sar 0x26 d a m (.imm c) s
/-- VSEL (R77). -/
def execVsel (d a b m : Nat) (s : State) : Host.Outcome State Fault Refusal :=
  selVec 0x1B d a m (.field b) s
/-- VSEL with b relative (R78). -/
def execVselRel (d a b m : Nat) (s : State) : Host.Outcome State Fault Refusal :=
  selVec 0x28 d a m (.rel b) s
/-- VCMPEQ (R79). -/
def execVcmpeq (d a b m : Nat) (s : State) : Host.Outcome State Fault Refusal :=
  cmpVec .eq 0x1C d a m (.field b) s
/-- VCMPEQ, form K (R79). -/
def execVcmpeqK (d a k m : Nat) (s : State) : Host.Outcome State Fault Refusal :=
  cmpVec .eq 0x23 d a m (.const k) s
/-- VCMPEQ with b relative (R78). -/
def execVcmpeqRel (d a b m : Nat) (s : State) : Host.Outcome State Fault Refusal :=
  cmpVec .eq 0x29 d a m (.rel b) s
/-- VCMPLT (R79). -/
def execVcmplt (d a b m : Nat) (s : State) : Host.Outcome State Fault Refusal :=
  cmpVec .lt 0x1C d a m (.field b) s
/-- VCMPLT, form K (R79). -/
def execVcmpltK (d a k m : Nat) (s : State) : Host.Outcome State Fault Refusal :=
  cmpVec .lt 0x23 d a m (.const k) s
/-- VCMPLT with b relative (R78). -/
def execVcmpltRel (d a b m : Nat) (s : State) : Host.Outcome State Fault Refusal :=
  cmpVec .lt 0x29 d a m (.rel b) s
/-- VCMPLE (R79). -/
def execVcmple (d a b m : Nat) (s : State) : Host.Outcome State Fault Refusal :=
  cmpVec .le 0x1C d a m (.field b) s
/-- VCMPLE, form K (R79). -/
def execVcmpleK (d a k m : Nat) (s : State) : Host.Outcome State Fault Refusal :=
  cmpVec .le 0x24 d a m (.const k) s
/-- VCMPLE with b relative (R78). -/
def execVcmpleRel (d a b m : Nat) (s : State) : Host.Outcome State Fault Refusal :=
  cmpVec .le 0x29 d a m (.rel b) s
/-- VDOT (R80). -/
def execVdot (d a b m : Nat) (s : State) : Host.Outcome State Fault Refusal :=
  dotVec 0x1C d a m (.field b) s
/-- VDOT with b relative (R78). -/
def execVdotRel (d a b m : Nat) (s : State) : Host.Outcome State Fault Refusal :=
  dotVec 0x29 d a m (.rel b) s
/-- VPERM (R81). -/
def execVperm (d a b m : Nat) (s : State) : Host.Outcome State Fault Refusal :=
  permVec 0x1C d a m (.field b) s
/-- VPERM with b relative (R78). -/
def execVpermRel (d a b m : Nat) (s : State) : Host.Outcome State Fault Refusal :=
  permVec 0x29 d a m (.rel b) s

end Sys2Proof.Machine
end

