-- ==== Sys2Proof/Machine/Matrix.lean ====
section
/-!
DEFINITION. The matrix instructions (06 R95 to R114) and their events: an instruction enters the array with its tiles read and
its result formed, and holds the array until ARRAY_RETIRE. Positions in INFO: 0 Z, 1 F, 2 P, 3 address, 4 X or ctl (R95).
-/
namespace Sys2Proof.Machine
open Sys2Proof

/-! ### TSET, AALLOC, AFREE, AZERO -/

/-- TSET (R100). -/
def execTset (t k : Nat) (s : State) : Host.Outcome State Fault Refusal :=
  runInstr xMAT 0x2F (do
    checkAll [⟨4, k, k != 255⟩]
    let lo ← readK k
    let hi ← readK (k + 1)
    let d := hi.toNat * 2 ^ 64 + lo.toNat
    let td := tileDesc d (fld d 24 5)
    checkAll [⟨4, k, td.clean⟩, ⟨4, k, td.kind != 3⟩, ⟨4, k, kindAllows td⟩, ⟨4, k, descOk td⟩]
    writeT t d
    writeTag (16 + t) td.tag
    advance 4) s

/-- The first banks and bank counts of the runs of a vat. -/
def State.runsOf (s : State) (node : Nat) : List (Nat × Run) :=
  (s.runs.filter (fun p => p.1 / 128 == node)).map (fun p => (p.1 % 128, p.2))

/-- The lowest first bank of `c` consecutive banks of the grant that no run holds (R104). -/
def State.freeRun (s : State) (node : Nat) (r : Slot) (c : Nat) : Option Nat :=
  let n := fld r.space 20 8
  ((List.range (n + 1 - c)).map (r.bank0 + ·)).find? (fun b =>
    (s.runsOf node).all (fun p => p.1 + p.2.count ≤ b || b + c ≤ p.1))

/-- AALLOC (R104). -/
def execAalloc (z k : Nat) (s : State) : Host.Outcome State Fault Refusal :=
  runInstr xMAT 0x30 (do
    let h ← readZ z
    let c := (← readK k).toNat
    let st ← getS
    match st.curSlot? with
    | none => illegalOperand k 4
    | some r =>
      checkAll [⟨0, z, (st.liveRun h).isNone⟩, ⟨4, k, c != 0 && c ≤ fld r.space 20 8⟩]
      match st.freeRun st.node r c with
      | none => blockOn .retry
      | some b =>
        let sl := st.curEntry.slot
        modS (fun s => ((s.zeroRun s.node b c).setRun s.node b ⟨c, r.gen, 0, s.curKey, s.curEntry.wp⟩).modSlot s.node sl
          (fun r => { r with gen := if r.gen == 255 then 1 else r.gen + 1 }))
        writeZ z (r.gen * 2 ^ 16 + c * 2 ^ 8 + b)
        advance 4) s

/-- AFREE (R105). -/
def execAfree (z : Nat) (s : State) : Host.Outcome State Fault Refusal :=
  runInstr xMAT 0x31 (do
    let (first, _) ← needRun z
    settled first
    modS (fun s => { s with runs := mdel s.runs (128 * s.node + first) })
    writeZ z 0
    advance 4) s

/-- AZERO (R105). -/
def execAzero (z : Nat) (s : State) : Host.Outcome State Fault Refusal :=
  runInstr xMAT 0x32 (do
    let (first, r) ← needRun z
    settled first
    modS (fun s => (s.zeroRun s.node first r.count).setRun s.node first { r with afmt := 0 })
    advance 4) s

/-! ### MMA and MMAZ (R106 to R108) -/

/-- One row of F: the values of its first `kk` elements (R97). -/
def State.fullRow (s : State) (node : Nat) (d : TileD) (row kk : Nat) : List Val :=
  let bits := s.peek (spAddr node (d.base + row * tilePitch d)) (packedRow d.tag)
  (List.range kk).map (fullElem d.tag bits)

/-- A word of F that holds one of the first `kk` elements of a row is poisoned. -/
def State.fullRowBad (s : State) (node : Nat) (d : TileD) (row kk : Nat) : Bool :=
  (s.poisoned (spAddr node (d.base + row * tilePitch d)) (rowBytes d.tag kk)).isSome

/-- Row `k` of P: the values of its first `nc` columns (R98). -/
def State.planeRow (s : State) (node : Nat) (d : TileD) (nc k : Nat) : List Val :=
  let ws := (List.range (planeBits d.tag)).map (fun j => s.peek (spAddr node (d.base + 512 * j + 8 * k)) 8)
  let hdrs := if isLakeTag d.tag then s.peek (spAddr node (d.base + 512 * planeBits d.tag + 8 * k)) 8 else 0
  (List.range nc).map (planeElem d.tag ws hdrs)

/-- A plane-group word or block-area word of the rows below `kk` is poisoned. -/
def State.planeBad (s : State) (node : Nat) (d : TileD) (kk : Nat) : Bool :=
  (List.range (planeSize d.tag / 512)).any (fun j => (s.poisoned (spAddr node (d.base + 512 * j)) (8 * kk)).isSome)

/-- The integer value of a finite term. -/
def valInt (v : Val) : Int :=
  match v with
  | .fin n m e => let u : Int := ((m * 2 ^ e.toNat : Nat) : Int); if n then -u else u
  | _ => 0

/-- One element of a matrix product: the products and the prior element summed (R107). -/
def matElem (rm : Nat) (int : Bool) (ps : List (Val × Val)) (prior : Nat) : Nat × FFlags :=
  if int then (wrapN 32 (ps.foldl (fun (acc : Int) p => acc + valInt p.1 * valInt p.2) (signed 32 prior)), {})
  else chunkSum rm (floatFormat tF32) ps [decodeFloat (floatFormat tF32) prior]

/-- The result of MMA or MMAZ on accumulator row `row`, with its flags. -/
def matRow (rm : Nat) (int : Bool) (nc : Nat) (f : List Val) (p : List (List Val)) (prior : Nat) : Nat × FFlags :=
  let rs := (List.range 64).map (fun c =>
    let old := laneAt 32 prior c
    if c < nc then matElem rm int (f.zip (p.map (fun r => r.getD c (.fin false 0 0)))) old else (old, {}))
  (packFields 32 (rs.map (·.1)), allFlags (rs.map (·.2)))

/-- The accumulator rows of MMA or MMAZ written one by one, with the flags raised. -/
def matRows (rm : Nat) (int : Bool) (node first kk nc : Nat) (df : TileD) (p : List (List Val)) (pbad : Bool) :
    List Nat → State × FFlags → State × FFlags
  | [], acc => acc
  | row :: rest, (s, fl) =>
    let r := matRow rm int nc (s.fullRow node df row kk) p (s.accRow node first row)
    let bad := s.accBad node first row || s.fullRowBad node df row kk || pbad
    matRows rm int node first kk nc df p pbad rest
      ((s.setAccRow node first row r.1).setAccBad node first row bad, fl.or r.2)

/-- The array takes an instruction: consumers enter, and it retires later (R101, R109). -/
def State.enterArray (s : State) (run : Nat) (ds : List TileD) (walk : Option WalkJob) : State :=
  let es := tracked ds
  let s := es.foldl (fun s e => s.consumeTile s.node e) (s.modEntry s.curKey (fun e => { e with wait := .none }))
  { s with arrays := mset s.arrays s.node ⟨s.curKey, run, es, ds.map (fun d => (d.base, tileExtent d)), walk⟩ }

/-- The array is free. -/
def State.arrayFree (s : State) (node : Nat) : Bool := (mget? s.arrays node).isNone

/-- It is the turn of entry `k` to enter the array: of the entries that wait for it, or have been resumed to enter it, none that may issue has waited
longer (R109). (DEDUCED, log 88) -/
def State.arrayTurn (s : State) (k : Nat) : Bool :=
  let e := s.entry k
  !(s.entries.any (fun p => p.1 / 32 == k / 32 && p.1 != k && p.2.wait == .array && !p.2.msk && !s.inStop (k / 32) p.2 &&
    (e.wait != .array || earlier p (k, e))))

/-- Wait until the array is free and it is the executing entry's turn. -/
def waitArray : M Unit := do
  let s ← getS
  if s.arrayFree s.node && s.arrayTurn s.curKey then pure () else blockOn .array

/-- MMA, and MMAZ with `zero` (R106, R107): `e` selects S32. (DESIGN CHOICE, log 18) -/
def matMul (zero : Bool) (op z f p e : Nat) (s : State) : Host.Outcome State Fault Refusal :=
  runInstr xMAT op (do
    let (first, r) ← needRun z
    let df ← readTile f
    let dp ← readTile p
    let int := e == 1
    let acc := if int then tS32 else tF32
    let inClass (t : Nat) : Bool := isMatTag t && isMatInt t == int
    checkAll [⟨0, z, 4 ≤ r.count⟩, ⟨1, f, df.kind == 0⟩, ⟨2, p, dp.kind == 1⟩, ⟨1, f, descOk df⟩, ⟨2, p, descOk dp⟩]
    if df.tag == 0 then formatTrap 0 0 1
    else if dp.tag == 0 then formatTrap 0 0 2
    else if !inClass df.tag then formatTrap 0 df.tag 1
    else if !inClass dp.tag then formatTrap 0 dp.tag 2
    else if !zero && r.afmt != 0 && r.afmt != acc then formatTrap acc r.afmt 0
    else
      let st ← getS
      waitArray
      waitTiles [df, dp]
      let rm ← roundMode
      let nr := df.rows + 1
      let nc := dp.cols + 1
      let kk := min df.cols dp.rows + 1
      let st := if zero then st.zeroRun st.node first 4 else st
      let rows := (List.range kk).map (st.planeRow st.node dp nc)
      let (st', fl) := matRows rm int st.node first kk nc df rows (st.planeBad st.node dp kk) (List.range nr) (st, {})
      modS (fun s => ((({ s with accMem := st'.accMem, accPoison := st'.accPoison }.setRun s.node first
        { r with afmt := acc }).enterArray first [df, dp] none)).later (.arrayRetire s.node))
      raiseFlags fl
      advance 4) s

/-- MMA (R107). -/
def execMma (z f p e : Nat) (s : State) : Host.Outcome State Fault Refusal := matMul false 0x2C z f p e s
/-- MMAZ (R107). -/
def execMmaz (z f p e : Nat) (s : State) : Host.Outcome State Fault Refusal := matMul true 0x2D z f p e s

/-- The array lets go of its instruction: its consumers retire (R222). -/
def State.leaveArray (s : State) (node : Nat) (j : ArrayJob) : State :=
  j.tiles.foldl (fun s e => s.releaseTile node e) { s with arrays := mdel s.arrays node }

/-- ARRAY_RETIRE (R110): the matrix instruction in the array retires. -/
def execArrayRetire (node : Nat) (s : State) : Host.Outcome State Fault Refusal :=
  .next (match mget? s.arrays node with
    | some j => if j.walk.isNone then s.leaveArray node j else s
    | none => s)

/-! ### ASTORE, ALOAD, AMOVV (R112, R113) -/

/-- The bytes of a whole run. -/
def State.runBytes (s : State) (node first count : Nat) : Nat := loadN zeroFill s.accMem (accAddr node first 0) (2048 * count)

/-- The lowest poisoned row of a run. -/
def State.runBad (s : State) (node first count : Nat) : Option Nat :=
  (List.range (8 * count)).find? (s.accBad node first)

/-- The range of a whole run at `ea` (R112). -/
def checkRunEa (ea count : Nat) : M Unit :=
  if ea % 128 != 0 || 0x200000 < ea + 2048 * count then alignmentTrap ea else pure ()

/-- ASTORE (R112). -/
def execAstore (z x w : Nat) (s : State) : Host.Outcome State Fault Refusal :=
  runInstr xMAT 0x33 (do
    let (first, r) ← needRun z
    let ea := (← readW w).toNat
    let fmt := if x == 1 then tS32 else tF32
    checkAll [⟨3, 0, 0x2000 ≤ ea⟩]
    if r.afmt != 0 && r.afmt != fmt then formatTrap fmt r.afmt 0
    else
      checkRunEa ea r.count
      settled first
      let st ← getS
      match st.runBad st.node first r.count with
      | some row => notePoison 1 row
      | none => storeLocal ea (2048 * r.count) (st.runBytes st.node first r.count)
      advance 4) s

/-- The poison of 128 source bytes as ALOAD sees them: those of another window are not read (R20). -/
def State.sourceBad (s : State) (node slot off : Nat) : Bool :=
  (0x2000 ≤ off || off / 0x800 == slot) && (s.poisoned (spAddr node off) 128).isSome

/-- ALOAD (R112): poison goes to the rows, without a trap. -/
def execAload (z x w : Nat) (s : State) : Host.Outcome State Fault Refusal :=
  runInstr xMAT 0x34 (do
    let (first, r) ← needRun z
    let ea := (← readW w).toNat
    checkRunEa ea r.count
    settled first
    let n := 2048 * r.count
    let st ← getS
    let node := st.node
    let slot := st.curEntry.slot
    if st.hasEmpty (spAddr node ea) n then blockOn .retry
    else
      let low := min n (0x2000 - ea)
      let bytes := st.windowBytes slot (roleOf st.cur.ck) ea low + 256 ^ low * st.peek (spAddr node (ea + low)) (n - low)
      modS (fun s =>
        let s := { s with accMem := storeN zeroFill s.accMem (accAddr node first 0) n bytes }
        let s := (List.range (8 * r.count)).foldl (fun s row =>
          s.setAccBad node first row (s.sourceBad node slot (ea + 256 * row) || s.sourceBad node slot (ea + 256 * row + 128))) s
        s.setRun node first { r with afmt := if x == 1 then tS32 else tF32 })
      advance 4) s

/-- AMOVV (R113): `v` is the V register, `sr` the W register that holds the strip number. INFO names the run's lowest poisoned row (19 Table
19-2). -/
def execAmovv (z v sr : Nat) (s : State) : Host.Outcome State Fault Refusal :=
  runInstr xMAT 0x35 (do
    let (first, r) ← needRun z
    let i := (← readW sr).toNat
    checkAll [⟨4, v + 16 * sr, i < 32 * r.count⟩]
    if r.afmt == 0 then formatTrap 0 0 0
    else
      settled first
      let st ← getS
      if st.accBad st.node first (i / 4) then notePoison 1 ((st.runBad st.node first r.count).getD 0)
      else
        writeReg (0x80 + 64 * v) 64 (fld (st.accRow st.node first (i / 4)) (512 * (i % 4)) 512)
        writeTag v r.afmt
      advance 4) s

/-! ### ACHAIN (R114) -/

/-- The format of a sum of two formats: the one that is not ZERO. -/
def chainFmt (q r : Nat) : Nat := if r == 0 then q else r

/-- One element of a chain addition. -/
def chainElem (rm fmt eq e : Nat) : Nat × FFlags :=
  if fmt == tF32 then
    chunkSum rm (floatFormat tF32) [] [decodeFloat (floatFormat tF32) eq, decodeFloat (floatFormat tF32) e]
  else ((eq + e) % 2 ^ 32, {})

/-- The elements of a run in row order. -/
def State.runElems (s : State) (node first count : Nat) : List Nat :=
  (List.range (8 * count)).flatMap (fun row =>
    let v := s.accRow node first row
    (List.range 64).map (laneAt 32 v))

/-- Add a partial to a run: the state and the flags raised. -/
def State.addPartial (s : State) (rm node first : Nat) (r : Run) (q : Partial) : State × FFlags :=
  let fmt := chainFmt q.afmt r.afmt
  let es := (q.elems.zip (s.runElems node first r.count)).map (fun p => chainElem rm fmt p.1 p.2)
  let s := { s with accMem := storeN zeroFill s.accMem (accAddr node first 0) (2048 * r.count) (packFields 32 (es.map Prod.fst)) }
  let s := (List.range (8 * r.count)).foldl (fun s row =>
    if q.poison.getD row false then s.setAccBad node first row true else s) s
  (s.setRun node first { r with afmt := fmt }, allFlags (es.map Prod.snd))

/-- The contents of a run as a partial. -/
def State.partialOf (s : State) (node first : Nat) (r : Run) : Partial :=
  ⟨r.count, r.afmt, s.runElems node first r.count,
    (List.range (8 * r.count)).map (s.accBad node first)⟩

/-- ACHAIN (R114). One that waits for its reservation while another handler takes its predecessor's partial waits for the next, and checks that one, with its
reservation kept. (DESIGN CHOICE, log 118) -/
def execAchain (z w : Nat) (s : State) : Host.Outcome State Fault Refusal :=
  runInstr xMAT 0x2E (do
    let (first, r) ← needRun z
    let c := (← readW w).toNat
    let me := (← readK 2).toNat
    let k3 := (← readK 3).toNat
    let k4 := (← readK 4).toNat
    let k5 := (← readK 5).toNat
    let lo := fld c 0 16
    let hi := fld c 16 16
    checkAll [⟨4, w, lo ≤ me && me ≤ hi && hi < k3 * k4⟩, ⟨0, z, r.count ≤ 16⟩]
    settled first
    let st ← getS
    let node := st.node
    let sl := st.curEntry.slot
    let ent := st.curEntry
    let inbox := (st.curSlot?.bind (·.inbox))
    let dst := vatAt (fld k5 0 6 + (me + 1) % k3) (fld k5 6 5 + (me + 1) / k3)
    let req : ChainReq := ⟨st.cur.ck, st.cur.ent, dst, st.curLid⟩
    if lo < me then
      match inbox with
      | none => blockOn .retry
      | some q =>
        checkAll [⟨0, z, q.count == r.count⟩]
        if q.afmt != 0 && r.afmt != 0 && q.afmt != r.afmt then formatTrap r.afmt q.afmt 0
    if me < hi && !ent.grant then
      if ent.asked then blockOn .chainGrant
      else blockAfter .chainGrant (fun s =>
        (s.modEntry s.curKey (fun e => { e with asked := true })).later (.chainReserveRequest req))
    if lo < me then
      match inbox with
      | none => pure ()
      | some q =>
        let rm ← roundMode
        let (st', fl) := st.addPartial rm node first r q
        modS (fun s => ({ s with accMem := st'.accMem, accPoison := st'.accPoison, runs := st'.runs }.modSlot node sl
          (fun r => { r with inbox := none })).grantChain node sl)
        raiseFlags fl
    if me < hi then
      leaveWith .chainSent (fun s =>
        let r' := (s.run? node first).getD r
        (s.modEntry s.curKey (fun e => { e with asked := false, grant := false })).later
          (.chainPartialArrival req (s.partialOf node first r')))
    advance 4) s

/-- CHAIN_RESERVE_REQUEST (R114): the request stands at its successor; one for a slot not yet committed waits. (DEDUCED, log 81) -/
def execChainReserveRequest (c : ChainReq) (s : State) : Host.Outcome State Fault Refusal :=
  .next (match s.slotOfLid c.dst c.lid with
    | some (sl, _) => (s.modSlot c.dst sl (fun r => { r with asking := r.asking ++ [c] })).grantChain c.dst sl
    | none => s.later (.chainReserveRequest c))

/-- CHAIN_GRANT (R114): the sender holds the reservation. -/
def execChainGrant (c : ChainReq) (s : State) : Host.Outcome State Fault Refusal :=
  .next (s.modEntry (32 * c.src + c.ent) (fun e => { e with asked := false, grant := true }))

/-- CHAIN_PARTIAL_ARRIVAL (R114): the inbox accepts the partial, and the sender's ACHAIN retires. -/
def execChainPartialArrival (c : ChainReq) (p : Partial) (s : State) : Host.Outcome State Fault Refusal :=
  let s := match s.slotOfLid c.dst c.lid with
    | some (sl, _) => s.modSlot c.dst sl (fun r => { r with inbox := some p, reserved := none })
    | none => s
  let k := 32 * c.src + c.ent
  .next (if (s.entry k).wait == .chainSent then
      s.modEntry k (fun e => { e with state := .active, wait := .none, ip := (e.ip + 4) % 0x200000 })
    else s)

end Sys2Proof.Machine
end

