-- ==== Sys2Proof/Machine/Walk.lean ====
section
/-!
DEFINITION. The tree walk (07): walk pointers, node headers, decision rules, one walk step with its read phase and commit, WALK and
WSTEP with the event that commits their steps, and the progress-record instructions.
-/
namespace Sys2Proof.Machine
open Sys2Proof

/-! ### Reading the tree -/

/-- The read phase of a step as it stands: the state, in which translation entries are touched; the reads made before that are still to be taken
up; all the reads made, newest first; and the headers read from memory, newest first, with none for one that has a poisoned word. -/
structure WalkReads where
  s    : State
  left : List (Nat × Option (Nat × Bool))
  made : List (Nat × Option (Nat × Bool)) := []
  hdrs : List (Nat × Option (List Nat)) := []

/-- The read phase of a step (R128): it stops at the read for which it must wait, and takes up the reads made before when it goes on. -/
abbrev ReadM := ExceptT CmdWait (StateM WalkReads)

/-- The virtual address of a far pointer (R116). -/
def farPointer (p : Nat) : Nat := fld p 0 48 + (if bitAt p 47 then 511 * 2 ^ 48 else 0)

/-- The read of key `k`: as made before, or made now by `live`. A read with another key than the one made before at its place makes this and all later ones
anew: a racing store has changed the step's course. -/
def walkAccess (k : Nat) (live : State → Except CmdWait (State × (Nat × Bool))) : ReadM (Option (Nat × Bool)) := do
  let r ← get
  match r.left.head?.bind (fun x => if x.1 == k then some x.2 else none) with
  | some v =>
    set { r with left := r.left.tail, made := (k, v) :: r.made }
    return v
  | none =>
    match live r.s with
    | .ok (s, v) =>
      set { r with s := s, left := [], made := (k, some v) :: r.made }
      return some v
    | .error e => throw e

/-- The entry whose walk is in the array of a node, and its phase. -/
def State.walker (s : State) (node : Nat) : Nat := ((mget? s.arrays node).map (·.ent)).getD 0
def State.walkGranule (s : State) (node : Nat) (far : Bool) (num : Nat) : Option Granule :=
  s.granule (s.walker node) (s.entry (s.walker node)).phase far num

/-- A near word for a walk on vat `node`: it waits for a full line, whatever the node cache holds of the group, for a paused link on the
way (R358), and for its handler's own stores to another vat. There it is the handler's granule of the phase, or the word as it stands (R231
COHERENCE). (DEDUCED, log 14) -/
def nearWord (node a : Nat) (s : State) : Except CmdWait (State × (Nat × Bool)) :=
  let at' := a / 0x200000
  if s.hasEmpty a 8 || s.wayPaused node at' then .error .line
  else if at' == node then .ok (s, (s.peek a 8, (s.poisoned a 8).isSome))
  else if s.agenda.any (storeInFlight (s.walker node) at') then .error .line
  else
    match s.walkGranule node false (a / 64) with
    | some g => .ok (s, (fld g.data (8 * (a % 64)) 64, g.marks.contains (a % 64 / 8)))
    | none => .ok (s.nearSeen (s.walker node) at', (s.peek a 8, (s.poisoned a 8).isSome))

/-- A far word for a walk: it translates on the walk's vat `node` (R129), waits for its handler's own requests to the granule, and is the handler's
granule of the phase, or the word as it stands (R231 COHERENCE). (DEDUCED, log 14) -/
def farWord (node va : Nat) (s : State) : Except CmdWait (State × (Nat × Bool)) :=
  match s.lookup node va accRead with
  | .physical pa k =>
    if s.farPaused node pa || s.agenda.any (ownFar (s.walker node) (pa / 16)) then .error .none
    else if s.noMem pa then .ok (s.touchTlb k, (0, false))
    else
      match s.walkGranule node true (pa / 16) with
      | some g => .ok (s.touchTlb k, (fld g.data (8 * (pa % 16)) 64, g.marks.contains (pa % 16 / 8)))
      | none => .ok ((s.touchTlb k).farSeen (s.walker node) (pa / 16), (s.farPeek pa 8, s.farBad pa 8))
  | .miss => .error (.miss va)
  | .fault c => .error (.fault va c)
  | .draining => .error .none

/-- The 8-byte word at offset `8 * i` from a well-formed pointer, and whether it is poisoned; none where the far read ended with a fail reply (R129). A
poisoned word is used with its stored bytes. (DEDUCED, log 90) -/
def walkWord (node : Nat) (p i : Nat) : ReadM (Option (Nat × Bool)) :=
  if !bitAt p 48 then
    let a := spAddr (vatAt (fld p 26 6) (fld p 21 5)) (fld p 0 21 + 8 * i)
    walkAccess a (nearWord node a)
  else
    let va := (farPointer p + 8 * i) % 2 ^ 57
    walkAccess (2 ^ 60 + va) (farWord node va)

/-- The words at the given offsets, in order. -/
def walkWords (node : Nat) (p : Nat) : List Nat → ReadM (Option (List (Nat × Bool)))
  | [] => return some []
  | i :: is => do
    match ← walkWord node p i with
    | none => return none
    | some w =>
      match ← walkWords node p is with
      | none => return none
      | some ws => return some (w :: ws)

/-- A pointer to an object of `size` bytes aligned to `align` is well formed (R116). -/
def pointerOk (p size align : Nat) : Bool :=
  fld p 49 15 == 0 &&
  (if bitAt p 48 then fld p 0 48 % align == 0
   else fld p 32 16 == 0 && 0x2000 ≤ fld p 0 21 && fld p 0 21 + size ≤ 0x200000 && fld p 0 21 % align == 0)

/-- The header in eight words (Table 7-2). -/
def nodeOfWords (ws : List Nat) : WalkNode :=
  let w := ws.getD 0 0
  let w3 := ws.getD 3 0
  ⟨fld w 40 24 == 0 && fld w 4 12 == 0 && (ws.drop 4).all (· == 0), fld w 0 1, fld w 1 1, fld w 2 2, fld w 16 5, fld w 21 7,
    fld w 28 7, fld w 35 5, ws.getD 1 0, ws.getD 2 0, fld w3 0 32, fld w3 32 32⟩

/-- Row fault codes (Table 7-5). -/
abbrev fNULL : Nat := 1
abbrev fALIGN : Nat := 2
abbrev fDEPTH : Nat := 3
abbrev fFORMAT : Nat := 4
abbrev fNAN : Nat := 5
abbrev fPOISON : Nat := 6
abbrev fPAGE : Nat := 7

/-- The header is bad for a walk of the class `int` (R118). -/
def headerBad (h : WalkNode) (int : Bool) : Bool :=
  !h.clean || h.din == 0 || 64 < h.din || h.dout == 0 || 64 < h.dout || !isMatTag h.mfmt || isMatInt h.mfmt != int ||
  (h.kind == 0 && (h.rule == 3 || h.kch < 2 || 16 < h.kch || (h.rule != 1 && h.kch != 2) || (h.rule == 1 && h.dout < h.kch)))

/-- Change the walk in the array of a node. -/
def State.modWalk (s : State) (node : Nat) (g : WalkJob → WalkJob) : State :=
  match mget? s.arrays node with
  | some j => { s with arrays := mset s.arrays node { j with walk := j.walk.map g } }
  | none => s

/-- The words of a header in the node cache of the walk in a node's array (R134). (DESIGN CHOICE, log 89) -/
def State.cachedHeader (s : State) (node p : Nat) : Option (List Nat) := do
  let j ← mget? s.arrays node
  let w ← j.walk
  (w.cache.find? (fun h => h.1 == p)).map (·.2)

/-- A header as the step has it: none within for one with a poisoned word. It has one value in the step: the one read in it, or the node cache's (R134). -/
def WalkReads.header (r : WalkReads) (node p : Nat) : Option (Option (List Nat)) :=
  match r.hdrs.find? (fun h => h.1 == p) with
  | some h => some h.2
  | none => (r.s.cachedHeader node p).map some

/-- The header at a node pointer, or the fault code of its rows (R125), through the node cache (R134). -/
def readHeader (node : Nat) (p : Nat) : ReadM (Except Nat WalkNode) := do
  let given (h : Option (List Nat)) : Except Nat WalkNode := match h with
    | some ws => .ok (nodeOfWords ws)
    | none => .error fPOISON
  if p == 0 then return .error fNULL
  else if !pointerOk p 64 128 then return .error fALIGN
  else
    match (← get).header node p with
    | some h => return given h
    | none =>
      match ← walkWords node p (List.range 8) with
      | none => return .error fPAGE
      | some ws =>
        let h := if ws.any (·.2) then none else some (ws.map (·.1))
        modify (fun r => { r with hdrs := (p, h) :: r.hdrs })
        return given h

/-- The node cache after a step: the headers it has read from memory come in, and of more than 32 the one that came first goes. (DESIGN CHOICE, log 89) -/
def cacheAfter (cache : List (Nat × List Nat)) (hdrs : List (Nat × Option (List Nat))) : List (Nat × List Nat) :=
  hdrs.foldr (fun h c => match h.2 with
    | some ws => c.drop (c.length - 31) ++ [(h.1, ws)]
    | none => c) cache

/-- A node's matrix by rows, its poison, and its child words, or a fault code for the whole group (R119, R133). -/
def readNode (node : Nat) (h : WalkNode) :
    ReadM (Except Nat (List (List Val) × Bool × List (Nat × Bool))) := do
  let offs := (List.range (planeSize h.mfmt / 512)).flatMap (fun j => (List.range h.din).map (fun k => 64 * j + k))
  match ← walkWords node h.mptr offs with
  | none => return .error fPAGE
  | some ws =>
    let rows := (List.range h.din).map (fun k =>
      let w (j : Nat) : Nat := (ws.getD (h.din * j + k) (0, false)).1
      let hdrs := if isLakeTag h.mfmt then w (planeBits h.mfmt) else 0
      (List.range h.dout).map (planeElem h.mfmt ((List.range (planeBits h.mfmt)).map w) hdrs))
    if h.kind == 1 then return .ok (rows, ws.any (·.2), [])
    else
      match ← walkWords node h.ctab (List.range h.kch) with
      | none => return .error fPAGE
      | some cs => return .ok (rows, ws.any (·.2), cs)

/-! ### Products and decisions -/

/-- The exact sum of products as a value; specials as the note to Table 4-9 gives, a zero with the sign of step 4. -/
def exactProduct (rm : Nat) (ps : List (Val × Val)) : Val :=
  let ts := ps.map (fun p => (mulVal p.1 p.2).1)
  let r := chunkSum rm (floatFormat tF32) ps []
  if ts.any isNan || ts.any (isInfOf false) || ts.any (isInfOf true) then decodeFloat (floatFormat tF32) r.1
  else
    let g := leastExp ts
    let t := ts.foldl (fun (acc : Int) v => acc + (match v with | .fin _ 0 _ => 0 | _ => unitsAt g v)) 0
    if t == 0 then decodeFloat (floatFormat tF32) r.1 else .fin (t < 0) t.natAbs g

/-- The exact integer sum of products. -/
def intProduct (ps : List (Val × Val)) : Int := ps.foldl (fun (acc : Int) p => acc + valInt p.1 * valInt p.2) 0

/-- `round32` of a product (R125). -/
def round32 (rm : Nat) (int : Bool) (ps : List (Val × Val)) : Nat × FFlags :=
  if int then (wrapN 32 (intProduct ps), {}) else chunkSum rm (floatFormat tF32) ps []

/-- A key that orders decision values numerically, +0 equal to −0; none for a NaN (R120). -/
def valueKey (int : Bool) (x : Nat) : Option Int :=
  if int then some (signed 32 x)
  else match decodeFloat (floatFormat tF32) x with
    | .nan .. => none
    | .inf n => some (if n then -(2 ^ 400) else 2 ^ 400)
    | .fin n m e => let u : Int := ((m * 2 ^ (e + 149).toNat : Nat) : Int); some (if n then -u else u)

/-- The index of the largest key, the lowest index winning a tie, from candidate `(i, v)` on. -/
def argMax : Nat → Nat × Int → List Int → Nat
  | _, best, [] => best.1
  | i, best, v :: vs => argMax (i + 1) (if best.2 < v then (i, v) else best) vs

/-- The child a node picks (Table 7-3); none where the rule reads a NaN. -/
def decide3 (int : Bool) (h : WalkNode) (v : List Nat) : Option Nat := do
  if h.rule == 1 then
    let ks ← ((v.take h.kch).map (valueKey int)).mapM id
    match ks with
    | [] => some 0
    | k :: r => some (argMax 1 (0, k) r)
  else
    let a ← valueKey int (v.getD 0 0)
    let t ← if h.rule == 0 then some 0 else valueKey int h.thresh
    some (if a < t then 0 else 1)

/-- The 64 elements of an accumulator row that a CHAIN choice writes (R121), with the flags of the conversion. -/
def chainRow (rm : Nat) (int : Bool) (tag : Nat) (ys : List (List (Val × Val))) : List Nat × FFlags :=
  let vals := ys.map (fun ps => if int then valOfInt (intProduct ps) else exactProduct rm ps)
  let r := writeElems rm tag (vals.map some)
  let out := (List.range ys.length).map (fun c =>
    let v := elementVal tag r.1 c
    if int then wrapN 32 (valInt v) else (encodeVal 0 (floatFormat tF32) v).1)
  (out ++ List.replicate (64 - ys.length) 0, r.2)

/-! ### One step (R125) -/

/-- Fields of a progress record (Table 7-4). -/
def recStatus (r : Nat) : Nat := fld r 58 2
def recDepth (r : Nat) : Nat := fld r 49 6
def recNode (r : Nat) : Nat := fld r 0 49

/-- The record of a faulted row (R124). -/
def faultRec (r code : Nat) : Nat := setFld (setFld r 58 2 3) 60 4 code

/-- The row takes a fault. -/
def faultRow (row rec code : Nat) : WalkRow := { row := row, bits := faultRec rec code, fault := code }

/-- What a step needs to know beyond the state: the walk's node, run, tiles, rounding mode and failed reads. -/
def rowInput (s : State) (node first : Nat) (f : TileD) (int : Bool) (row rec din : Nat) : List Val × Bool :=
  if bitAt rec 56 then
    let v := s.accRow node first row
    ((List.range din).map (fun k => if int then valOfInt (signed 32 (laneAt 32 v k)) else decodeFloat (floatFormat tF32) (laneAt 32 v k)),
      s.accBad node first row)
  else (s.fullRow node f row din, s.fullRowBad node f row din)

/-- One row at a node whose header and matrix have been read (R125, the last loop). -/
def walkRow (node first : Nat) (rm : Nat) (int : Bool) (f : TileD) (h : WalkNode)
    (m : List (List Val)) (mbad : Bool) (cs : List (Nat × Bool)) (row rec : Nat) : ReadM WalkRow := do
  let (xs, xbad) := rowInput (← get).s node first f int row rec h.din
  let ys := (List.range h.dout).map (fun c => xs.zip (m.map (fun r => r.getD c (.fin false 0 0))))
  let rs := ys.map (round32 rm int)
  let fl := allFlags (rs.map (·.2))
  let psn := bitAt rec 57 || xbad || mbad
  let rec1 := setFld rec 57 1 psn.toNat
  if h.kind == 1 then
    return { row := row, bits := setFld (setFld rec1 58 2 1) 0 49 h.nodeid,
             acc := some (rs.map (·.1) ++ List.replicate (64 - h.dout) 0), psn := psn, flags := fl }
  else
    match decide3 int h (rs.map (·.1)) with
    | none => return faultRow row rec fNAN
    | some j =>
      let (q, qbad) := cs.getD j (0, false)
      if qbad then return faultRow row rec fPOISON
      else if q == 0 then return faultRow row rec fNULL
      else if !pointerOk q 64 128 then return faultRow row rec fALIGN
      else
        let moved := setFld (setFld (setFld rec1 0 49 q) 49 6 (recDepth rec + 1)) 64 64 (fld rec 64 64 * 16 + j)
        if h.mode == 1 then
          match ← readHeader node q with
          | .error code => return faultRow row rec code
          | .ok hq =>
            if hq.din != h.dout then return faultRow row rec fFORMAT
            else
              let (acc, cf) := chainRow rm int f.tag ys
              return { row := row, bits := setFld moved 56 1 1, acc := some acc, psn := psn, flags := fl.or cf }
        else return { row := row, bits := setFld moved 56 1 0, psn := psn, flags := fl }

/-- The rows of a group one after another. -/
def walkRows (go : Nat → Nat → ReadM WalkRow) : List (Nat × Nat) → ReadM (List WalkRow)
  | [] => return []
  | (row, rec) :: rest => do
    let r ← go row rec
    let rs ← walkRows go rest
    return r :: rs

/-- One group of rows at a node (R125). The ALIGN fault of a malformed MPTR or CTAB comes before the faults of single rows. (DEDUCED, log 91) -/
def walkGroup (node first : Nat) (rm : Nat) (int : Bool) (f : TileD) (p : Nat) (g : List (Nat × Nat)) :
    ReadM (List WalkRow) := do
  let all (code : Nat) : List WalkRow := g.map (fun r => faultRow r.1 r.2 code)
  match ← readHeader node p with
  | .error code => return all code
  | .ok h =>
    if headerBad h int then return all fFORMAT
    else if !pointerOk h.mptr (planeSize h.mfmt) 128 || (h.kind == 0 && !pointerOk h.ctab (8 * h.kch) 8) then return all fALIGN
    else
      let early (r : Nat × Nat) : Option Nat :=
        if 31 < recDepth r.2 || (h.kind == 0 && recDepth r.2 == 31) then some fDEPTH
        else if !bitAt r.2 56 && h.din != f.cols + 1 then some fFORMAT
        else none
      let bad := g.filterMap (fun r => (early r).map (faultRow r.1 r.2))
      let live := g.filter (fun r => (early r).isNone)
      if live.isEmpty then return bad
      else
        match ← readNode node h with
        | .error code => return bad ++ live.map (fun r => faultRow r.1 r.2 code)
        | .ok (m, mbad, cs) =>
          let rs ← walkRows (walkRow node first rm int f h m mbad cs) live
          return bad ++ rs

/-- The groups one after another. -/
def walkGroups (go : Nat → List (Nat × Nat) → ReadM (List WalkRow)) (S : List (Nat × Nat)) : List Nat → ReadM (List WalkRow)
  | [] => return []
  | p :: ps => do
    let rs ← go p (S.filter (fun r => recNode r.2 == p))
    let more ← walkGroups go S ps
    return rs ++ more

/-- The record of a row of the progress tile at `base`; a walk reads it with no regard to poison marks. (DEDUCED, log 92) -/
def State.walkRec (s : State) (node base row : Nat) : Nat := s.peek (spAddr node (base + 16 * row)) 16

/-- The rows in S of a step (R125), with their records. -/
def State.walkSet (s : State) (node lim : Nat) (p : TileD) : List (Nat × Nat) :=
  ((List.range (p.rows + 1)).map (fun r => (r, s.walkRec node p.base r))).filter (fun r =>
    recStatus r.2 == 0 && (recDepth r.2 < lim || 31 < recDepth r.2))

/-- Commit a step (R128): records, accumulator rows, poison bits, AFMT and flags together. -/
def State.walkCommit (s : State) (node k first : Nat) (int : Bool) (p : TileD) (rs : List WalkRow) : State :=
  let s := rs.foldl (fun s r =>
    let s := s.poke (spAddr node (p.base + 16 * r.row)) 16 r.bits
    match r.acc with
    | some es => (s.setAccRow node first r.row (packFields 32 es)).setAccBad node first r.row r.psn
    | none => s) s
  let s := if rs.any (·.acc.isSome) then
      match s.run? node first with
      | some r => s.setRun node first { r with afmt := if int then tS32 else tF32 }
      | none => s
    else s
  let fl := allFlags (rs.map (·.flags))
  s.modEntry k (fun e => { e with st := stWith e.st fl })

/-- The lowest row that faulted, with its code. -/
def lowestFault : List WalkRow → Option (Nat × Nat)
  | [] => none
  | r :: rs =>
    match lowestFault rs with
    | some (row, c) => if r.fault != 0 && r.row < row then some (r.row, r.fault) else some (row, c)
    | none => if r.fault != 0 then some (r.row, r.fault) else none

/-- The walk summary (Table 7-8). -/
def State.walkSummary (s : State) (node : Nat) (p : TileD) : Nat :=
  let rs := (List.range (p.rows + 1)).map (s.walkRec node p.base)
  let n (st : Nat) : Nat := (rs.filter (fun r => recStatus r == st)).length
  (rs.filter (bitAt · 57)).length * 2 ^ 32 + n 3 * 2 ^ 24 + n 2 * 2 ^ 16 + n 1 * 2 ^ 8 + n 0

/-- The walk retires: its summary goes to W0 and the handler goes on (R137). -/
def State.walkRetire (s : State) (node : Nat) (j : ArrayJob) (p : TileD) : State :=
  let sum := s.walkSummary node p
  let s := s.leaveArray node j
  let s := s.poke (spAddr node (s.entry j.ent).wp) 8 sum
  s.modEntry j.ent (fun e => { e with state := .active, wait := .none, ip := (e.ip + 4) % 0x200000 })

/-- The descriptors a walk names: its row tile and progress tile. -/
def walkTiles (w : WalkJob) : TileD × TileD := (tileDesc w.f w.ftag, tileDesc w.p tPRG)

/-- S of the walk's next step with its records: as read when its read phase began, else as they stand (R128). -/
def State.stepRows (s : State) (node : Nat) (w : WalkJob) : List (Nat × Nat) := w.set.getD (s.walkSet node w.lim (walkTiles w).2)

/-- The walk has no step left to make (R137). -/
def State.walkDone (s : State) (node : Nat) (w : WalkJob) : Bool := w.stepped || (!w.single && (s.stepRows node w).isEmpty)

/-- The read phase of the next step of the walk in the array (R128), from the reads it has made: what it does to each row of S, or what it waits
for; and the reads made then. -/
def State.walkStep (s : State) (node : Nat) (j : ArrayJob) (w : WalkJob) : Except CmdWait (List WalkRow) × WalkReads :=
  let (f, _) := walkTiles w
  let S := s.stepRows node w
  let ptrs := S.foldl (fun acc r => setAdd acc (recNode r.2)) []
  let rm := stRM (s.entry j.ent).st
  (walkGroups (walkGroup node j.run rm (isMatInt w.ftag) f) S ptrs).run ⟨s, w.log, [], []⟩

/-- The line of W0 belongs to a READY or DRAINING tile, once the walk's own tiles are released (R223): its retirement waits. -/
def State.walkHeld (s : State) (node : Nat) (j : ArrayJob) : Bool := (s.leaveArray node j).regsHeld j.ent 0 8

/-- The walk in the array of `node` ends at a step boundary without retiring (R130): a step being read is abandoned, and IP stays; also for a WSTEP that has
made its step and waits to write W0, which then makes another. (DESIGN CHOICE, log 119) -/
def State.abandonWalk (s : State) (node : Nat) : State :=
  match mget? s.arrays node with
  | some j =>
    match j.walk with
    | some w =>
      let s := s.leaveArray node j
      let s := { s with agenda := s.agenda.filter (fun ev => ev != Event.walkStepCommit node) }
      s.modEntry j.ent (fun e => { e with state := .active, wait := .none, seq := match w.wait with | .fault _ _ => (e.seq + 1) % 256 | _ => e.seq })
    | none => s
  | none => s

/-- WALK_STEP_COMMIT (R128): the walk in the array of `node` makes its next step, waits for a translation, or retires. -/
def execWalkStepCommit (node : Nat) (s : State) : Host.Outcome State Fault Refusal :=
  .next (match mget? s.arrays node with
    | none => s
    | some j =>
      match j.walk with
      | none => s
      | some w =>
        let (_, p) := walkTiles w
        let again (s : State) (g : WalkJob → WalkJob) : State := (s.modWalk node g).later (.walkStepCommit node)
        let ends (s : State) : State := if s.walkHeld node j then again s (fun w => { w with stepped := true }) else s.walkRetire node j p
        if s.walkDone node w then ends s
        else
          let (res, r) := s.walkStep node j w
          let read (wait : CmdWait) (x : WalkJob) : WalkJob := { x with wait := wait, set := some (s.stepRows node w), log := r.made.reverse }
          match res with
          | .error (.miss va) => (again r.s (read (.miss va))).sendMiss node va (s.requester j.ent accRead)
          | .error (.fault va c) => (again r.s (read (.fault va accRead))).sendFault node va (s.requester j.ent accRead) c
          | .error _ => again r.s (read .none)
          | .ok rs =>
            let s := r.s.walkCommit node j.ent j.run (isMatInt w.ftag) p rs
            match if w.traps then lowestFault rs else none with
            | some (row, code) => ((s.leaveArray node j).unblock j.ent).takeTrap j.ent 0x0C (row + 32 * code) false
            | none =>
              if w.single then ends s
              else again s (fun w => { w with log := [], set := none, cache := cacheAfter w.cache r.hdrs }))

/-! ### WALK, WSTEP -/

/-- WALK and WSTEP (R136, R137): `e` is the trap enable, `k` the constant of the step limit, absent for WSTEP. -/
def walkInstr (op z f p e : Nat) (k : Option Nat) (s : State) : Host.Outcome State Fault Refusal :=
  runInstr xWALK op (do
    let (first, r) ← needRun z
    let fw ← readT f
    let ft ← readTag (16 + f)
    let pw ← readT p
    let pt ← readTag (16 + p)
    let df := tileDesc fw ft
    let dp := tileDesc pw pt
    let int := isMatInt ft
    let acc := if int then tS32 else tF32
    checkAll [⟨0, z, 4 ≤ r.count⟩, ⟨1, f, df.kind == 0⟩, ⟨2, p, dp.kind == 2⟩, ⟨1, f, descOk df⟩, ⟨2, p, descOk dp⟩,
      ⟨2, p, dp.rows == df.rows⟩]
    if !isMatTag ft then formatTrap 0 ft 1
    else if pt != tPRG then formatTrap tPRG pt 2
    else if r.afmt != 0 && r.afmt != acc then formatTrap acc r.afmt 0
    else
      let steps ← match k with
        | some k => readK k
        | none => pure 32
      let lim := min steps.toNat 32
      waitArray
      waitTiles [df, dp]
      leaveWith .walk (fun s =>
        (s.enterArray first [df, dp] (some { f := fw, ftag := ft, p := pw, lim := lim, traps := e == 1, single := k.isNone })).later (.walkStepCommit s.node))) s

/-- WALK. -/
def execWalk (z f p e k : Nat) (s : State) : Host.Outcome State Fault Refusal := walkInstr 0x37 z f p e (some k) s
/-- WSTEP. -/
def execWstep (z f p e : Nat) (s : State) : Host.Outcome State Fault Refusal := walkInstr 0x38 z f p e none s

/-! ### Progress records (R138, R139) -/

/-- The checks of R138 for the progress tile `p`; `more` are the checks of step 2. (DEDUCED, log 15) -/
def progressTile (p : Nat) (more : TileD → List Check) : M TileD := do
  let d ← readTile p
  checkAll ([⟨2, p, d.kind == 2 && descOk d⟩] ++ more d)
  if d.tag != tPRG then formatTrap tPRG d.tag 2
  else
    waitTiles [d]
    return d

/-- The address of a record. -/
def recordAddr (d : TileD) (row : Nat) : M Nat := do return spAddr (← getS).node (d.base + 16 * row)

/-- Read `n` bytes of progress records: their poison marks raise no trap (R133, R139). -/
def readRecords (a n : Nat) : M Nat := do
  let s ← getS
  if s.hasEmpty a n then blockOn .retry else return s.peek a n

/-- WINIT: every record of the tile takes the Reset values of Table 7-4. -/
def execWinit (p r : Nat) (s : State) : Host.Outcome State Fault Refusal :=
  runInstr xWALK 0x36 (do
    let root := (← readW r).toNat
    let d ← progressTile p (fun _ => [⟨4, r, fld root 49 15 == 0⟩])
    let a ← recordAddr d 0
    modS (fun s => s.poke a (16 * (d.rows + 1)) (packFields 128 (List.replicate (d.rows + 1) root)))
    advance 4) s

/-- WRES: record and PATH of a row; PSN raises the poison trap. -/
def execWres (p dr sr : Nat) (s : State) : Host.Outcome State Fault Refusal :=
  runInstr xWALK 0x39 (do
    let row := (← readW sr).toNat
    let d ← progressTile p (fun d => [⟨4, dr + 16 * sr, dr != 15⟩, ⟨4, dr + 16 * sr, row ≤ d.rows⟩])
    let v ← readRecords (← recordAddr d row) 16
    if bitAt v 57 then notePoison 2 row
    writeW dr (BitVec.ofNat 64 v)
    writeW (dr + 1) (BitVec.ofNat 64 (v / 2 ^ 64))
    advance 4) s

/-- WFIX: a faulted row becomes ACTIVE. -/
def execWfix (p sr : Nat) (s : State) : Host.Outcome State Fault Refusal :=
  runInstr xWALK 0x3A (do
    let row := (← readW sr).toNat
    let d ← progressTile p (fun d => [⟨4, 16 * sr, row ≤ d.rows⟩])
    let a ← recordAddr d row
    let v ← readRecords a 16
    if recStatus v == 3 then modS (fun s => s.poke a 16 (setFld (setFld v 58 2 0) 60 4 0))
    advance 4) s

/-- WCNT: rows of a status. -/
def execWcnt (p x dr : Nat) (s : State) : Host.Outcome State Fault Refusal :=
  runInstr xWALK 0x3B (do
    let d ← progressTile p (fun _ => [⟨4, x, x ≤ 3⟩])
    let a ← recordAddr d 0
    let v ← readRecords a (16 * (d.rows + 1))
    let n := ((List.range (d.rows + 1)).filter (fun r => recStatus (fld v (128 * r) 128) == x)).length
    writeW dr (BitVec.ofNat 64 n)
    advance 4) s

end Sys2Proof.Machine
end

