-- ==== Sys2Proof/Machine/Replies.lean ====
section
/-!
DEFINITION. The reply to a fault message at its requester (14 R245, R246).
-/
namespace Sys2Proof.Machine
open Sys2Proof

/-- A handler that waits for a fault reply takes it: it translates again, or takes the far-access trap with STATUS PAGE. -/
def State.entryReply (s : State) (k : Nat) (retry : Bool) : State :=
  let s := s.modEntry k (fun e => { e with seq := (e.seq + 1) % 256 })
  if retry then s.modEntry k (fun e => { e with wait := .retry })
  else s.takeTrap k 0x0B 3 false

/-- A walk that waits for a fault reply takes it: the read is repeated, or it alone gives FAULT PAGE for the rows concerned. -/
def State.walkReply (s : State) (node : Nat) (j : ArrayJob) (w : WalkJob) (va : Nat) (retry : Bool) : State :=
  let w := { w with wait := .none, log := if retry then w.log else w.log ++ [(2 ^ 60 + va, none)] }
  { s with arrays := mset s.arrays node { j with walk := some w } }.modEntry j.ent (fun e => { e with seq := (e.seq + 1) % 256 })

/-- The entries that a requester word of UNIT 0 can name: that of the vat's core, or for CORE 3 those of the cluster's service cores, the translation core's
first. (DESIGN CHOICE, log 66) -/
def requesterKeys (w : Nat) : List Nat :=
  let vat := fld w 0 11
  let core := fld w 12 2
  let i := fld w 16 5
  if core == 3 then
    if vat == homeVat (svcNode (clusterOf vat) 0) then
      [32 * (4 * svcNode (clusterOf vat) 0 + 3) + i, 32 * (4 * svcNode (clusterOf vat) 1 + 3) + i]
    else []
  else [32 * (4 * vat + core) + i]

/-- The entry is blocked on a fault reply with this SEQ. -/
def State.entryAwaits (s : State) (seq k : Nat) : Bool :=
  let e := s.entry k
  e.state == .blocked && e.seq == seq && (match e.wait with | .fault _ _ => true | _ => false)

/-- The walk that entry `k` has in the array, if it waits for a fault reply: with the address. -/
def State.walkAwaits (s : State) (seq k : Nat) : Option (ArrayJob × WalkJob × Nat) :=
  match mget? s.arrays (nodeOf (k / 32)) with
  | some j =>
    match j.walk with
    | some w => if j.ent == k && (s.entry k).seq == seq then
        (match w.wait with
          | .fault va _ => some (j, w, va)
          | _ => none)
      else none
    | none => none
  | none => none

/-- The reply reaches a handler or its walk. -/
def State.handlerReply (s : State) (w : Nat) (retry : Bool) : State :=
  let seq := fld w 24 8
  match (requesterKeys w).find? (s.entryAwaits seq) with
  | some k => s.entryReply k retry
  | none =>
    match (requesterKeys w).findSome? (s.walkAwaits seq) with
    | some (j, wj, va) => s.walkReply (nodeOf (j.ent / 32)) j wj va retry
    | none => s

/-- A command that waits for a fault reply takes it (R257): it repeats the access, or ends there. -/
def State.cmdReply (s : State) (node i : Nat) (c : Cmd) (retry : Bool) : State :=
  let s := s.bumpCmdSeq node i
  if retry then s.setCmd node i { c with wait := .none }
  else
    match c.kind with
    | .xfer => s.failCopy node i c
    | .mcast => s.failMcast node i c
    | .gath => s.failGath node i c
    | .glz => s.failGlz node i c
    | .fabric => s.failFabric node i c

/-- The reply to the fault messages of a vat's filling entries, which name unit index 12: a retry repeats the write, a fail ends it
with STATUS PAGE. -/
def State.matchReply (s : State) (node : Nat) (retry : Bool) : State :=
  { s with matching := s.matching.map (fun p =>
      if p.2.node == node && p.2.wait != .none then
        (p.1, { p.2 with wait := .none, status := if retry then p.2.status else 3 })
      else p) }

/-- Some image write or image read of a vat waits for a reply. -/
def faultWait (node : Nat) (m : Map CmdWait) : Bool :=
  match mget m node .none with
  | .fault _ _ => true
  | _ => false

/-- The reply to the fault message of a vat's image write, unit index 13 (R312): a fail makes the image fail. -/
def State.imageReply (s : State) (node : Nat) (retry : Bool) : State :=
  { s with images := s.images.map (fun j =>
      if faultWait node j.waits then { j with waits := mdel j.waits node, failed := j.failed || !retry } else j) }

/-- The reply to the fault message of a vat that reads an image to resume it, unit index 14. -/
def State.resumeReply (s : State) (node : Nat) (retry : Bool) : State :=
  { s with resumes := s.resumes.map (fun j =>
      if faultWait node j.waits then { j with waits := mdel j.waits node, fails := if retry then j.fails else setAdd j.fails node }
      else j) }

/-- The reply reaches an engine command, a stream unit, the filling matching entries of the vat, or its image. -/
def State.engineReply (s : State) (w : Nat) (retry : Bool) : State :=
  let node := fld w 0 11
  let i := fld w 16 5
  let seq := fld w 24 8
  let hit (x : CmdWait) : Bool := mget s.cmdSeqs (16 * node + i) 0 == seq && (match x with | .fault _ _ => true | _ => false)
  if i < 8 then
    match s.cmd? node i with
    | some c => if hit c.wait then s.cmdReply node i c retry else s
    | none => s
  else if i == 12 then
    (if mget s.cmdSeqs (16 * node + 12) 0 == seq && s.matching.any (fun p => p.2.node == node && p.2.wait != .none) then
      (s.bumpCmdSeq node 12).matchReply node retry
    else s)
  else if i == 13 then
    (if mget s.cmdSeqs (16 * node + 13) 0 == seq && s.images.any (fun j => faultWait node j.waits) then
      (s.bumpCmdSeq node 13).imageReply node retry
    else s)
  else if i == 14 then
    (if mget s.cmdSeqs (16 * node + 14) 0 == seq && s.resumes.any (fun j => faultWait node j.waits) then
      (s.bumpCmdSeq node 14).resumeReply node retry
    else s)
  else
    match s.strm? node (i - 8) with
    | some u =>
      if hit u.wait && i < 12 then
        let s := s.bumpCmdSeq node i
        if retry then s.setStrm node (i - 8) { u with wait := .none }
        else (s.releaseAll u.tiles).setStrm node (i - 8) { u with wait := .none, ended := true, status := max u.status 3, tiles := [] }
      else s
    | none => s

/-- Entry `k` stops waiting for a fault reply (R246): its SEQ counts it, and its instruction translates again. -/
def State.dropEntryFault (s : State) (k : Nat) : State :=
  match (s.entry k).wait with
  | .fault _ _ => s.modEntry k (fun e => { e with seq := (e.seq + 1) % 256, wait := .retry })
  | _ => s

/-- A halt reaches the handlers of a core (R314, R246, R130): none waits for a fault reply any more, and a walk in the array stops at its step
boundary. -/
def State.haltHandlers (s : State) (ck : Nat) : State :=
  let s := (List.range 32).foldl (fun s e => s.dropEntryFault (32 * ck + e)) s
  match mget? s.arrays (nodeOf ck) with
  | some j => if j.ent / 32 == ck then s.abandonWalk (nodeOf ck) else s
  | none => s

/-- FAULT_REPLY_ARRIVAL (R246): a reply that names no requester now waiting with its SEQ is discarded. -/
def execFaultReplyArrival (requester : Nat) (retry : Bool) (s : State) : Host.Outcome State Fault Refusal :=
  .next (if fld requester 14 2 == 0 then s.handlerReply requester retry
    else if fld requester 14 2 == 1 && fld requester 12 2 == 0 then s.engineReply requester retry else s)

end Sys2Proof.Machine
end

