-- ==== Sys2Proof/Machine/Fabric.lean ====
section
/-!
DEFINITION. Fabric sends (21 R325 to R329) and the fabric matching table (R330 to R332).
-/
namespace Sys2Proof.Machine
open Sys2Proof

/-! ### FSEND (R326, R327) -/

/-- The body of an SRW to FSEND with offset `off`: its checks, and the command it starts. (DEDUCED, log 54) -/
def fsendBody (r off : Nat) : M Unit := do
  let st ← getS
  checkAll [⟨0, r, !isService st.node && st.coreNo == 0⟩, ⟨0, r, 0x2000 ≤ off && off < 0x200000⟩]
  if off % 32 != 0 then alignmentTrap off
  else
    let v ← readSp (spAddr st.node off) 32
    let ctl : Word := BitVec.ofNat 64 (fld v 0 64)
    let src := fld v 64 64
    let w2 := fld v 128 64
    let mtag := fld v 192 64
    let n := ctlLen ctl.toNat
    checkAll [⟨0, r, st.ctlOk ctl.toNat 16 0xFFFFF0 false && n % 16 == 0⟩, ⟨0, r, fld w2 10 54 == 0⟩,
      ⟨0, r, fld w2 0 10 < st.fabric.count⟩, ⟨0, r, nearRangeOk src n⟩]
    addrCheck src 16
    if !st.fabric.held.isEmpty then blockOn .retry
    applyAcq ctl.toNat
    startCmd { kind := .fabric, lid := 0, ent := 0, ctl := ctl, src := BitVec.ofNat 64 src, dst := 0,
               args := [mtag, fld w2 0 10], limit := n } (fun node i => [.xferUnit node i])

/-- FABRIC_ACKNOWLEDGEMENT (R327): the command completes with KIND 5. -/
def execFabricAcknowledgement (node cmd status : Nat) (s : State) : Host.Outcome State Fault Refusal :=
  .next (match s.cmd? node cmd with
    | some c => if c.kind == .fabric && c.closing then
        (s.setCmd node cmd { c with done := if status == 0 then c.limit else 0, status := max c.status status }).later
          (.engineCompletion node cmd)
      else s
    | none => s)

/-- FABRIC_DELIVERY_FAILURE (R327): STATUS LINK. -/
def execFabricDeliveryFailure (node cmd : Nat) (s : State) : Host.Outcome State Fault Refusal :=
  .next (match s.cmd? node cmd with
    | some c => if c.kind == .fabric && c.closing then
        (s.setCmd node cmd { c with status := max c.status 5 }).later (.engineCompletion node cmd)
      else s
    | none => s)

/-! ### The matching table (R330) -/

def State.matchOf (s : State) (e : Nat) : Match := mget s.matching e {}
def State.setMatch (s : State) (e : Nat) (m : Match) : State := { s with matching := mset s.matching e m }

/-- The entry belongs to the executing handler's slot, or to none. -/
def State.matchMine (s : State) (m : Match) : Bool := m.state == 0 || (m.node == s.node && m.slot == s.curEntry.slot)

/-- Word `w` of an entry as the executing handler reads it. -/
def State.matchWord (s : State) (e w : Nat) : Nat :=
  let m := s.matchOf e
  if !s.matchMine m then 0
  else
    match w with
    | 0 => m.mtag.toNat
    | 1 => m.addr.toNat
    | 2 => m.len * 2 ^ 40 + m.dst.toNat % 2 ^ 32
    | _ => (if m.state == 0 then 0 else 2 ^ 63 + m.state * 2 ^ 61 + m.slot * 2 ^ 59) + m.tag

/-- DST names a channel that the slot reserves on the vat it names (Table 21-3). -/
def State.matchDstOk (s : State) (w : Nat) : Bool :=
  !bitAt w 30 && !bitAt w 31 &&
  (match destCore s.node false w with
    | some ck =>
      (match s.slotOfLid (nodeOf ck) s.curLid with
        | some (_, r) => bitAt (reservedChans r (coreOf ck)) (fld w 20 4)
        | none => false)
    | none => false)

/-- The words of an entry pass the checks of arming; `w3` is the word written to word 3. -/
def State.armOk (s : State) (m : Match) (w3 : Nat) : Bool :=
  let a := m.addr.toNat
  fld w3 16 43 == 0 && 16 ≤ m.len && m.len ≤ 0xFFFFF0 && m.len % 16 == 0 && s.matchDstOk m.dst.toNat &&
  addrOk a && a % 16 == 0 && nearRangeOk a m.len

/-- The body of an SRW of `v` to word 3 of entry `e` (R330): arms or disarms. -/
def matchControl (r e v : Nat) : M Unit := do
  let st ← getS
  let m := st.matchOf e
  checkAll [⟨0, r, !isService st.node && st.coreNo == 0⟩, ⟨0, r, st.matchMine m⟩, ⟨0, r, m.state != 2⟩]
  if bitAt v 63 then
    checkAll [⟨0, r, st.armOk m v⟩]
    modS (fun s => s.setMatch e { m with state := 1, slot := s.curEntry.slot, node := s.node, lid := s.curLid, tag := v % 2 ^ 16,
                                         status := 0, wait := .none })
  else modS (fun s => s.setMatch e { m with state := 0, slot := 0, node := 0, lid := 0, tag := v % 2 ^ 16 })

/-- The body of an SRW of `v` to word `w` below 3 of entry `e`: only while STATE is 0. Reserved bits 39:32 of word 2 are zero. -/
def matchField (r e w v : Nat) : M Unit := do
  let st ← getS
  let m := st.matchOf e
  checkAll [⟨0, r, !isService st.node && st.coreNo == 0⟩, ⟨0, r, m.state == 0⟩]
  modS (fun s => s.setMatch e (match w with
    | 0 => { m with mtag := BitVec.ofNat 64 v }
    | 1 => { m with addr := BitVec.ofNat 64 v }
    | _ => { m with len := fld v 40 24, dst := BitVec.ofNat 64 (v % 2 ^ 40) }))

/-! ### Arrival (R331) -/

/-- The lowest-numbered armed entry with the message's MTAG and LEN. -/
def State.matchFor (s : State) (m : FabricMsg) : Option Nat :=
  (List.range 128).find? (fun e =>
    let x := s.matchOf e
    x.state == 1 && x.mtag.toNat == m.mtag % 2 ^ 64 && x.len == m.len)

/-- A packet from this fabric address is read: the address has a domain, or is the device's own (R325). (DEDUCED, log 34) -/
def State.heard (s : State) (addr : Nat) : Bool := addr == s.fabric.addr || s.fabric.domains.any (fun p => p.1 == addr)

/-- Acknowledge a message to its sender, where that is a command of this device. -/
def State.acknowledge (s : State) (m : FabricMsg) (status : Nat) : State :=
  if m.src == s.fabric.addr then s.later (.fabricAcknowledgement m.node m.cmd status) else s

/-- The payload is written, or its write has failed: the record of KIND 6 goes to DST, the entry becomes idle, the sender is
acknowledged. -/
def State.arrived (s : State) (m : FabricMsg) (e done : Nat) : State :=
  let x := s.matchOf e
  let s := (s.release .package (· == .receive e)).setMatch e { x with state := 0, slot := 0, node := 0, lid := 0, status := 0, wait := .none }
  let d := x.dst.toNat
  let s := match destCore x.node false d with
    | some ck => s.post ck (fld d 20 4) { words := [completionWord done x.tag 6 x.status], acq := true }
    | none => s
  s.acknowledge m 0

/-- The bytes of the next unit of a payload with their marks, in words. -/
def payloadWords (m : FabricMsg) (pos n : Nat) : List (Nat × Bool) :=
  (List.range (n / 8)).map (fun j => (fld m.data (8 * pos + 64 * j) 64, bitAt m.data (8 * m.len + pos / 8 + j)))

/-- What an arriving message does next, if it can: a match, or the next 16-byte unit of its payload (R257). (DESIGN CHOICE, log 33) -/
def State.arrivalStep (s : State) (m : FabricMsg) : Option State :=
  if !s.heard m.src then some s
  else
    match m.at' with
    | none =>
      match s.matchFor m with
      | none => some (s.acknowledge m 4)
      | some e => some ((s.setMatch e { s.matchOf e with state := 2 }).later (.fabricArrival { m with at' := some (e, 0) }))
    | some (e, pos) =>
      let x := s.matchOf e
      if x.state != 2 then some s
      else if x.wait != .none then none
      else if x.status == 3 || m.len ≤ pos then
        (if (destCore x.node false x.dst.toNat).all (fun ck => s.recordsWaiting ck < 48) then some (s.arrived m e (min pos m.len)) else none)
      else
        let ws := payloadWords m pos 16
        let x := { x with status := max x.status (if ws.any Prod.snd then 1 else 0) }
        let on (s : State) : State := s.later (.fabricArrival { m with at' := some (e, pos + 16) })
        match engAt x.addr.toNat pos with
        | none => some (on (s.setMatch e { x with status := max x.status 2 }))
        | some (false, a) =>
          if !s.mayReach x.node a 16 then none
          else
            let s := ((s.setMatch e x).putWords a ws).creditAt a 16
            let fin := if pos + 16 == m.len then a + 16 else (a + 16) / 128 * 128
            some (on (if a / 128 * 128 < fin then s.fillAt (a / 128 * 128) (fin - a / 128 * 128) else s))
        | some (true, va) =>
          match s.farPut (.receive e) x.node va ws with
          | .ok (s, st) => some (on (s.setMatch e { x with status := max x.status st }))
          | .error err =>
            match s.engWaits x.node 12 err with
            | some (s', w) =>
              (match w with
                | .fault _ _ => some ((s'.setMatch e { x with wait := w }).later (.fabricArrival m))
                | _ => if s'.misses == s.misses then none else some (s'.later (.fabricArrival m)))
            | none => none

/-- FABRIC_ARRIVAL (R331). -/
def execFabricArrival (m : FabricMsg) (s : State) : Host.Outcome State Fault Refusal :=
  .next (s.orLater (.fabricArrival m) (s.arrivalStep m))

end Sys2Proof.Machine
end

