-- ==== Sys2Proof/Machine/Near.lean ====
section
/-!
DEFINITION. Near space (12 R201 to R203, R218): RLD, RST, the requests and replies on their way, and the combination of an atomic with
a word (R217). A remote read fixes its granule for the phase (13 SNAPSHOT).
-/
namespace Sys2Proof.Machine
open Sys2Proof

/-! ### Addresses -/

/-- The node of a near address (R201). -/
def nearNode (ea : Nat) : Nat := vatAt (fld ea 26 6) (fld ea 21 5)
/-- The offset of a near address. -/
def nearOff (ea : Nat) : Nat := fld ea 0 21

/-! ### Remote reads (13 Table 13-4 SNAPSHOT) -/

/-- An earlier value of a far granule is as new as all that the activation of entry `k` has read of it and its handler has written there (COHERENCE). -/
def State.farOpen (s : State) (k : Nat) (c : Copy) : Bool :=
  let e := s.entry k
  mget e.readAt c.num 0 ≤ c.kept && mget e.wroteAt c.num 0 ≤ c.kept && !s.agenda.any (farInFlight k e.phase c.num)

/-- An earlier value of a near granule of another vat is as new as every access that the activation of entry `k` has made there (LOCAL, COHERENCE). -/
def State.nearOpen (s : State) (k : Nat) (c : Copy) : Bool :=
  let node := c.num / 0x8000
  nodeOf (k / 32) != node && mget (s.entry k).nearAt node 0 ≤ c.kept && !s.agenda.any (storeInFlight k node)

/-- Entry `k` finds an earlier value of a granule as its first read of it in its phase (R231): none that a release before its last acquire serves it past
(PHASE). (DESIGN CHOICE, log 97) -/
def State.recallCopy (s : State) (k i : Nat) : State :=
  let e := s.entry k
  match s.stale[i]? with
  | some c =>
    if activated e && c.open (nodeOf (k / 32)) e.relAt && e.floor ≤ c.kept && (if c.far then s.farOpen k c else s.nearOpen k c) &&
        (s.granule k e.phase c.far c.num).isNone then
      let s := s.noteGranule k (c.granule e.phase)
      if c.far then s.modEntry k (fun e => { e with readAt := mset e.readAt c.num (max (mget e.readAt c.num 0) c.kept) })
      else s.modEntry k (fun e => { e with nearAt := mset e.nearAt (c.num / 0x8000) (max (mget e.nearAt (c.num / 0x8000) 0) c.kept) })
    else s
  | none => s

/-- A copy of a near granule is kept for remote reads that still return it (R231): its line is full, and lies above the constant windows. (DESIGN
CHOICE, log 97) -/
def State.keepNear (s : State) (num : Nat) : State :=
  if s.hasEmpty (64 * num) 64 || num % 0x8000 < 0x80 then s
  else { s with stale := s.stale ++ [{ far := false, num := num, data := s.peek (64 * num) 64, marks := marksIn s.poison (8 * num) 8, kept := s.turn }] }

/-- The 64-byte granule of near space at address `a` as entry `k` reads it in its phase: the one it has, or the bytes as they
stand, recorded. Offsets below 0x2000 read as zero remotely (Table 12-1). -/
def State.readGranule (s : State) (k a : Nat) : State × Granule :=
  let e := s.entry k
  match s.granule k e.phase false (a / 64) with
  | some g => (s, g)
  | none =>
    let b := a / 64 * 64
    let g : Granule := if a % 0x200000 < 0x2000 then ⟨e.phase, false, a / 64, 0, []⟩
      else ⟨e.phase, false, a / 64, s.peek b 64, marksIn s.poison (b / 8) 8⟩
    ((s.noteGranule k g).nearSeen k (a / 0x200000), g)

/-! ### Requests -/

/-- The word that a read of operand field `f` pops, as it stands. -/
def State.poppedBy (s : State) (f : Nat) : List Taken :=
  if isQueue f then ((takeEntry s.curEntry.slot (s.queue s.node (f - 32))).map (fun p => Taken.queue (f - 32) p.1)).toList
  else if isChan f then ((s.box s.cur.ck (f - 40)).head?.map (Taken.chan (f - 40))).toList
  else []

/-- Send a request and wait for its reply with the words popped remembered (R16). -/
def leaveFor (oid : Nat) (taken : List Taken) (f : State → State) : M Unit :=
  leaveWith (.reply oid) (fun s => (f s).modEntry s.curKey (fun e => { e with taken := taken }))

/-- The words that entry `k` has popped go back to the heads of their channel and queue: its instruction traps or is withdrawn.
Their room has been kept for them (`State.boxFits`, `State.hasRoom`), so no head exceeds its depth. (DEDUCED, log 103) -/
def State.putBack (s : State) (k : Nat) : State :=
  (s.entry k).taken.foldr (fun t s =>
    match t with
    | .chan c w => s.setBox (k / 32) c (w :: s.box (k / 32) c)
    | .queue q e => s.setQueue (nodeOf (k / 32)) q (e :: s.queue (nodeOf (k / 32)) q)) s

/-- RLD (R203). -/
def execRld (d a : Nat) (s : State) : Host.Outcome State Fault Refusal :=
  runInstr xFAR 0x50 (do
    classes (fun s => [⟨0, d, isW d⟩, ⟨1, a, wSource s a⟩])
    let ea := (← srcW a).toNat
    let st ← getS
    if 2 ^ 32 ≤ ea then addressTrap ea
    else if ea % 8 != 0 then alignmentTrap ea
    else if nearNode ea == st.node then do
      writeW d (BitVec.ofNat 64 (← loadLocal (nearOff ea) 8))
      advance 4
    else
      let oid ← takeOut false
      leaveFor oid (s.poppedBy a) (fun s => s.later (.nearReadRequest
        ⟨s.cur.ck, s.cur.ent, .read, spAddr (nearNode ea) (nearOff ea), 0, 0, d, s.curLid, oid⟩))) s

/-- RST (R203). -/
def execRst (a b : Nat) (s : State) : Host.Outcome State Fault Refusal :=
  runInstr xFAR 0x51 (do
    classes (fun s => [⟨1, a, wSource s a⟩, ⟨2, b, isW b⟩])
    let ea := (← srcW a).toNat
    let v ← readW b
    let st ← getS
    if nearOff ea < 0x2000 then illegalOperand 0 3
    else if 2 ^ 32 ≤ ea then addressTrap ea
    else if ea % 8 != 0 then alignmentTrap ea
    else if nearNode ea == st.node then do
      storeLocal (nearOff ea) 8 v.toNat
      advance 4
    else
      let oid ← takeOut false
      let addr := spAddr (nearNode ea) (nearOff ea)
      modS (fun s => (s.dropGranules s.curKey false (addr / 64) 1).later
        (.nearStoreArrival ⟨s.cur.ck, s.cur.ent, .write, addr, v, 0, 0, s.curLid, oid⟩))
      advance 4) s

/-- The word an atomic writes (R217); a CAS that fails writes none. -/
def atomicResult (op : MemOp) (old cmp data : Word) : Option Word :=
  match op with
  | .read => none
  | .write => some data
  | .cas => if old == cmp then some data else none
  | .add => some (old + data)
  | .and => some (old &&& data)
  | .or => some (old ||| data)
  | .xor => some (old ^^^ data)
  | .min => some (if data.slt old then data else old)
  | .max => some (if old.slt data then data else old)
  | .minu => some (if data.ult old then data else old)
  | .swap => some data

/-! ### At the target -/

/-- A line of the request's word is empty, so that a read or atomic waits there alone (R203, R206). -/
def State.lineEmpty (s : State) (r : NearReq) : Bool := s.hasEmpty r.addr 8

/-- NEAR_READ_REQUEST (R203): the read is performed once the line is full. -/
def execNearReadRequest (r : NearReq) (s : State) : Host.Outcome State Fault Refusal :=
  .next (if s.lineEmpty r then s.later (.nearReadRequest r)
    else
      let (s, g) := s.readGranule (32 * r.src + r.ent) r.addr
      let i := r.addr / 8 % 8
      s.later (.nearReadReply r (fld g.data (64 * i) 64) (g.marks.contains i)))

/-- A store to the request's word waits for its tile entry (R223). -/
def State.storeWaits (s : State) (r : NearReq) : Bool := s.tileHeld (r.addr / 0x200000) (r.addr % 0x200000) 8

/-- NEAR_STORE_ARRIVAL (R203): the store is performed, whether its line is full or empty, once no READY or DRAINING tile holds
it. -/
def execNearStoreArrival (r : NearReq) (s : State) : Host.Outcome State Fault Refusal :=
  .next (if s.storeWaits r then s.later (.nearStoreArrival r)
    else ((s.poke r.addr 8 r.data.toNat).nearSeen (32 * r.src + r.ent) (r.addr / 0x200000)).freeOut r.src r.oid)

/-- NEAR_ATOMIC_ARRIVAL (R217, R218): one indivisible step at the owning vat; a poisoned word is not modified. -/
def execNearAtomicArrival (r : NearReq) (s : State) : Host.Outcome State Fault Refusal :=
  .next (if s.lineEmpty r || s.storeWaits r then s.later (.nearAtomicArrival r)
    else
      let old : Word := BitVec.ofNat 64 (s.peek r.addr 8)
      let s := s.nearSeen (32 * r.src + r.ent) (r.addr / 0x200000)
      if (s.poisoned r.addr 8).isSome then s.later (.nearReadReply r 0 true)
      else
        let s := match atomicResult r.op old r.cmp r.data with
          | some v => s.poke r.addr 8 v.toNat
          | none => s
        s.later (.nearReadReply r old.toNat false))

/-! ### The reply -/

/-- Entry `k` waits for the reply of outstanding slot `oid`. -/
def State.awaitsReply (s : State) (k oid : Nat) : Bool := (s.entry k).state == .blocked && (s.entry k).wait == .reply oid

/-- Write W register `d` of entry `k`. -/
def State.setW (s : State) (k d v : Nat) : State := s.poke (spAddr (nodeOf (k / 32)) ((s.entry k).wp + 8 * d)) 8 v

/-- A near reply waits for the line of its destination register (R223). -/
def State.replyWaits (s : State) (r : NearReq) (poisoned : Bool) : Bool :=
  let k := 32 * r.src + r.ent
  s.awaitsReply k r.oid && !poisoned && s.regsHeld k (8 * r.reg) 8

/-- The instruction at which entry `k` waits retires. -/
def State.retire (s : State) (k : Nat) : State :=
  s.modEntry k (fun e => { e with state := .active, wait := .none, ip := (e.ip + 4) % 0x200000 })

/-- NEAR_READ_REPLY (R203, R218): the destination is written and the instruction retires, or takes the poison trap. The INFO of an RLD
names the scratchpad word, that of an atomic the address (19 Table 19-2); a popped address word goes back to its head (R28). -/
def execNearReadReply (r : NearReq) (data : Nat) (poisoned : Bool) (s : State) : Host.Outcome State Fault Refusal :=
  let k := 32 * r.src + r.ent
  let s' := s.freeOut r.src r.oid
  .next (if s.replyWaits r poisoned then s.later (.nearReadReply r data poisoned)
    else if s.awaitsReply k r.oid then
      (if poisoned then
        (s'.putBack k).takeTrap k 0x09 ((if r.op == .read then 0 else 3) * 2 ^ 21 + r.addr % 2 ^ 21) false
      else (s'.setW k r.reg data).retire k)
    else s')

end Sys2Proof.Machine
end

