-- ==== Sys2Proof/Machine/Far.lean ====
section
/-!
DEFINITION. Far space (12 R208 to R217, R219): RDF, WRF, LDF, STF, the atomics CAS and AMO, their requests at far memory
and at the atomic engines, and their replies. A far access is performed 16 bytes at a time (R215).
-/
namespace Sys2Proof.Machine
open Sys2Proof

/-! ### Requests -/

/-- The address checks of a far access of `n` bytes (R209, R213; R201 for an AREL result that leaves the mesh). -/
def farCheck (ea n : Nat) : M Unit :=
  if ea == offMesh || !farWordOk ea then addressTrap ea else if ea % n != 0 then alignmentTrap ea else pure ()

/-- A far request of the executing handler. -/
def farReq (s : State) (op : MemOp) (ea pa size data cmp : Nat) (replyTo : ReplyTo) (oid : Nat) : FarReq :=
  { src := s.cur.ck, ent := s.cur.ent, op := op, va := ea % 2 ^ 57, pa := pa, size := size, data := data, cmp := cmp, replyTo := replyTo,
    lid := s.curLid, oid := oid, phase := s.curEntry.phase }

/-- The far granules of `n` bytes. -/
abbrev granulesOf (pa n : Nat) : Nat := (pa + n - 1) / 16 + 1 - pa / 16

/-- The executing handler writes `n` far bytes at `pa`: its snapshot of their granules ends. -/
def State.farWrites (s : State) (pa n : Nat) : State := s.dropGranules s.curKey true (pa / 16) (granulesOf pa n)

/-- A write of request `r` to the bytes of its unit at `pa` is performed: what reads in flight since its issue have fixed of them for its phase ends too,
and the handler reads none of their earlier values from then on. -/
def State.ownWritten (s : State) (r : FarReq) (pa n : Nat) : State :=
  (s.modEntry (32 * r.src + r.ent) (fun e => { e with
    snap := e.snap.filter (fun g => !(g.far && g.phase ≤ r.phase && pa / 16 ≤ g.num && g.num < pa / 16 + granulesOf pa n))
    wroteAt := mset e.wroteAt (pa / 16) (s.turn + 1) })).farWrote (.handler r.lid (32 * r.src + r.ent)) pa n

/-- A copy of a far granule is kept for reads that still return it (R231). (DESIGN CHOICE, log 97) -/
def State.keepCopy (s : State) (num : Nat) : State :=
  if s.noMem (16 * num) then s
  else { s with stale := s.stale ++ [{ num := num, data := s.farWords (16 * num) 2, marks := marksIn s.farPoison (2 * num) 2, kept := s.turn }] }

/-- SIZE in bytes (Table 12-4). -/
def reqBytes (size : Nat) : Nat := if size == 0 then 8 else if size == 1 then 16 else 64

/-- A request word has no reserved bit and no SIZE 3 (R213). -/
def reqWordOk (w : Nat) : Bool := fld w 32 32 == 0 && fld w 10 6 == 0 && fld w 4 4 == 0 && fld w 8 2 != 3

/-- RDF (R213). -/
def execRdf (a b : Nat) (s : State) : Host.Outcome State Fault Refusal :=
  runInstr xFAR 0x52 (do
    classes (fun s => [⟨1, a, wSource s a⟩, ⟨2, b, wSource s b⟩])
    let ea := (← srcW a).toNat
    let w := (← srcW b).toNat
    let c := fld w 0 4
    let st ← getS
    checkAll [⟨2, b, reqWordOk w⟩, ⟨2, b, c != 0 && st.ownsChan c⟩]
    let n := reqBytes (fld w 8 2)
    farCheck ea n
    let pa ← translate ea accRead
    let oid ← takeOut false
    modS (fun s => s.later (.farMemoryAccess (farReq s .read ea pa n 0 0 (.chan c (fld w 16 16) (fld w 8 2)) oid)))
    advance 4) s

/-- The data of WRF: one word, two words, or a V source of 64 bytes. -/
def wrfData (size b : Nat) : M VVal := do
  if size == 2 then srcV b
  else if size == 1 then do
    let x ← readW b
    let y ← readW (b + 1)
    return ⟨tN8, x.toNat + 2 ^ 64 * y.toNat⟩
  else do return ⟨tN8, (← readW b).toNat⟩

/-- WRF (R213). -/
def execWrf (d a b : Nat) (s : State) : Host.Outcome State Fault Refusal :=
  runInstr xFAR 0x53 (do
    classes (fun s => [⟨0, d, wSource s d⟩, ⟨1, a, wSource s a⟩, ⟨2, b, isW b || vSource s b⟩])
    let ea := (← srcW a).toNat
    let w := (← srcW d).toNat
    let c := fld w 0 4
    let size := fld w 8 2
    let st ← getS
    checkAll [⟨0, d, reqWordOk w⟩, ⟨0, d, c == 0 || st.ownsChan c⟩, ⟨0, d, if size == 2 then !isW b else isW b⟩,
      ⟨2, b, !(size == 1 && b == 15)⟩]
    let v ← wrfData size b
    if !isVTag v.tag then formatTrap 0 v.tag 2
    let n := reqBytes size
    farCheck ea n
    let pa ← translate ea accWrite
    let oid ← takeOut false
    modS (fun s => (s.farWrites pa n).later
      (.farMemoryAccess (farReq s .write ea pa n v.val 0 (.chan c (fld w 16 16) size) oid)))
    advance 4) s

/-- LDF (R214): issues into a queue only while it has room. -/
def execLdf (d a : Nat) (s : State) : Host.Outcome State Fault Refusal :=
  runInstr xFAR 0x54 (do
    classes (fun s => [⟨0, d, wDest s d || vDest s d⟩, ⟨1, a, wSource s a⟩])
    let ea := (← srcW a).toNat
    let n := if isV d || isVQueue d then 64 else 8
    farCheck ea n
    let pa ← translate ea accRead
    let st ← getS
    if isQueue d && !st.hasRoom st.node (d - 32) then blockOn .retry
    let oid ← takeOut false
    leaveFor oid (s.poppedBy a) (fun s => s.later (.farMemoryAccess (farReq s .read ea pa n 0 0 (.load d) oid)))) s

/-- STF (R214): the pop of a data operand stands. -/
def execStf (a b : Nat) (s : State) : Host.Outcome State Fault Refusal :=
  runInstr xFAR 0x55 (do
    classes (fun s => [⟨1, a, wSource s a⟩, ⟨2, b, wSource s b || vSource s b⟩])
    let ea := (← srcW a).toNat
    let wide := isV b || isVQueue b
    let v ← if wide then srcV b else do pure (VVal.mk tN8 (← srcW b).toNat)
    if !isVTag v.tag then formatTrap 0 v.tag 2
    let n := if wide then 64 else 8
    farCheck ea n
    let pa ← translate ea accWrite
    let oid ← takeOut false
    leaveFor oid (s.poppedBy a) (fun s => (s.farWrites pa n).later (.farMemoryAccess (farReq s .write ea pa n v.val 0 .store oid)))) s

/-- CAS and AMO (R216, R217; R201 for an AREL result that leaves the mesh). A CAS is a write of its handler, one that fails too: it ends the snapshot of
its granule (DESIGN CHOICE, log 113). -/
def atomicForm (mo : MemOp) (op d a b : Nat) (s : State) : Host.Outcome State Fault Refusal :=
  runInstr xFAR op (do
    classes (fun s => [⟨0, d, isW d⟩, ⟨1, a, wSource s a⟩, ⟨2, b, isW b⟩])
    let ea := (← srcW a).toNat
    let data ← readW b
    let cmp ← if mo == .cas then readW d else pure 0
    let far := bitAt ea 63
    if !far && nearOff ea < 0x2000 then illegalOperand 0 3
    if far then
      if !addrOk ea then addressTrap ea
      if ea % 8 != 0 then alignmentTrap ea
      let pa ← translate ea accAtomic
      let oid ← takeOut false
      leaveFor oid (s.poppedBy a) (fun s => (s.farWrites pa 8).later
        (.farAtomicService (farReq s mo ea pa 8 data.toNat cmp.toNat (.atomic d) oid)))
    else
      if 2 ^ 32 ≤ ea then addressTrap ea
      if ea % 8 != 0 then alignmentTrap ea
      let oid ← takeOut false
      let addr := spAddr (nearNode ea) (nearOff ea)
      leaveFor oid (s.poppedBy a) (fun s => (s.dropGranules s.curKey false (addr / 64) 1).later
        (.nearAtomicArrival ⟨s.cur.ck, s.cur.ent, mo, addr, data, cmp, d, s.curLid, oid⟩))) s

/-- CAS (R217). -/
def execCas (d a b : Nat) (s : State) : Host.Outcome State Fault Refusal := atomicForm .cas 0x56 d a b s
/-- AMO.ADD. -/
def execAmoAdd (d a b : Nat) (s : State) : Host.Outcome State Fault Refusal := atomicForm .add 0x57 d a b s
/-- AMO.AND. -/
def execAmoAnd (d a b : Nat) (s : State) : Host.Outcome State Fault Refusal := atomicForm .and 0x57 d a b s
/-- AMO.OR. -/
def execAmoOr (d a b : Nat) (s : State) : Host.Outcome State Fault Refusal := atomicForm .or 0x57 d a b s
/-- AMO.XOR. -/
def execAmoXor (d a b : Nat) (s : State) : Host.Outcome State Fault Refusal := atomicForm .xor 0x57 d a b s
/-- AMO.MIN. -/
def execAmoMin (d a b : Nat) (s : State) : Host.Outcome State Fault Refusal := atomicForm .min 0x57 d a b s
/-- AMO.MAX. -/
def execAmoMax (d a b : Nat) (s : State) : Host.Outcome State Fault Refusal := atomicForm .max 0x57 d a b s
/-- AMO.MINU. -/
def execAmoMinu (d a b : Nat) (s : State) : Host.Outcome State Fault Refusal := atomicForm .minu 0x57 d a b s
/-- AMO.SWAP. -/
def execAmoSwap (d a b : Nat) (s : State) : Host.Outcome State Fault Refusal := atomicForm .swap 0x57 d a b s

/-! ### At far memory -/

/-- The access of a request in its next 16-byte unit. -/
def unitLength (r : FarReq) : Nat := min 16 (r.size - r.pos)

/-- The granule of far memory at `pa` as the request's phase reads it: the one it has, or the bytes as they stand, recorded. -/
def State.farGranule (s : State) (r : FarReq) (pa : Nat) : State × Granule :=
  let k := 32 * r.src + r.ent
  match s.granule k r.phase true (pa / 16) with
  | some g => (s, g)
  | none =>
    let b := pa / 16 * 16
    let g : Granule := ⟨r.phase, true, pa / 16, s.farWords b 2, marksIn s.farPoison (b / 8) 2⟩
    ((s.noteGranule k g).farSeen k (pa / 16), g)

/-- Read the next unit: the request with the bytes it has then. -/
def State.farReadUnit (s : State) (r : FarReq) : State × FarReq :=
  let pa := r.pa + r.pos
  let n := unitLength r
  let (s, g) := s.farGranule r pa
  let off := pa % 16
  let bad := (List.range (n / 8)).any (fun i => g.marks.contains (off / 8 + i))
  (s, { r with pos := r.pos + n, got := r.got + fld g.data (8 * off) (8 * n) * 2 ^ (8 * r.pos), bad := r.bad || bad })

/-- A write request performed whole: a WRF without reply frees its slot (R212), any other is answered. -/
def State.farWritten (s : State) (r : FarReq) (status : Nat) : State :=
  match r.replyTo with
  | .chan 0 _ _ => s.freeOut r.src r.oid
  | _ => s.later (.farReplyArrival r status 0)

/-- FAR_MEMORY_ACCESS (R208, R212, R215): the next unit of a read or write; after the last one, the reply. Addresses without memory
give STATUS NOMEM. -/
def execFarMemoryAccess (r : FarReq) (s : State) : Host.Outcome State Fault Refusal :=
  .next (
    if r.op == .read then
      if s.noMem r.pa then s.later (.farReplyArrival r 2 0)
      else
        let (s, r) := s.farReadUnit r
        if r.pos < r.size then { s with agenda := .farMemoryAccess r :: s.agenda }
        else s.later (.farReplyArrival r (if r.bad then 1 else 0) r.got)
    else if s.noMem r.pa then s.farWritten r 2
    else
      let n := unitLength r
      let s := (s.farPoke (r.pa + r.pos) n (fld r.data (8 * r.pos) (8 * n))).ownWritten r (r.pa + r.pos) n
      let r := { r with pos := r.pos + n }
      if r.pos < r.size then { s with agenda := .farMemoryAccess r :: s.agenda } else s.farWritten r 0)

/-- The atomic engine of a physical line (R219). -/
def homeEngine (pa : Nat) : Nat := fld pa 7 5

/-- The engine's store with a line used last, of 64 lines at most. -/
def useLine (lines : List Nat) (line : Nat) : List Nat :=
  let ls := (lines.filter (· != line)) ++ [line]
  ls.drop (ls.length - 64)

/-- FAR_ATOMIC_SERVICE (R217, R219): one indivisible step at the home engine, written through to memory. -/
def execFarAtomicService (r : FarReq) (s : State) : Host.Outcome State Fault Refusal :=
  .next (if s.noMem r.pa then s.later (.farReplyArrival r 2 0)
    else
      let e := homeEngine r.pa
      let s := { s with atomics := mset s.atomics e (useLine (mget s.atomics e []) (r.pa / 128)) }
      let old : Word := BitVec.ofNat 64 (s.farPeek r.pa 8)
      if s.farBad r.pa 8 then s.later (.farReplyArrival r 1 0)
      else
        let s := s.ownWritten r r.pa 8
        let s := match atomicResult r.op old (BitVec.ofNat 64 r.cmp) (BitVec.ofNat 64 r.data) with
          | some v => s.farPoke r.pa 8 v.toNat
          | none => s
        s.later (.farReplyArrival r 0 old.toNat))

/-! ### Replies (R211, R214) -/

/-- The words of a reply (Table 12-5). -/
def replyWords (r : FarReq) (tag size status data : Nat) : List Word :=
  let write : Bool := r.op == .write
  BitVec.ofNat 64 (status * 2 ^ 4 + size * 2 ^ 8 + write.toNat * 2 ^ 12 + tag * 2 ^ 16) ::
    (if write then [] else (wordsOf data (r.size / 8)).map (BitVec.ofNat 64))
where
  wordsOf (v k : Nat) : List Nat := (List.range k).map (fun i => fld v (64 * i) 64)

/-- The data of an LDF arrives at its destination (R214). -/
def State.loadDest (s : State) (k d data : Nat) : State :=
  let node := nodeOf (k / 32)
  if isW d then s.setW k d data
  else if isV d then
    let base := spAddr node (s.entry k).wp
    let s := s.poke (base + 0x80 + 64 * (d - 16)) 64 data
    s.poke (base + 0x560) 16 (setFld (s.peek (base + 0x560) 16) (5 * (d - 16)) 5 tN8)
  else s.setQueue node (d - 32) (s.queue node (d - 32) ++ [⟨(s.entry k).slot, if isVQueue d then tN8 else 0, data⟩])

/-- A far reply waits for the lines of its destination register (R223). -/
def State.farReplyWaits (s : State) (r : FarReq) (status : Nat) : Bool :=
  let k := 32 * r.src + r.ent
  s.awaitsReply k r.oid && status == 0 &&
  (match r.replyTo with
    | .load d => if isW d then s.regsHeld k (8 * d) 8 else isV d && (s.regsHeld k (0x80 + 64 * (d - 16)) 64 || s.regsHeld k 0x560 16)
    | .atomic d => s.regsHeld k (8 * d) 8
    | _ => false)

/-- FAR_REPLY_ARRIVAL (R212, R214, R217): a reply message waits for its channel, which frees the slot; a blocking instruction retires or traps. -/
def execFarReplyArrival (r : FarReq) (status data : Nat) (s : State) : Host.Outcome State Fault Refusal :=
  let k := 32 * r.src + r.ent
  let s' := s.freeOut r.src r.oid
  .next (match r.replyTo with
    | .chan c tag size => s.postNow r.src c { words := replyWords r tag size status data, oid := some (r.src, r.oid) }
    | replyTo =>
      if s.farReplyWaits r status then s.later (.farReplyArrival r status data)
      else if !s.awaitsReply k r.oid then s'
      else if status == 2 then (s'.putBack k).takeTrap k 0x0B 2 false
      else if status == 1 then (s'.putBack k).takeTrap k 0x09 (3 * 2 ^ 21 + r.va % 2 ^ 21) false
      else
        match replyTo with
        | .load d => (s'.loadDest k d data).retire k
        | .atomic d => (s'.setW k d data).retire k
        | _ => s'.retire k)

end Sys2Proof.Machine
end

