-- ==== Sys2Proof/Machine/HostLink.lean ====
section
/-!
DEFINITION. The Horsar Command Protocol (21 R334 to R336, R363) and PEERS (R328): frames from the host, their acceptance and work, and the
resending of device frames.
-/
namespace Sys2Proof.Machine
open Sys2Proof

/-! ### Acceptance (R334, R335) -/

/-- The frame is read at all: MAGIC, reserved bits, TYPE, EPOCH, and ports that are up (R353). (DEDUCED, log 41) -/
def State.frameOk (s : State) (f : Frame) (type : Nat) : Bool :=
  s.fabric.up && f.magic == frameMagic && f.reserved == 0 && f.type == type && f.epoch == s.host.epoch

/-- The host has accepted device frames up to `ack`: held frames are numbered and sent while there is room. -/
def State.takeAck (s : State) (ack : Nat) : State :=
  let w := s.host.window.filter (fun g => ack < g.seq)
  State.sendHeld s.host.held.length { s with host := { s.host with window := w } }

/-- A STATE frame that answers SYNC or a duplicate: SEQ 0, outside the window. -/
def State.sendState (s : State) : State :=
  let f : Frame := ⟨frameMagic, 0x84, 32, 0, s.host.ha, s.host.epoch, 0, statePayload s 0, false⟩
  { s with host := { s.host with sent := s.host.sent ++ [f] } }

/-- An accepted frame starts in SEQ order (R335), once nothing makes it wait; else `again` is due. -/
def State.startFrame (s : State) (f : Frame) (again : Event) (waits : State → Bool) (run : State → State) : State :=
  if s.host.queued.head? == some f && !waits s then run { s with host := { s.host with queued := s.host.queued.tail } } else s.later again

/-- A host frame other than SYNC (R335): discarded, answered as a duplicate, or accepted and worked on by `run` when it starts. -/
def State.accept (s : State) (f : Frame) (type : Nat) (ev : Frame → Event) (waits : State → Bool) (run : State → State) : State :=
  if f.held then (if s.host.queued.contains f then s.startFrame f (ev f) waits run else s)
  else if !s.frameOk f type || !s.host.held.isEmpty then s
  else if f.seq ≤ s.host.ha then (s.takeAck f.ack).sendState
  else if f.seq != s.host.ha + 1 then s
  else
    let g := { f with held := true }
    let s := s.takeAck f.ack
    { s with host := { s.host with ha := f.seq, queued := s.host.queued ++ [g] } }.startFrame g (ev g) waits run

/-! ### LOAD and READ -/

/-- The physical address of a far byte as the command core reaches it. (DESIGN CHOICE, log 36) -/
def hostPa (va : Nat) : Nat := Config.hostPage (va / 0x4000) % 2 ^ 38 * 0x4000 + va % 0x4000

/-- `n` bytes from a far virtual address by the aligned blocks of `b` bytes that they lie in: place among the bytes, physical address, length. -/
def hostParts (b va n : Nat) : List (Nat × Nat × Nat) :=
  if n == 0 then []
  else (List.range ((va + n - 1) / b + 1 - va / b)).map (fun i =>
    let lo := max va (b * (va / b + i))
    (lo - va, hostPa (lo % 2 ^ 57), min (va + n) (b * (va / b + i + 1)) - lo))

/-- Write `n` bytes of `v` from a far virtual address, a word at a time: one that is written whole loses its mark (R207). -/
def State.hostWriteFar (s : State) (va v n : Nat) : State :=
  (hostParts 8 va n).foldl (fun s p =>
    if s.noMem p.2.1 then s else (s.farPoke p.2.1 p.2.2 (fld v (8 * p.1) (8 * p.2.2))).farWrote .host p.2.1 p.2.2) s

/-- `n` bytes from a far virtual address. -/
def State.hostReadFar (s : State) (va n : Nat) : Nat :=
  (hostParts 8 va n).foldl (fun v p => if s.noMem p.2.1 then v else v + 2 ^ (8 * p.1) * s.farPeek p.2.1 p.2.2) 0

/-- A link between the command core and `n` bytes at an address word is paused (R358): the join of the array die to its I/O die, and the stack's. (DEDUCED,
log 13) -/
def State.hostPaused (s : State) (w n : Nat) : Bool :=
  !s.pauses.isEmpty &&
    (if bitAt w 63 then (hostParts 4096 (w % 2 ^ 57) n).any (fun p => (stackLink p.2.1).any (fun l => s.pauses.contains l || s.pauses.contains (74 + l / 2)))
    else s.pauses.contains (74 + dieOf (vatAt (fld w 26 6) (fld w 21 5))))

/-- Bytes of a near range that lie in its vat. (DESIGN CHOICE, log 39) -/
def nearLength (w n : Nat) : Nat := min n (0x200000 - fld w 0 21)

/-- The scratchpad address of a near address word. -/
def nearAddr (w : Nat) : Nat := spAddr (vatAt (fld w 26 6) (fld w 21 5)) (fld w 0 21)

/-- The work of a LOAD: write `n` bytes of `v` at address word `w`; F is set on every near line. -/
def State.hostLoad (s : State) (w v n : Nat) : State :=
  if !addrWord w then s
  else if bitAt w 63 then s.hostWriteFar (w % 2 ^ 57) v n
  else
    let k := nearLength w n
    (s.poke (nearAddr w) k (v % 2 ^ (8 * k))).fillLines (nearAddr w) k
where
  /-- An address word in the form of R216. -/
  addrWord (w : Nat) : Bool := if bitAt w 63 then fld w 57 6 == (if bitAt w 56 then 63 else 0) else fld w 32 31 == 0

/-- The write of a LOAD waits for READY and DRAINING tile entries (R223), for a paused link (R358), and for RDFs that have still to read there (R231). -/
def State.loadWaits (s : State) (f : Frame) : Bool :=
  let w := fld f.payload 0 64
  let n := f.len - 8
  s.hostPaused w n ||
    (if bitAt w 63 then (hostParts 4096 (w % 2 ^ 57) n).any (fun p => s.readPending p.2.1 p.2.2 s.oids)
    else s.tileHeld (nearAddr w / 0x200000) (nearAddr w % 0x200000) (nearLength w n))

/-- A LOAD is written and completed with a SYS release (Table 21-6). -/
def State.workLoad (s : State) (f : Frame) : State :=
  ((s.hostLoad (fld f.payload 0 64) (f.payload / 2 ^ 64) (f.len - 8)).release .package (· == .host)).completeFrame f.seq

/-- LOAD_FRAME (Table 21-6): address word, then data; completed when written. -/
def execLoadFrame (f : Frame) (s : State) : Host.Outcome State Fault Refusal :=
  .next (s.accept f 0x01 .loadFrame (fun s => s.loadWaits f) (fun s => s.workLoad f))

/-- The bytes that READ of `n` bytes at address word `w` gives. -/
def State.hostRead (s : State) (w n : Nat) : Nat :=
  if bitAt w 63 then s.hostReadFar (w % 2 ^ 57) n else s.peek (nearAddr w) (nearLength w n)

/-- The length of a READ; and it waits for a paused link (R358). -/
def readLength (f : Frame) : Nat := fld f.payload 64 64 % 2 ^ 24
def State.readWaits (s : State) (f : Frame) : Bool := s.hostPaused (fld f.payload 0 64) (readLength f)

/-- READ_FRAME (Table 21-6): address word and length; completed when DATA is sent. -/
def execReadFrame (f : Frame) (s : State) : Host.Outcome State Fault Refusal :=
  .next (s.accept f 0x03 .readFrame (fun s => s.readWaits f) (fun s =>
    let n := readLength f
    (s.sendFrame 0x83 n (s.hostRead (fld f.payload 0 64) n)).completeFrame f.seq))

/-- SYNC_FRAME (R335, R336): accepted at any SEQ; answered with STATE. (DEDUCED, log 38) -/
def execSyncFrame (f : Frame) (s : State) : Host.Outcome State Fault Refusal :=
  .next (if s.frameOk f 0x04 then (s.takeAck f.ack).sendState else s)

/-! ### LAUNCH (R363) -/

/-- LAUNCH_FRAME (R363): a request that fails a check is answered BADREQ; else the launch proceeds with the host as launcher. -/
def execLaunchFrame (f : Frame) (s : State) : Host.Outcome State Fault Refusal :=
  .next (s.accept f 0x02 .launchFrame (fun _ => false) (fun s =>
    let n := 5 + 2 * reqNh (wordsOf f.payload 5)
    let req := wordsOf f.payload n
    let ks := (List.range 240).map (fun i => fld f.payload (64 * (n + i)) 64)
    if !requestOk req then (s.sendFrame 0x81 8 0x0C).completeFrame f.seq
    else
      let (lid, next) := s.pickLid (2 ^ 31) 0x7FFFFFFF s.lidFuel s.host.ctr
      { s with host := { s.host with ctr := next } }.startLaunch ⟨lid, none, req, ks, 0, none, f.seq, [], []⟩))

/-! ### PEERS (R328) -/

/-- A fabric send or a filling matching entry is in progress. -/
def State.fabricBusy (s : State) : Bool := s.cmds.any (fun p => p.2.kind == .fabric) || s.matching.any (fun p => p.2.state == 2)

/-- PEERS_FRAME (R328): held until it can be applied. -/
def execPeersFrame (f : Frame) (s : State) : Host.Outcome State Fault Refusal :=
  .next (s.accept f 0x05 .peersFrame (fun _ => false) (fun s =>
    { s with fabric := { s.fabric with held := s.fabric.held ++ [(f.payload, f.seq)] } }.later .peersApply))

/-- PEERS_APPLY (R328): own number, count and fabric addresses, once no fabric send and no filling entry is in progress. (PRESUMED, log 40) -/
def execPeersApply (s : State) : Host.Outcome State Fault Refusal :=
  .next (if s.fabricBusy then s.later .peersApply
    else
      match s.fabric.held with
      | [] => s
      | (p, seq) :: r =>
        let n := fld p 64 64
        let peers := (List.range (min n 1024)).map (fun i => (i, fld p (64 * (2 + i)) 64))
        { s with fabric := { s.fabric with own := fld p 0 64, count := n, peers := peers, held := r } }.completeFrame seq)

/-- FRAME_RESEND (R335): an unacknowledged device frame is sent again, and its next sending is due. (DEDUCED, log 104) -/
def execFrameResend (seq : Nat) (s : State) : Host.Outcome State Fault Refusal :=
  .next (if s.host.window.any (fun g => g.seq == seq) then s.later (.frameResend seq) else s)

end Sys2Proof.Machine
end

