-- ==== Sys2Proof/Machine/LocalMem.lean ====
section
/-!
DEFINITION. The local loads and stores (05 R90 to R92) and MIRROR (05 R94).
-/
namespace Sys2Proof.Machine
open Sys2Proof

/-- The address of a local access (R90): W[base], unsigned, plus the displacement times the size. -/
def localEa (b i n : Nat) : M Int := do
  let w ← readW b
  return (w.toNat : Int) + signed 10 i * (n : Int)

/-- The alignment check of a local access (R90). -/
def checkEa (ea : Int) (n : Nat) : M Nat :=
  if ea < 0 || 0x1FFFFF < ea || ea % (n : Int) != 0 then alignmentTrap (wrapN 21 ea) else return ea.toNat

/-- A load of `n` bytes (R90): `sx` sign-extends. -/
def loadW (n : Nat) (sx : Bool) (d b i : Nat) (s : State) : Host.Outcome State Fault Refusal :=
  runInstr xBASE 0x4C (do
    let a ← checkEa (← localEa b i n) n
    let v ← loadLocal a n
    writeW d (if sx then BitVec.ofInt 64 (signed (8 * n) v) else BitVec.ofNat 64 v)
    advance 4) s

/-- LD.B. -/
def execLdB (d b i : Nat) (s : State) : Host.Outcome State Fault Refusal := loadW 1 false d b i s
/-- LD.H. -/
def execLdH (d b i : Nat) (s : State) : Host.Outcome State Fault Refusal := loadW 2 false d b i s
/-- LD.W. -/
def execLdW (d b i : Nat) (s : State) : Host.Outcome State Fault Refusal := loadW 4 false d b i s
/-- LD.D. -/
def execLdD (d b i : Nat) (s : State) : Host.Outcome State Fault Refusal := loadW 8 false d b i s
/-- LD.SB. -/
def execLdSb (d b i : Nat) (s : State) : Host.Outcome State Fault Refusal := loadW 1 true d b i s
/-- LD.SH. -/
def execLdSh (d b i : Nat) (s : State) : Host.Outcome State Fault Refusal := loadW 2 true d b i s
/-- LD.SW. -/
def execLdSw (d b i : Nat) (s : State) : Host.Outcome State Fault Refusal := loadW 4 true d b i s

/-- A store below 0x2000 raises the illegal-operand trap at position 3 (R20, R90). -/
def checkWindow (ea : Int) : M Unit :=
  if 0 ≤ ea && ea < 0x2000 then illegalOperand 0 3 else pure ()

/-- A store of `n` bytes (R90). -/
def storeW (n : Nat) (d b i : Nat) (s : State) : Host.Outcome State Fault Refusal :=
  runInstr xBASE 0x4D (do
    let ea ← localEa b i n
    checkWindow ea
    let a ← checkEa ea n
    storeLocal a n (← readW d).toNat
    advance 4) s

/-- ST.B. -/
def execStB (d b i : Nat) (s : State) : Host.Outcome State Fault Refusal := storeW 1 d b i s
/-- ST.H. -/
def execStH (d b i : Nat) (s : State) : Host.Outcome State Fault Refusal := storeW 2 d b i s
/-- ST.W. -/
def execStW (d b i : Nat) (s : State) : Host.Outcome State Fault Refusal := storeW 4 d b i s
/-- ST.D. -/
def execStD (d b i : Nat) (s : State) : Host.Outcome State Fault Refusal := storeW 8 d b i s

/-- LDV (R91). -/
def execLdv (v b t i : Nat) (s : State) : Host.Outcome State Fault Refusal :=
  runInstr xVEC 0x4E (do
    checkAll [⟨0, t, isVTag t⟩]
    let a ← checkEa (← localEa b i 64) 64
    let x ← loadLocal a 64
    writeReg (0x80 + 64 * v) 64 x
    writeTag v t
    advance 4) s

/-- STV (R91). -/
def execStv (v b t i : Nat) (s : State) : Host.Outcome State Fault Refusal :=
  runInstr xVEC 0x4F (do
    checkAll [⟨0, t, isVTag t⟩]
    let ea ← localEa b i 64
    checkWindow ea
    let x ← readV v
    if x.tag != t then formatTrap t x.tag 0
    else
      let a ← checkEa ea 64
      storeLocal a 64 x.val
      advance 4) s

/-- The slot of a core that holds mirror word `w`. -/
def mirrorSlot (c : Core) (w : Nat) : Option Nat := ((c.mir.filter (fun p => p.2 == w)).head?).map (·.1)

/-- MIRROR (R94): `f` is the release bit, `i` the word index. The copies equal the home words at every step (R24), so
the state holds which words are mirrored and by whom. A release of a free slot makes the owner too. (DEDUCED, log 101) -/
def execMirror (slot i f : Nat) (s : State) : Host.Outcome State Fault Refusal :=
  runInstr xBASE 0x5E (do
    let sl := slot % 4
    if f == 1 then
      checkAll [⟨0, i, i == 0⟩]
      modS (fun s => s.modCore s.cur.ck (fun c =>
        let c := if c.owner == some s.cur.ent then c else { c with mir := [] }
        { c with owner := some s.cur.ent, mir := mdel c.mir sl }))
      advance 4
    else
      let st ← getS
      let c := st.core st.cur.ck
      let own := if c.owner == some st.cur.ent then c else { c with mir := [] }
      let other := match mirrorSlot own i with
        | some k => k != sl
        | none => false
      checkAll [⟨0, i, !(172 ≤ i && i ≤ 175) && !other⟩]
      modS (fun s => s.modCore s.cur.ck (fun _ => { own with owner := some s.cur.ent, mir := mset own.mir sl i }))
      advance 4) s

end Sys2Proof.Machine
end

