-- ==== Sys2Proof/Machine/Mask.lean ====
section
/-!
DEFINITION. The mask instructions (05 R89).
-/
namespace Sys2Proof.Machine
open Sys2Proof

/-- A mask operation of two sources. -/
def maskOp (f : Word → Word → Word) (d a b : Nat) (s : State) : Host.Outcome State Fault Refusal :=
  runInstr xVEC 0x2B (do
    checkAll [⟨0, d, isM d⟩, ⟨1, a, isM a⟩, ⟨2, b, isM b⟩]
    let x ← readM (a - 56)
    let y ← readM (b - 56)
    writeM (d - 56) (f x y)
    advance 4) s

/-- MAND. -/
def execMand (d a b : Nat) (s : State) : Host.Outcome State Fault Refusal := maskOp (fun x y => x &&& y) d a b s
/-- MOR. -/
def execMor (d a b : Nat) (s : State) : Host.Outcome State Fault Refusal := maskOp (fun x y => x ||| y) d a b s
/-- MXOR. -/
def execMxor (d a b : Nat) (s : State) : Host.Outcome State Fault Refusal := maskOp (fun x y => x ^^^ y) d a b s
/-- MNOT. -/
def execMnot (d a : Nat) (s : State) : Host.Outcome State Fault Refusal :=
  runInstr xVEC 0x2B (do
    checkAll [⟨0, d, isM d⟩, ⟨1, a, isM a⟩]
    writeM (d - 56) (~~~(← readM (a - 56)))
    advance 4) s
/-- MMOV: d names M or a W destination, a names M or a W source (R37). -/
def execMmov (d a : Nat) (s : State) : Host.Outcome State Fault Refusal :=
  runInstr xVEC 0x2B (do
    classes (fun s => [⟨0, d, isM d || wDest s d⟩, ⟨1, a, isM a || wSource s a⟩])
    dstW d (← srcW a)
    advance 4) s

end Sys2Proof.Machine
end

