-- ==== Sys2Proof/Machine/Mordant.lean ====
section
/-!
DEFINITION. The Mordant queue (10): MQFOLD, fold requests and their refusals, the three phases of a queue's
cycle, and MQBIND, MQCFG, MQDRAIN and MQSTAT.
-/
namespace Sys2Proof.Machine
open Sys2Proof

/-! ### Header words (Table 10-1) -/

def hdrChk (h : Word) : Bool := bitAt h.toNat 58
def hdrRk (h : Word) : Nat := fld h.toNat 56 2
def hdrOp (h : Word) : Nat := fld h.toNat 52 4
def hdrClass (h : Word) : Nat := fld h.toNat 48 4
def hdrKey (h : Word) : Nat := fld h.toNat 0 48

/-- The payload tags an operator accepts (Table 10-3). -/
def opAccepts (op tag : Nat) : Bool :=
  match op with
  | 0 => isIntTag tag
  | 1 => isNTag tag
  | 2 => tag == tXS
  | 3 | 4 => isLaneTag tag
  | 5 | 6 | 7 => isIntTag tag
  | 8 => tag == tS32 || tag == tN32 || tag == tF32
  | 9 => isVTag tag
  | _ => false

/-- The tag of a fresh record (R176). -/
def recordTag (op tag : Nat) : Nat := if op == 9 then tN64 else tag

/-! ### Combining operators (Table 10-3) -/

/-- Lane value `a` orders strictly below `b`: S signed, N unsigned, floats by the key of R57. -/
def laneBelow (tag a b : Nat) : Bool :=
  let w := elemBits tag
  if isSTag tag then signed w a < signed w b
  else if isNTag tag then a < b
  else fkey w a < fkey w b

/-- One lane combined, and whether it overflows (Table 10-3, last column). -/
def combineLane (op tag a b : Nat) : Nat × Bool :=
  let w := elemBits tag
  match op with
  | 0 =>
    let s := signed w a + signed w b
    ((a + b) % 2 ^ w, if isSTag tag then s != signed w ((a + b) % 2 ^ w) else 2 ^ w ≤ a + b)
  | 1 => (min (a + b) (2 ^ w - 1), 2 ^ w ≤ a + b)
  | 3 => (if laneBelow tag b a then b else a, false)
  | 4 => (if laneBelow tag a b then b else a, false)
  | 5 => (Nat.land a b, false)
  | 6 => (Nat.lor a b, false)
  | _ => (Nat.xor a b, false)

/-- ARGMIN on one pair of 32-bit lanes, the value in the low half: the lower value wins, then the lower id. -/
def argminPair (tag a b : Nat) : Nat :=
  let va := a % 2 ^ 32
  let vb := b % 2 ^ 32
  if laneBelow tag vb va || (va == vb && b / 2 ^ 32 < a / 2 ^ 32) then b else a

/-- The payloads combined: the result, whether a lane overflows, and NV. -/
def combine (op tag a b : Nat) : Nat × Bool × Bool :=
  match op with
  | 2 =>
    let (x, f) := xsAdd (xsOfCode a) (xsOfCode b)
    (xsCode x, f.of, f.nv)
  | 8 => (packFields 64 ((List.range 8).map (fun j => argminPair tag (laneAt 64 a j) (laneAt 64 b j))), false, false)
  | 9 => ((a % 2 ^ 64 + 1) % 2 ^ 64, a % 2 ^ 64 + 1 == 2 ^ 64, false)
  | _ =>
    let w := elemBits tag
    let ls := (List.range (512 / w)).map (fun i => combineLane op tag (laneAt w a i) (laneAt w b i))
    (packFields w (ls.map Prod.fst), ls.any Prod.snd, false)

/-! ### Records (R175) -/

/-- The state word of a record (Table 10-2). -/
def stateWord (r : MqRec) : Word :=
  BitVec.ofNat 64 (r.folds * 2 ^ 48 + r.age * 2 ^ 32 + r.reason * 2 ^ 29 +
    (match r.state with | .waiting => 1 | .dispatching => 2) * 2 ^ 27 + r.tag * 2 ^ 19 + r.ovf.toNat * 2 ^ 18 +
    r.sat.toNat * 2 ^ 17 + r.of.toNat * 2 ^ 16 + r.nv.toNat * 2 ^ 15)

/-- The ten words of a record, as its dispatch message carries them (R185). -/
def recordWords (r : MqRec) : List Word :=
  r.header :: stateWord r :: (List.range 8).map (fun i => BitVec.ofNat 64 (fld r.payload (64 * i) 64))

/-- The records of a slot's queue with their keys. -/
def State.recsOf (s : State) (node slot : Nat) : List (Nat × MqRec) :=
  s.mqs.filter (fun p => p.1 / 512 == node && p.2.slot == slot)

/-- Records in the order of their insertion. -/
def oldestFirst : List (Nat × MqRec) → List (Nat × MqRec)
  | [] => []
  | p :: r => put p (oldestFirst r)
where
  put (p : Nat × MqRec) : List (Nat × MqRec) → List (Nat × MqRec)
    | [] => [p]
    | q :: r => if p.2.order ≤ q.2.order then p :: q :: r else q :: put p r

/-- The WAITING records of a slot, oldest first. -/
def State.waitingRecs (s : State) (node slot : Nat) : List (Nat × MqRec) :=
  oldestFirst ((s.recsOf node slot).filter (fun p => p.2.state == .waiting))
/-- The DISPATCHING records of a slot, oldest first. -/
def State.dispatchingRecs (s : State) (node slot : Nat) : List (Nat × MqRec) :=
  oldestFirst ((s.recsOf node slot).filter (fun p => p.2.state == .dispatching))

/-- Class `c` of a slot. -/
def Slot.cls (r : Slot) (c : Nat) : MqClass := mget r.classes c {}
/-- MQE of a slot (Table 9-9). -/
def Slot.mqe (r : Slot) : Nat := fld r.space 28 10

/-- The queue has its cycle events pending: phase 1 and the passing of time while a record waits, phase 3 while one is
dispatching. -/
def State.queueEvents (s : State) (node slot : Nat) : State :=
  let add (s : State) (i : Event) : State := if s.agenda.contains i then s else s.later i
  let s := if (s.waitingRecs node slot).isEmpty then s else add (add s (.mqDispatch node slot)) (.ageTick node)
  if (s.dispatchingRecs node slot).isEmpty then s else add s (.dispatchDelivery node slot)

/-! ### Phase 1 (R182) -/

/-- A record of a class is ripe: lane 0 equals RVAL sign-extended to 64 bits, modulo 2^w. -/
def ripe (c : MqClass) (r : MqRec) : Bool :=
  let w := elemBits r.tag
  r.payload % 2 ^ w == wrapN w (signed 16 c.rval)

/-- `idle(c)`: the channel's mailbox is empty, no item waits for it, and no handler is bound to it or the bound one is IDLE. -/
def State.idleChan (s : State) (node ch : Nat) : Bool :=
  let ck := 4 * node + 2
  (s.box ck ch).isEmpty && (s.waiting ck ch).isEmpty &&
  (match s.boundEntry ck ch with
    | some (_, e) => s.entryState ck e == .idle
    | none => true)

/-- The reason for which phase 1 dispatches a record, 0 for none. `used` lists the classes that had a COUNT or AGE
dispatch this cycle, `mask` is the drain mask. -/
def State.dispatchReason (s : State) (node : Nat) (sl : Slot) (used : List Nat) (mask : Nat) (r : MqRec) : Nat :=
  let c := hdrClass r.header
  let k := sl.cls c
  let own :=
    if hdrRk r.header == 1 then (if ripe k r then 1 else 0)
    else if s.idleChan node k.ch && !used.contains c then
      (if k.fth != 0 && k.fth ≤ r.folds then 2 else if k.ath != 0 && k.ath ≤ r.age then 3 else 0)
    else 0
  if k.ch == 0 then 0 else if own != 0 then own else if bitAt mask c then 4 else 0

/-- The dispatch decisions over the WAITING records, oldest first: key and reason. (DEDUCED, log 21) -/
def State.decisions (s : State) (node : Nat) (sl : Slot) (mask : Nat) : List Nat → List (Nat × MqRec) → List (Nat × Nat)
  | _, [] => []
  | used, p :: r =>
    let why := s.dispatchReason node sl used mask p.2
    let used' := if why == 2 || why == 3 then hdrClass p.2.header :: used else used
    if why == 0 then s.decisions node sl mask used' r else (p.1, why) :: s.decisions node sl mask used' r

/-- A record starts its dispatch. -/
def State.dispatchRec (s : State) (key why : Nat) : State :=
  match mget? s.mqs key with
  | some r => { s with mqs := mset s.mqs key { r with state := .dispatching, reason := why } }
  | none => s

/-- Phase 1 of a slot's queue, with drain mask `mask`: decisions, then the oldest WAITING records of bound classes above
HWM go with reason HIGH. A stopped slot decides and delivers nothing. (DEDUCED, log 95) -/
def State.phaseOne (s : State) (node slot mask : Nat) : State :=
  match s.slot? node slot with
  | none => s
  | some sl =>
    if sl.stopped then s
    else
      let s := (s.decisions node sl mask [] (s.waitingRecs node slot)).foldl (fun s d => s.dispatchRec d.1 d.2) s
      let bound := (s.waitingRecs node slot).filter (fun p => (sl.cls (hdrClass p.2.header)).ch != 0)
      (bound.take (bound.length - sl.hwm)).foldl (fun s p => s.dispatchRec p.1 5) s

/-! ### Phase 3 (R182, R185) -/

/-- Phase 3 has a DISPATCHING record to deliver: its class is bound and the channel has ten free words and no item
waiting for it (R161). -/
def State.deliverable (s : State) (node : Nat) (sl : Slot) (r : MqRec) : Bool :=
  let ck := 4 * node + 2
  let ch := (sl.cls (hdrClass r.header)).ch
  ch != 0 && !sl.stopped && (s.waiting ck ch).isEmpty && s.boxFits ck ch 10

/-- Phase 3 over the DISPATCHING records. -/
def State.deliverRecs (s : State) (node : Nat) (sl : Slot) : List (Nat × MqRec) → State
  | [] => s
  | p :: r =>
    let s :=
      if s.deliverable node sl p.2 then
        let ck := 4 * node + 2
        let ch := (sl.cls (hdrClass p.2.header)).ch
        { s.setBox ck ch (s.box ck ch ++ boxWords false (recordWords p.2)) with mqs := mdel s.mqs p.1 }
      else s
    s.deliverRecs node sl r

def State.phaseThree (s : State) (node slot : Nat) : State :=
  match s.slot? node slot with
  | none => s
  | some sl => s.deliverRecs node sl (s.dispatchingRecs node slot)

/-! ### Cycles (R182, R184)

The cores of a vat and the cores that send to it share its cycles: a core issues, and what it sends arrives, at most once in a cycle. A queue with records
notes who has acted in the cycle at hand, and its phases 1 and 3 come between two cycles. (DEDUCED, log 108) -/

/-- The cycle at hand of a queue begins here, `who` having acted in it. -/
def State.openCycle (s : State) (node slot : Nat) (who : List Nat) : State :=
  s.modSlot node slot (fun r => { r with cycle := who, mark := s.oids, closed := false })

/-- The next cycle of a queue with records: phase 3 of the one at hand, then phase 1. (DEDUCED, log 108) -/
def State.newCycle (s : State) (node slot : Nat) : State :=
  if (s.recsOf node slot).isEmpty then s
  else (((s.phaseThree node slot).phaseOne node slot 0).openCycle node slot []).queueEvents node slot

/-- Core `who` acts in the cycle at hand of a queue with records, or, where it has acted in it, where phase 3 is over or where `late` says so, in the
next one. -/
def State.joinCycle (s : State) (node slot who : Nat) (late : Slot → Bool) : State :=
  match s.slot? node slot with
  | none => s
  | some r =>
    if (s.recsOf node slot).isEmpty then s
    else (if r.closed || r.cycle.contains who || late r then s.newCycle node slot else s).modSlot node slot (fun r => { r with cycle := setAdd r.cycle who })

/-- A core issues: not in the cycle of an arrival from another vat, which local ones come before (R150). -/
def State.issueCycle (s : State) (ck : Nat) : State :=
  (List.range 4).foldl (fun s i => s.joinCycle (nodeOf ck) i ck (fun r => r.cycle.any (fun x => nodeOf x != nodeOf ck))) s

/-- MQ_DISPATCH (R182): the next cycle begins with its phase 1. -/
def execMqDispatch (node slot : Nat) (s : State) : Host.Outcome State Fault Refusal := .next (s.newCycle node slot)

/-- DISPATCH_DELIVERY (R182, R185): phase 3, which ends the cycle at hand. -/
def execDispatchDelivery (node slot : Nat) (s : State) : Host.Outcome State Fault Refusal :=
  .next (((s.phaseThree node slot).modSlot node slot (fun r => { r with closed := true })).queueEvents node slot)

/-- AGE_TICK (R175): 256 cycles pass on a vat. AGE of its WAITING records rises, but not while their slot is stopped (R191). -/
def execAgeTick (node : Nat) (s : State) : Host.Outcome State Fault Refusal :=
  let s := (List.range 4).foldl (fun s sl => s.newCycle node sl) s
  let s' := { s with mqs := s.mqs.map (fun p =>
    if p.1 / 512 == node && p.2.state == .waiting && !((s.slot? node p.2.slot).map (·.stopped)).getD false then
      (p.1, { p.2 with age := min (p.2.age + 1) 0xFFFF })
    else p) }
  .next ((List.range 4).foldl (fun s sl => s.queueEvents node sl) s')

/-! ### Arrivals (R180 to R183) -/

/-- The lowest-numbered entry of a vat's queue that holds no record. -/
def State.freeRec (s : State) (node : Nat) : Nat :=
  ((List.range 512).find? (fun i => (mget? s.mqs (512 * node + i)).isNone)).getD 511

/-- The lowest number that no record of a slot's queue has among its entries. -/
def State.freeUnit (s : State) (node slot : Nat) : Nat :=
  ((List.range 512).find? (fun i => (s.recsOf node slot).all (fun p => p.2.unit != i))).getD 511

/-- `insert(f)` (R183): the record takes the 64 bytes of the submission as they stand, those above an XS payload too. (DESIGN CHOICE, log 110) -/
def State.insertRec (s : State) (node slot : Nat) (f : FoldReq) : State :=
  let op := hdrOp f.header
  let r : MqRec := { slot := slot, header := f.header, payload := if op == 9 then 1 else f.payload, tag := recordTag op f.tag,
                     folds := 1, age := 0, reason := 0, state := .waiting, ovf := false, sat := false, of := false, nv := false,
                     order := s.turn, unit := s.freeUnit node slot }
  { s with mqs := mset s.mqs (512 * node + s.freeRec node) r }

/-- What an arrival does to the queue of its slot: the state, and the refusal reason (0 for none). -/
def State.foldOrInsert (s : State) (node slot : Nat) (sl : Slot) (f : FoldReq) : State × Nat :=
  let free : Bool := (s.recsOf node slot).length < sl.mqe
  match (s.waitingRecs node slot).find? (fun p =>
      hdrKey p.2.header == hdrKey f.header && hdrClass p.2.header == hdrClass f.header) with
  | some (k, m) =>
    let op := hdrOp m.header
    if hdrOp f.header != op || hdrRk f.header != hdrRk m.header || hdrChk f.header != hdrChk m.header ||
        (op != 9 && f.tag != m.tag) then (s, 2)
    else
      let (v, overflow, nv) := combine op m.tag m.payload f.payload
      if hdrChk m.header && overflow then
        if free then ((s.dispatchRec k 6).insertRec node slot f, 0) else (s, 1)
      else
        let m' := { m with payload := v, folds := min (m.folds + 1) 0xFFFF,
                           ovf := m.ovf || (overflow && (op == 0 || op == 9)), sat := m.sat || (overflow && op == 1),
                           of := m.of || (overflow && op == 2), nv := m.nv || nv }
        ({ s with mqs := mset s.mqs k m' }, 0)
  | none => if free then (s.insertRec node slot f, 0) else (s, 1)

/-- The slot that an arrival joins: number and slot, if it has entries (R180). -/
def State.foldSlot (s : State) (f : FoldReq) : Option (Nat × Slot) :=
  match s.slotOfLid (nodeOf f.dst) f.lid with
  | some (i, sl) => if sl.mqe == 0 then none else some (i, sl)
  | none => none

/-- The next phase 1 of the queue would dispatch a record. -/
def State.dispatches (s : State) (node slot : Nat) : Bool := (s.phaseOne node slot 0).mqs != s.mqs

/-- The cycle in which a fold arrives: one from the vat itself arrives in the cycle of its issue; another's is not the second of its core there, and was sent
before the cycle began. A queue without records begins one. -/
def State.foldCycle (s : State) (f : FoldReq) : State :=
  let node := nodeOf f.dst
  match s.foldSlot f with
  | none => s
  | some (i, _) =>
    if (s.recsOf node i).isEmpty then s.openCycle node i [f.src]
    else if nodeOf f.src == node then s
    else s.joinCycle node i f.src (fun r => r.mark ≤ f.oid)

/-- The same of a message to the arithmetic core, whose channels the queues of the vat look at. -/
def State.messageCycle (s : State) (m : Message) : State :=
  let node := nodeOf m.dst
  if coreOf m.dst != 2 || nodeOf m.src == node then s
  else (List.range 4).foldl (fun s i => s.joinCycle node i m.src (fun r => r.mark ≤ m.oid)) s

/-- What happens takes its place in the cycles of the queues that it meets. -/
def State.cycleOf (s : State) : Event → State
  | .foldRequestArrival f => s.foldCycle f
  | .messageAccept m => s.messageCycle m
  | _ => s

/-- FOLD_REQUEST_ARRIVAL (R180 to R183): phase 2 for one arrival. A stop never refuses a fold of the local path (R318). -/
def execFoldRequestArrival (f : FoldReq) (s : State) : Host.Outcome State Fault Refusal :=
  let node := nodeOf f.dst
  .next (match s.foldSlot f with
    | none => s.later (.foldRefusalArrival f 3)
    | some (i, sl) =>
      if sl.stopped && nodeOf f.src != node then s.later (.foldRefusalArrival f 4)
      else
        match s.foldOrInsert node i sl f with
        | (s, 0) => (s.queueEvents node i).freeOut f.src f.oid
        | (s, rsn) => s.later (.foldRefusalArrival f rsn))

/-- The eleven words of a fold refusal (R181, Table 10-4). -/
def foldRefusalWords (f : FoldReq) (rsn : Nat) : List Word :=
  let code := if rsn == 3 then 2 else if rsn == 4 then 3 else 1
  BitVec.ofNat 64 (f.tag * 2 ^ 20 + rsn * 2 ^ 16 + 3 * 2 ^ 12 + 9 * 2 ^ 8 + code) :: f.target :: f.header ::
    (List.range 8).map (fun i => BitVec.ofNat 64 (fld f.payload (64 * i) 64))

/-- FOLD_REFUSAL_ARRIVAL (R181): the refusal waits for its channel; it frees the outstanding slot as it enters. -/
def execFoldRefusalArrival (f : FoldReq) (rsn : Nat) (s : State) : Host.Outcome State Fault Refusal :=
  .next (s.postNow f.src f.ret { words := foldRefusalWords f rsn, oid := some (f.src, f.oid) })

/-! ### Instructions -/

/-- The vat a target word names (R179), as its arithmetic core; none where the word is bad. -/
def targetCore (node : Nat) (w : Nat) : Option Nat :=
  if fld w 16 2 != 2 || fld w 20 4 != 0 || bitAt w 30 then none
  else destCore node false (w + 2 ^ 20)

/-- MQFOLD (R179, R180): the checks in the order of R179; b's class is checked before its tag is read, and after d and a are popped. (DESIGN CHOICE,
log 102) -/
def execMqfold (d a b : Nat) (s : State) : Host.Outcome State Fault Refusal :=
  runInstr xMQ 0x48 (do
    classes (fun s => [⟨0, d, wSource s d⟩, ⟨1, a, wSource s a⟩])
    let h ← srcW a
    let target ← srcW d
    let st ← getS
    let dst := targetCore st.node target.toNat
    let op := hdrOp h
    checkAll [⟨0, d, dst.isSome⟩, ⟨0, d, st.refusalChan != 0⟩, ⟨1, a, fld h.toNat 59 5 == 0 && op < 10 && hdrRk h < 2⟩,
      ⟨2, b, vSource st b⟩]
    let v ← srcV b
    checkAll [⟨1, a, hdrRk h != 1 || isIntTag (recordTag op v.tag)⟩]
    if !opAccepts op v.tag then formatTrap (if op == 2 then tXS else 0) v.tag 2
    let oid ← takeOut true true
    modS (fun s => s.later (.foldRequestArrival ⟨s.cur.ck, dst.getD 0, s.curLid, target, h, v.val, v.tag, s.refusalChan, oid⟩))
    advance 4) s

/-- Change the executing handler's slot. -/
def State.modCurSlot (s : State) (f : Slot → Slot) : State := s.modSlot s.node s.curEntry.slot f

/-- MQBIND (R186). -/
def execMqbind (a b : Nat) (s : State) : Host.Outcome State Fault Refusal :=
  runInstr xMQ 0x49 (do
    classes (fun s => [⟨1, a, wSource s a⟩, ⟨2, b, wSource s b⟩])
    let c := (← srcW a).toNat
    let ch := (← srcW b).toNat
    let st ← getS
    checkAll [⟨1, a, c ≤ 15⟩, ⟨2, b, ch == 0 || st.ownsChan ch⟩]
    modS (fun s => s.modCurSlot (fun r => { r with classes := mset r.classes c { r.cls c with ch := ch } }))
    advance 4) s

/-- MQCFG (R187). -/
def execMqcfg (a b : Nat) (s : State) : Host.Outcome State Fault Refusal :=
  runInstr xMQ 0x4B (do
    classes (fun s => [⟨1, a, wSource s a⟩, ⟨2, b, wSource s b⟩])
    let c := (← srcW a).toNat
    let w := (← srcW b).toNat
    let st ← getS
    let mqe := (st.curSlot?.map (·.mqe)).getD 0
    checkAll [⟨1, a, c ≤ 16⟩,
      ⟨2, b, if c == 16 then fld w 10 54 == 0 && 1 ≤ fld w 0 10 && fld w 0 10 ≤ mqe else fld w 0 16 == 0⟩]
    modS (fun s => s.modCurSlot (fun r =>
      if c == 16 then { r with hwm := fld w 0 10 }
      else { r with classes := mset r.classes c { r.cls c with rval := fld w 48 16, ath := fld w 32 16, fth := fld w 16 16 } }))
    advance 4) s

/-- MQDRAIN (R188): the phase 1 that it waits for passes, after the phase 3 of the cycle at hand. (DEDUCED, log 20) -/
def execMqdrain (a : Nat) (s : State) : Host.Outcome State Fault Refusal :=
  runInstr xMQ 0x4A (do
    classes (fun s => [⟨1, a, wSource s a⟩])
    let w := (← srcW a).toNat
    checkAll [⟨1, a, fld w 16 48 == 0⟩]
    modS (fun s =>
      let n := s.node
      let sl := s.curEntry.slot
      (((s.phaseThree n sl).phaseOne n sl w).openCycle n sl [s.cur.ck]).queueEvents n sl)
    advance 4) s

/-- The word MQSTAT writes (R189). -/
def State.mqStatus (s : State) (node slot q : Nat) : Nat :=
  let r := s.slot? node slot
  let recs := s.recsOf node slot
  let count (st : MqState) : Nat := (recs.filter (fun p => hdrClass p.2.header == q && p.2.state == st)).length
  if q == 16 then (r.map (·.mqe)).getD 0 + recs.length * 2 ^ 16 + (r.map (·.hwm)).getD 0 * 2 ^ 32
  else count .waiting + count .dispatching * 2 ^ 16 + (r.map (fun r => (r.cls q).ch)).getD 0 * 2 ^ 32

/-- MQSTAT (R189). -/
def execMqstat (d a : Nat) (s : State) : Host.Outcome State Fault Refusal :=
  runInstr xMQ 0x4B (do
    classes (fun s => [⟨0, d, isW d⟩, ⟨1, a, wSource s a⟩])
    let q := (← srcW a).toNat
    checkAll [⟨1, a, q ≤ 16⟩]
    let s ← getS
    dstW d (BitVec.ofNat 64 (s.mqStatus s.node s.curEntry.slot q))
    advance 4) s

end Sys2Proof.Machine
end

