-- ==== Sys2Proof/Machine/Phase.lean ====
section
/-!
DEFINITION. PHASE, its departure, and FENCE (13 R228, R232 to R235).
-/
namespace Sys2Proof.Machine
open Sys2Proof

/-- The nodes of a group. -/
def groupNodes (g : PhaseKey) : List Nat :=
  if 2048 ≤ g.x then [g.x] else (List.range (g.w * g.h)).map (fun i => vatAt (g.x + i % g.w) (g.y + i / g.w))

/-- NARR + 1 of a PHASE word. -/
def arrivalsDue (w : Nat) : Nat := fld w 0 7 + 1

/-- The arrivals of a vat in its open generation, from its arrivals in order: those after the generations it has already filled. -/
def openArrivals : Nat → List (Nat × Nat × Nat) → List (Nat × Nat × Nat)
  | 0, l => l
  | fuel + 1, l =>
    match l with
    | [] => []
    | a :: _ => if arrivalsDue a.2.1 ≤ l.length then openArrivals fuel (l.drop (arrivalsDue a.2.1)) else l

/-- The group's record. -/
def State.phaseRec (s : State) (g : PhaseKey) : PhaseGroup := (s.phases.find? (fun p => p.key == g)).getD ⟨g, 0, []⟩
def State.setPhaseRec (s : State) (p : PhaseGroup) : State :=
  { s with phases := s.phases.filter (fun q => q.key != p.key) ++ [p] }

/-- The arrivals of a vat in a group. -/
def arrivalsOf (p : PhaseGroup) (node : Nat) : List (Nat × Nat × Nat) := p.arr.filter (fun a => a.1 == node)

/-- Every vat of the group holds the arrivals of the oldest generation. -/
def generationFull (p : PhaseGroup) : Bool :=
  (groupNodes p.key).all (fun n =>
    match arrivalsOf p n with
    | [] => false
    | a :: r => arrivalsDue a.2.1 ≤ r.length + 1)

/-- PHASE (R233): a mismatch of NARR traps with nothing else changed, the release step included. (DESIGN CHOICE, log 114) An empty queue or channel in a
blocks before the scope code is checked. (DESIGN CHOICE, log 102) -/
def execPhase (a scope : Nat) (s : State) : Host.Outcome State Fault Refusal :=
  runInstr xBASE 0x58 (do
    classes (fun s => [⟨1, a, wSource s a⟩])
    let w := (← srcW a).toNat
    let st ← getS
    let shape := (st.curSlot?.map (·.shape)).getD 0
    checkAll [⟨2, scope, scope ≤ 5⟩, ⟨1, a, fld w 24 40 == 0 && fld w 7 8 == 0 && fld w 0 7 ≤ 95⟩, ⟨1, a, !bitAt w 15 || scope == 1⟩,
      ⟨1, a, !bitAt w 15 || (fld w 16 4 ≤ fld shape 16 3 && fld w 20 4 ≤ fld shape 19 3)⟩]
    performed
    let g := st.phaseGroup scope w
    let p := st.phaseRec g
    let mine := arrivalsOf p st.node
    checkAll [⟨1, a, match openArrivals mine.length mine with
      | [] => true
      | f :: _ => f.2.1 == w % 2 ^ 16⟩]
    leaveWith (.phase g) (fun s =>
      let p := { p with arr := p.arr ++ [(s.node, w % 2 ^ 16, s.curKey)] }
      let s := (s.releaseScope scope w).setPhaseRec p
      if generationFull p then s.later (.phaseDeparture g) else s)) s

/-- The arrivals of the oldest generation, and the others. -/
def splitGeneration (p : PhaseGroup) : List (Nat × Nat × Nat) × List (Nat × Nat × Nat) :=
  let first (n : Nat) : List (Nat × Nat × Nat) :=
    match arrivalsOf p n with
    | [] => []
    | a :: r => (a :: r).take (arrivalsDue a.2.1)
  let gone := (groupNodes p.key).flatMap first
  (gone, p.arr.filter (fun a => !gone.contains a))

/-- A waiting PHASE of entry `k` departs (R233, R230): an acquire event. -/
def State.departPhase (s : State) (g : PhaseKey) (k : Nat) : State :=
  let e := s.entry k
  if e.state == .blocked && e.wait == .phase g then
    (s.modEntry k (fun e => { e with state := .active, wait := .none, ip := (e.ip + 4) % 0x200000 })).newPhase k
  else s

/-- PHASE_DEPARTURE (R233, R234): the handlers of a complete generation depart. -/
def execPhaseDeparture (g : PhaseKey) (s : State) : Host.Outcome State Fault Refusal :=
  let p := s.phaseRec g
  .next (if generationFull p then
      let (gone, rest) := splitGeneration p
      let p' : PhaseGroup := { p with gen := (p.gen + 1) % 256, arr := rest }
      let s := gone.foldl (fun s a => s.departPhase g a.2.2) (s.setPhaseRec p')
      if generationFull p' then s.later (.phaseDeparture g) else s
    else s)

/-- FENCE (R235). -/
def execFence (scope : Nat) (s : State) : Host.Outcome State Fault Refusal :=
  runInstr xBASE 0x58 (do
    checkAll [⟨2, scope, scope ≤ 5⟩]
    releaseStep scope
    acquire
    advance 4) s

end Sys2Proof.Machine
end

