-- ==== Sys2Proof/Machine/TileTable.lean ====
section
/-!
DEFINITION. The tile-table instructions (12 R224, R225): TSTATE, TWAIT, LFILL, LEMPTY.
-/
namespace Sys2Proof.Machine
open Sys2Proof

/-- The code of a state (Table 12-7). -/
def stateCode : TState → Nat
  | .empty => 0 | .filling => 1 | .ready => 2 | .draining => 3

/-- Word 0 of an entry (Table 12-7). -/
def tileWord0 (t : Tile) : Nat :=
  t.v.toNat * 2 ^ 63 + t.slot * 2 ^ 61 + t.rcm.toNat * 2 ^ 60 + t.sem * 2 ^ 56 + t.uses * 2 ^ 48 + t.nl * 2 ^ 16 + t.first
/-- Word 1 of an entry. -/
def tileWord1 (t : Tile) : Nat := t.uleft * 2 ^ 36 + stateCode t.state * 2 ^ 34 + t.cons * 2 ^ 28 + t.pend

/-- An entry as the executing handler reads it: one in use by another slot reads as zero (R220); a service core, whose node has no tile table, reads
zero. (DEDUCED, log 96) -/
def State.myTile (s : State) (e : Nat) : Tile :=
  let t := s.tile s.node e
  if isService s.node || (t.v && t.slot != s.curEntry.slot) then {} else t

/-- TSTATE (R224). -/
def execTstate (d a : Nat) (s : State) : Host.Outcome State Fault Refusal :=
  runInstr xBASE 0x59 (do
    classes (fun s => [⟨0, d, isW d⟩, ⟨1, a, wSource s a⟩])
    let e := (← srcW a).toNat
    checkAll [⟨1, a, e ≤ 63⟩]
    dstW d (BitVec.ofNat 64 (tileWord1 ((← getS).myTile e)))
    advance 4) s

/-- TWAIT (R224). -/
def execTwait (a b : Nat) (s : State) : Host.Outcome State Fault Refusal :=
  runInstr xBASE 0x59 (do
    classes (fun s => [⟨1, a, wSource s a⟩, ⟨2, b, wSource s b⟩])
    let e := (← srcW a).toNat
    let m := (← srcW b).toNat
    let st ← getS
    let t := st.myTile e
    checkAll [⟨1, a, e ≤ 63 && t.v⟩, ⟨2, b, m % 16 != 0 && m < 16⟩]
    if bitAt m (stateCode t.state) then advance 4 else blockOn .retry) s

/-- The range of LFILL and LEMPTY, checked (R225): offset and byte count. -/
def lineRange (a b : Nat) : M (Nat × Nat) := do
  classes (fun s => [⟨1, a, wSource s a⟩, ⟨2, b, wSource s b⟩])
  let lo := (← srcW a).toNat
  let n := (← srcW b).toNat
  checkAll [⟨2, b, 128 ≤ n && n + lo ≤ 0x200000⟩, ⟨1, a, 0x2000 ≤ lo⟩]
  if lo % 128 != 0 then alignmentTrap lo
  else if n % 128 != 0 then alignmentTrap n
  else return (lo, n)

/-- LFILL: F is set on the range, and each FILLING entry of the executing slot is credited the bytes of the range in it. -/
def State.lfill (s : State) (node slot lo n : Nat) : State :=
  let s := s.fillLines (spAddr node lo) n
  (s.tilesMeeting node lo n).foldl (fun s p =>
    if p.2.slot == slot then s.creditTile node p.1 (overlapBytes p.2 lo n) else s) s

/-- LFILL (R225). -/
def execLfill (a b : Nat) (s : State) : Host.Outcome State Fault Refusal :=
  runInstr xBASE 0x59 (do
    let (lo, n) ← lineRange a b
    modS (fun s => s.lfill s.node s.curEntry.slot lo n)
    advance 4) s

/-- A READY entry goes DRAINING, marked empty (Table 12-8), and leaves it at once when it has no consumer. -/
def State.drainTile (s : State) (node e : Nat) : State :=
  let t := s.tile node e
  if t.v && t.state == .ready then (s.setTile node e { t with state := .draining, refill := false }).settleTile node e else s

/-- LEMPTY: F is cleared on the lines that lie in no READY or DRAINING entry, and READY entries that meet the range drain. -/
def State.lempty (s : State) (node lo n : Nat) : State :=
  let s := (List.range (n / 128)).foldl (fun s i =>
    if s.tileHeld node (lo + 128 * i) 128 then s else s.emptyLines (spAddr node (lo + 128 * i)) 128) s
  (s.tilesMeeting node lo n).foldl (fun s p => s.drainTile node p.1) s

/-- LEMPTY (R225). -/
def execLempty (a b : Nat) (s : State) : Host.Outcome State Fault Refusal :=
  runInstr xBASE 0x59 (do
    let (lo, n) ← lineRange a b
    modS (fun s => s.lempty s.node lo n)
    advance 4) s

end Sys2Proof.Machine
end

