-- ==== Sys2Proof/Machine/System.lean ====
section
/-!
DEFINITION. The system instructions (03 R44, 19 R305 to R307, R314): SRR and SRW over every system register, TRAP, BKPT, ERET, HALT and the
debug commands, and the fate of an encoding that is no instruction (R45 to R47).
-/
namespace Sys2Proof.Machine
open Sys2Proof

/-! ### Reading system registers (R44) -/

/-- Word 0 of a handler entry in use that shows state `st` (Table 9-2). -/
def entryWord0 (st : EState) (e : Entry) : Nat :=
  let st : Nat := match st with
    | .idle => 0 | .runnable => 1 | .active => 2 | .blocked => 3
  e.ws / 2048 * 2 ^ 54 + e.slot * 2 ^ 52 + e.prio * 2 ^ 49 + e.msk.toNat * 2 ^ 48 + st * 2 ^ 46 + e.lnch.toNat * 2 ^ 45 +
    e.yld.toNat * 2 ^ 44 + e.vregs * 2 ^ 39 + e.lhn * 2 ^ 34 + 2 ^ 33 + e.entry

/-- Words 0 and 1 of handler entry `h` of the executing core: zero for another slot's. -/
def State.tableWord (s : State) (h w : Nat) : Nat :=
  let e := s.entry (32 * s.cur.ck + h)
  if e.v && e.slot == s.curEntry.slot then (if w == 0 then entryWord0 (s.entryState s.cur.ck e) e else e.chans) else 0

/-- The matrix array works for a core that halts: an instruction other than a walk, which the halt stops (R308, R314). -/
def State.finishing (s : State) (ck : Nat) : Bool :=
  match mget? s.arrays (nodeOf ck) with
  | some j => j.ent / 32 == ck && j.walk.isNone
  | none => false

/-- DBG (Table 19-10): HLT reads 1 once the halted core has finished its work. (DEDUCED, log 51) -/
def State.dbgWord (s : State) (ck : Nat) : Nat :=
  let c := s.core ck
  c.hob.toNat * 2 ^ 17 + (c.hlt && !s.finishing ck).toNat * 2 ^ 16 + c.ent * 2 ^ 8

/-- The executing core is a vat's transfer core. -/
def onTransfer (s : State) : Bool := !isService s.node && s.coreNo == 0

/-- System register `n` as the executing handler reads it; none where the number is not assigned on its core. (DEDUCED, log 50) -/
def State.sysRead (s : State) (n : Nat) : Option Nat :=
  let e := s.curEntry
  if n == 0 then some e.wp
  else if n == 1 then some e.ip
  else if n == 2 then some e.st.toNat
  else if n == 3 then some (mget (s.core s.cur.ck).eh e.slot 0).toNat
  else if n == 0x10 then some (feat0 s.cur.ck).toNat
  else if n == 0x11 then some Config.feat1.toNat
  else if n == 0x12 then some Config.feat2.toNat
  else if n == 0x13 then some Config.feat3.toNat
  else if 0x100 ≤ n && n < 0x140 then some (s.tableWord ((n - 0x100) / 2) (n % 2))
  else if 0x200 ≤ n && n < 0x280 then
    if isService s.node then none
    else
      let t := s.myTile ((n - 0x200) / 2)
      some (if n % 2 == 0 then tileWord0 t else tileWord1 t)
  else if n == 0x300 then
    if isSvc s 1 then some ((mget s.faqs (clusterOf s.node) {}).items.headD 0) else none
  else if n == 0x301 then
    if isSvc s 1 then
      let q := mget s.faqs (clusterOf s.node) {}
      some (q.ovf.toNat * 2 ^ 63 + q.items.length)
    else none
  else if n == 0x400 then some (s.dbgWord s.cur.ck)
  else if n == 0x500 then some (s.islWord s.node)
  else if n == 0x600 then if isLaneCore s then some s.lsel else none
  else if n == 0x601 then if isLaneCore s then some s.leye else none
  else if n == 0x602 then if isLaneCore s then some 0 else none
  else if n == 0x700 then if onTransfer s then some 0 else none
  else if 0x800 ≤ n && n < 0xA00 then
    if onTransfer s then some (s.matchWord ((n - 0x800) / 4) (n % 4)) else none
  else none

/-- What reading a register changes: reading 0x0300 pops the fault-address queue (R250). -/
def State.sysReadEffect (s : State) (n : Nat) : State :=
  if n == 0x300 then
    let c := clusterOf s.node
    let q := mget s.faqs c {}
    { s with faqs := mset s.faqs c { q with items := q.items.tail } }
  else s

/-- SRR of register `n` into W[r] (R305). -/
def srrForm (r n : Nat) (s : State) : Host.Outcome State Fault Refusal :=
  runInstr xBASE 0x5E (do
    checkAll [⟨0, r, isW r⟩]
    match (← getS).sysRead n with
    | none => illegalOperand r 0
    | some v =>
      modS (fun s => s.sysReadEffect n)
      writeW r (BitVec.ofNat 64 v)
      advance 4) s

/-- SRR (R305). -/
def execSrr (r n : Nat) (s : State) : Host.Outcome State Fault Refusal := srrForm r n s
/-- FAULT_QUEUE_POP (R250). -/
def execFaultQueuePop (r : Nat) (s : State) : Host.Outcome State Fault Refusal := srrForm r 0x300 s

/-! ### Writing system registers -/

/-- The entry that SRW of `v` to word 0 leaves for slot `sl` (R220, R221): EMPTY, with the fields of `v`. -/
def tileWritten (sl v : Nat) : Tile :=
  { v := bitAt v 63, slot := sl, rcm := bitAt v 60, sem := fld v 56 4, uses := fld v 48 8, nl := fld v 16 14, first := fld v 0 14,
    uleft := fld v 48 8 }

/-- SRW of `v` to word 0 of tile-table entry `e` (R220, R221). -/
def tileControl (r e v : Nat) : M Unit := do
  let st ← getS
  let t := st.tile st.node e
  checkAll [⟨0, r, !t.v || (t.slot == st.curEntry.slot && t.state == .empty && t.cons == 0)⟩,
    ⟨0, r, fld v 30 18 == 0 && fld v 14 2 == 0⟩]
  if bitAt v 63 then
    let first := fld v 0 14
    let nl := fld v 16 14
    let sems := (st.curSlot?.map (fun r => fld r.rfcs 16 16)).getD 0
    checkAll [⟨0, r, 64 ≤ first⟩, ⟨0, r, first + nl + 1 ≤ 16384⟩, ⟨0, r, !bitAt v 60 || fld v 48 8 != 0⟩,
      ⟨0, r, !bitAt v 60 || bitAt sems (fld v 56 4)⟩]
  modS (fun s => s.setTile s.node e (tileWritten s.curEntry.slot v))

/-- SRW of `v` to word 1 of tile-table entry `e` (R221): a non-zero PEND arms it. -/
def tileArm (r e v : Nat) : M Unit := do
  let st ← getS
  let t := st.tile st.node e
  checkAll [⟨0, r, (!t.v || t.slot == st.curEntry.slot) && t.state == .empty⟩, ⟨0, r, v < 2 ^ 28⟩]
  modS (fun s => s.setTile s.node e { t with pend := v, state := if v == 0 then .empty else .filling })

/-- Number `n` is a register that SRW leaves as it is on this core (RO fields, R2). -/
def readOnly (s : State) (n : Nat) : Bool :=
  (0x10 ≤ n && n ≤ 0x13) || (0x100 ≤ n && n < 0x140) || (n == 0x300 && isSvc s 1) || n == 0x400 || n == 0x500 ||
  (n == 0x601 && isLaneCore s)

/-- SRW of W[r] to register `n`: the write itself. -/
def sysWrite (r n v : Nat) : M Unit := do
  let st ← getS
  if n == 2 then modS (fun s => s.modEntry s.curKey (fun e => { e with st := BitVec.ofNat 64 v &&& stMask }))
  else if n == 3 then
    let w : Word := BitVec.ofNat 64 v &&& ehMask
    checkAll [⟨0, r, !(ehV w && ehTwp w < 4)⟩]
    modS (fun s => s.modCore s.cur.ck (fun c => { c with eh := mset c.eh s.curEntry.slot w }))
  else if readOnly st n then pure ()
  else if 0x200 ≤ n && n < 0x280 && !isService st.node then
    if n % 2 == 0 then tileControl r ((n - 0x200) / 2) v else tileArm r ((n - 0x200) / 2) v
  else if n == 0x301 && isSvc st 1 then
    let c := clusterOf st.node
    let q := mget st.faqs c {}
    modS (fun s => { s with faqs := mset s.faqs c { q with ovf := q.ovf && !bitAt v 63 } })
  else if n == 0x600 && isLaneCore st then
    checkAll [⟨0, r, laneOk v⟩]
    modS (fun s => { s with lsel := v % 2 ^ 18, lselSet := true })
  else if n == 0x602 then lcmdBody r v
  else if n == 0x700 then fsendBody r v
  else if 0x800 ≤ n && n < 0xA00 then
    if n % 4 == 3 then matchControl r ((n - 0x800) / 4) v else matchField r ((n - 0x800) / 4) (n % 4) v
  else illegalOperand r 0

/-- SRW of W[r] to register `n` (R305). -/
def srwForm (r n : Nat) (s : State) : Host.Outcome State Fault Refusal :=
  runInstr xBASE 0x5E (do
    checkAll [⟨0, r, isW r⟩]
    sysWrite r n (← readW r).toNat
    advance 4) s

/-- SRW (R305). -/
def execSrw (r n : Nat) (s : State) : Host.Outcome State Fault Refusal := srwForm r n s
/-- TILE_ENTRY_WRITE (R221). -/
def execTileEntryWrite (r e : Nat) (s : State) : Host.Outcome State Fault Refusal := srwForm r (0x200 + 2 * (e % 64)) s
/-- TILE_ENTRY_ARM (R221). -/
def execTileEntryArm (r e : Nat) (s : State) : Host.Outcome State Fault Refusal := srwForm r (0x201 + 2 * (e % 64)) s
/-- FAULT_QUEUE_CLEAR_OVF (R250). -/
def execFaultQueueClearOvf (r : Nat) (s : State) : Host.Outcome State Fault Refusal := srwForm r 0x301 s
/-- FABRIC_SEND (R327). -/
def execFabricSend (r : Nat) (s : State) : Host.Outcome State Fault Refusal := srwForm r 0x700 s
/-- MATCH_ARM (R330). -/
def execMatchArm (r e : Nat) (s : State) : Host.Outcome State Fault Refusal := srwForm r (0x803 + 4 * (e % 128)) s
/-- MATCH_DISARM (R330). -/
def execMatchDisarm (r e : Nat) (s : State) : Host.Outcome State Fault Refusal := srwForm r (0x803 + 4 * (e % 128)) s
/-- LANE_RETRAIN (R358). -/
def execLaneRetrain (r : Nat) (s : State) : Host.Outcome State Fault Refusal := srwForm r 0x602 s
/-- LANE_REPAIR (R358). -/
def execLaneRepair (r : Nat) (s : State) : Host.Outcome State Fault Refusal := srwForm r 0x602 s

/-! ### TRAP, BKPT, ERET (R306, R307) -/

/-- TRAP (R306). -/
def execTrap (n : Nat) (s : State) : Host.Outcome State Fault Refusal :=
  runInstr xBASE 0x5E (throw (.trap 0x08 (n % 2 ^ 14) true)) s

/-- BKPT (R306): with HOB the core halts, IP past it. -/
def execBkpt (n : Nat) (s : State) : Host.Outcome State Fault Refusal :=
  runInstr xBASE 0x5E (do
    let st ← getS
    if (st.core st.cur.ck).hob then
      advance 4
      modS (fun s => (s.haltHandlers s.cur.ck).modCore s.cur.ck (fun c => { c with hlt := true }))
    else throw (.trap 0x07 (n % 2 ^ 14) true)) s

/-- ERET (R30, R307): the saved words are read as a load reads memory. (DEDUCED, log 55) -/
def execEret (s : State) : Host.Outcome State Fault Refusal :=
  runInstr xBASE 0x5E (do
    let st ← getS
    if !stIT st.curEntry.st then illegalInstruction
    else
      let _ ← readSp (spAddr st.node (stRWP st.curEntry.st * 2048 + 0x570)) 16
      if st.cleanWaits st.node (stRWP st.curEntry.st * 2048) then blockOn .retry
      modS State.trapReturn) s

/-! ### HALT and the debug commands (R314) -/

/-- HALT (R314): the command is sent. (DEDUCED, log 52; DEDUCED, log 53) -/
def execHalt (r : Nat) (s : State) : Host.Outcome State Fault Refusal :=
  runInstr xBASE 0x5E (do
    checkAll [⟨0, r, isW r⟩]
    let w := (← readW r).toNat
    let st ← getS
    let vat := fld w 0 11
    let core := fld w 12 2
    let inside := match st.curSlot? with
      | some q => !isService st.node && (rectNodes q.shape q.ox q.oy).contains vat
      | none => false
    checkAll [⟨0, r, fld w 20 44 == 0 && fld w 14 2 == 0 && !bitAt w 16⟩, ⟨0, r, core != 3⟩, ⟨0, r, inside⟩]
    let ck := 4 * vat + core
    modS (fun s => s.later (match fld w 18 2 with
      | 0 => .debugHalt ck
      | 1 => .debugRelease ck
      | 2 => .debugStep ck
      | _ => .debugSetHob ck (fld w 17 1)))
    advance 4) s

/-- DEBUG_HALT (R314): the core stops issuing, its walk stops at a step boundary (R130; DEDUCED, log 56), and its handlers no longer wait for fault replies
(R246). -/
def execDebugHalt (ck : Nat) (s : State) : Host.Outcome State Fault Refusal :=
  .next ((s.haltHandlers ck).modCore ck (fun c => { c with hlt := true, step := false }))
/-- DEBUG_RELEASE (R314). -/
def execDebugRelease (ck : Nat) (s : State) : Host.Outcome State Fault Refusal :=
  .next (s.modCore ck (fun c => { c with hlt := false, step := false }))
/-- DEBUG_STEP (R314): a halted core may issue one instruction. -/
def execDebugStep (ck : Nat) (s : State) : Host.Outcome State Fault Refusal :=
  .next (s.modCore ck (fun c => { c with step := c.hlt }))
/-- DEBUG_SET_HOB (R314). -/
def execDebugSetHob (ck hob : Nat) (s : State) : Host.Outcome State Fault Refusal :=
  .next (s.modCore ck (fun c => { c with hob := hob == 1 }))

/-! ### Encodings that are no instruction (R45 to R47) -/

/-- ILLEGAL_ENCODING: opcodes 0x70 to 0x7E raise the emulation trap, every other encoding the illegal-instruction trap. -/
def execIllegalEncoding (nbits w : Nat) (s : State) : Host.Outcome State Fault Refusal :=
  let op := fld w 1 7
  runInstr xBASE op (if nbits == 32 && 0x70 ≤ op && op ≤ 0x7E then trap 0x05 op else illegalInstruction) s

end Sys2Proof.Machine
end

