-- ==== Sys2Proof/Machine/ImageBytes.lean ====
section
/-!
DEFINITION. The layout of a vat image (19 R309, Tables 19-5 and 19-6), with the words of the sections to which the spec gives a size and contents but no
bit layout. (DESIGN CHOICE, log 65)
-/
namespace Sys2Proof.Machine
open Sys2Proof

/-! ### The header -/

def spLen (space : Nat) : Nat := fld space 10 10
def spBase (space : Nat) : Nat := fld space 0 10
def spBanks (space : Nat) : Nat := fld space 20 8
def spMqe (space : Nat) : Nat := fld space 28 10

/-- VSTRIDE of a rectangle, from its launch word SPACE. -/
def imageStride (space : Nat) : Nat := alignUp (0x20000 + 0x800 * (spLen space + spBanks space) + 0x80 * spMqe space) 0x4000

/-- The number of an image header's MAGIC (Table 19-6). -/
def imageMagic : Nat := 0x7D210820

/-- The header's words 0 to 8 (Table 19-6). -/
def headerWords (gen lid lvn endto : Nat) (r : Slot) (incr complete : Bool) : List Nat :=
  [imageMagic + gen % 2 ^ 16 * 2 ^ 32, lid + lvn * 2 ^ 32, r.shape, r.space, r.chans, r.rfcs, endto, imageStride r.space,
   incr.toNat + 2 * complete.toNat]

/-- Word `i` of a header of 256 bytes. -/
def hdrWord (h i : Nat) : Nat := fld h (64 * i) 64

/-! ### Fields in one number -/

/-- Fields of given widths in one number, the first one lowest. -/
def putBits : List (Nat × Nat) → Nat
  | [] => 0
  | (n, v) :: r => v % 2 ^ n + 2 ^ n * putBits r

/-- The fields of given widths of a number, and what is above them. -/
def takeBits : List Nat → Nat → List Nat × Nat
  | [], x => ([], x)
  | n :: r, x => (x % 2 ^ n :: (takeBits r (x / 2 ^ n)).1, (takeBits r (x / 2 ^ n)).2)

/-- A list of fields of one width, with its length before it. -/
def putMany (n : Nat) (xs : List Nat) : List (Nat × Nat) := (16, xs.length) :: xs.map (fun x => (n, x))

/-- Such a list, and what is above it. -/
def takeMany (n x : Nat) : List Nat × Nat := takeBits (List.replicate (x % 2 ^ 16) n) (x / 2 ^ 16)

/-- The place of a number among others. -/
def rankIn (xs : List Nat) (x : Nat) : Nat := (xs.filter (· < x)).length

/-! ### Cores, handlers, channels -/

/-- A number or none, as a number: none is 0. -/
def plusOne : Option Nat → Nat
  | some x => x + 1
  | none => 0
def minusOne (n : Nat) : Option Nat := if n == 0 then none else some (n - 1)

/-- The workspace of an activation as its entry and EH give it: its own, or that of the trap handler (R25, R29). -/
def Entry.usualWp (e : Entry) (eh : Word) : Nat := if stIT e.st then ehTwp eh * 2048 else e.ws

/-- The workspace of an activation that lives elsewhere, plus 1; else 0. -/
def Entry.wpCode (e : Entry) (eh : Word) : Nat := if activated e && e.wp != e.usualWp eh then e.wp / 2048 + 1 else 0

/-- The trap that entry `k` of a slot waits to take: cause, INFO, whether the saved IP is the next instruction, and its place in the order of R303. -/
def State.trapCode (s : State) (k : Nat) (e : Entry) : Nat :=
  match e.wait with
  | .trap c i n =>
    let ahead := s.entries.filter (fun p => p.1 / 32 == k / 32 && p.2.slot == e.slot && earlier p (k, e) &&
      (match p.2.wait with | .trap _ _ _ => true | _ => false))
    putBits [(6, c), (24, i), (1, n.toNat), (5, ahead.length)]
  | _ => 0

/-- The core record: the slot's EH, RFC, `last`, mirror owner and mirror words; then the workspaces that are not the usual ones, and the traps that
wait. -/
def State.coreRecord (s : State) (node sl : Nat) (r : Slot) (c : Nat) : Nat :=
  let ck := 4 * node + c
  let k := s.core ck
  let eh := mget k.eh sl 0
  let owner := k.owner.filter (fun e => (s.entry (32 * ck + e)).slot == sl)
  let es := (s.entriesOf ck).map (fun p => if p.2.v && p.2.slot == sl then p else (p.1, {}))
  putBits (([eh.toNat, fld r.rfcs (4 * c) 4, k.last, plusOne owner] ++
      (List.range 4).map (fun i => if owner.isSome then plusOne (mget? k.mir i) else 0)).map (fun w => (64, w)) ++
    es.map (fun p => (11, p.2.wpCode eh)) ++ es.map (fun p => (36, s.trapCode (32 * ck + p.1) p.2)))

/-- The words of a `.mirror` list in one number. -/
def mirrorCode : List Nat → Nat
  | [] => 0
  | w :: r => w + 1 + 257 * mirrorCode r
/-- The list that such a number stands for; the counter bounds it. -/
def mirrorWords : Nat → Nat → List Nat
  | 0, _ => []
  | n + 1, x => if x == 0 then [] else (x % 257 - 1) :: mirrorWords n (x / 257)

/-- The four words of a handler entry: table words 0 and 1, live IP, live ST. -/
def State.entryRecord (s : State) (node sl c e : Nat) : List Nat :=
  let x := s.entry (32 * (4 * node + c) + e)
  if x.v && x.slot == sl then [entryWord0 (s.entryState (4 * node + c) x) x, x.chans % 2 ^ 16, x.ip % 2 ^ 21, x.st.toNat] else [0, 0, 0, 0]

/-- The `.mirror` list of entry `e` of core `c` of a slot, as a number. -/
def State.mirrorRecord (s : State) (node sl c e : Nat) : Nat :=
  let x := s.entry (32 * (4 * node + c) + e)
  if x.v && x.slot == sl then mirrorCode x.mirrors else 0

/-- A mailbox: 16 words, then the count and the last-word flags; after them the acquire flags. -/
def boxRecord (b : List BoxWord) : List Nat :=
  b.map (fun w => w.val.toNat) ++ List.replicate (16 - b.length) 0 ++
    [b.length + packFields 1 (b.map (fun w => w.last.toNat)) * 2 ^ 16, packFields 1 (b.map (fun w => w.acq.toNat))]

/-- The slot's SENDRs from channel `ch` of core `c` that are to be answered, by the vat of their tags: its node, from 1, and their count; there is room
for twelve vats. -/
def tagRecord (r : Slot) (c ch : Nat) : List Nat :=
  ((r.tags.filter (fun p => p.1 % 16 == ch && p.1 / 16 % 4 == c)).take 12).map (fun p => p.1 / 64 + 1 + p.2 * 2 ^ 16)

/-- The block of channel `ch` of core `c`: its mailbox, the `.mirror` lists of two entries of the core, and the SENDRs from it to be answered. -/
def State.chanRecord (s : State) (node sl : Nat) (r : Slot) (c ch : Nat) : List Nat :=
  boxRecord (if bitAt (reservedChans r c) ch then s.box (4 * node + c) ch else []) ++
    [s.mirrorRecord node sl c (2 * ch), s.mirrorRecord node sl c (2 * ch + 1)] ++ tagRecord r c ch

/-- A verdict or END word that waits for room: the launch logic has it, and holds it for a launcher that is not resident (R172). -/
def isVerdict (it : WaitItem) : Bool := it.oid.isNone && !it.acq && it.words.length == 1

/-- An item that waits for channel `c` of core `ck`: its outstanding slot, if it has one, with what that slot holds, and its words. -/
def State.itemBits (s : State) (ck c : Nat) (it : WaitItem) : List (Nat × Nat) :=
  let o := it.oid.bind (fun p => (s.core p.1).outs.find? (fun o => p.1 == ck && o.oid == p.2))
  [(4, c), (1, it.acq.toNat), (1, o.isSome.toNat), (1, (o.any (·.msg)).toNat), (5, (o.map (·.ent)).getD 0), (4, it.words.length)] ++
    it.words.map (fun w => (64, w.toNat))

/-- The outstanding messages of core `c` of a slot: its refusals and other items that wait for room (R156, R161), in order. (DEDUCED, log 59) -/
def State.outstandingBits (s : State) (node : Nat) (r : Slot) (c : Nat) : Nat :=
  let items := (List.range 16).flatMap (fun ch =>
    if bitAt (reservedChans r c) ch then
      ((s.waiting (4 * node + c) ch).filter (fun it => !isVerdict it)).map (s.itemBits (4 * node + c) ch)
    else [])
  putBits ((8, items.length) :: items.flatten)

/-! ### Queues, tables, groups, records -/

/-- The entries that a slot has pushed on a queue: their number, then tag and value of each. -/
def State.queueUnit (s : State) (node sl q : Nat) : Nat :=
  let l := (s.queue node q).filter (fun e => e.slot == sl)
  let w := if q < 6 then 64 else 512
  l.length + 2 ^ 64 * packFields (64 + w) (l.map (fun e => e.tag + 2 ^ 64 * (e.val % 2 ^ w)))

/-- The two words of a tile-table entry of a slot. -/
def State.tileRecord (s : State) (node sl e : Nat) : List Nat :=
  let t := s.tile node e
  if t.slot == sl && t != {} then [tileWord0 t, tileWord1 t + t.refill.toNat * 2 ^ 63] else [0, 0]

/-- The size of a group's rectangle as logarithms, in six bits, by its number. -/
def groupCode (i : Nat) : Nat := i % 7 + 8 * (i / 7)

/-- The group of such a size that holds a vat. -/
def groupAt (lid node code : Nat) : PhaseKey :=
  let w := 2 ^ fld code 0 3
  let h := 2 ^ fld code 3 3
  ⟨lid, vatX node / w * w, vatY node / h * h, w, h⟩

/-- The arrivals of a vat in a group, in order, by generation: the PHASE word and the entries. The fuel bounds them. -/
def arrivalRuns : Nat → List (Nat × Nat × Nat) → List (Nat × List Nat)
  | 0, _ => []
  | _, [] => []
  | n + 1, a :: r =>
    let m := arrivalsDue a.2.1
    (a.2.1, ((a :: r).take m).map (·.2.2)) :: arrivalRuns n ((a :: r).drop m)

/-- The same for all groups that hold a vat: the group's size, the PHASE word, the entries. -/
def State.arrivalRecords (s : State) (node lid : Nat) : List (Nat × Nat × List Nat) :=
  (List.range 42).flatMap (fun i =>
    (arrivalRuns 96 (arrivalsOf (s.phaseRec (groupAt lid node (groupCode i))) node)).map (fun r => (groupCode i, r.1, r.2)))

/-- The phase groups that hold a vat: their generations, by size; for every entry the number of its arrival's record, from 1; the records: the group's
size, NARR, and bit 15 of the PHASE word. -/
def State.phaseBits (s : State) (node lid : Nat) : Nat :=
  let rs := s.arrivalRecords node lid
  putBits ((List.range 42).map (fun i => (8, (s.phaseRec (groupAt lid node (groupCode i))).gen)) ++
    (List.range 96).map (fun k => (7, (rs.findIdx? (fun r => r.2.2.contains (128 * node + k))).elim 0 (· + 1))) ++
    rs.flatMap (fun r => [(6, r.1), (7, fld r.2.1 0 7), (1, fld r.2.1 15 1)]))

/-- The bits of the phase groups that the section of the counts holds; those of further records follow the Mordant classes. -/
abbrev phaseRoom : Nat := 1536

/-- Semaphore counts, generation counter and chain inbox, first bank, phase groups. -/
def State.countBits (s : State) (node : Nat) (r : Slot) : Nat :=
  let poison := packFields 1 ((r.inbox.map (·.poison)).getD [] |>.map (·.toNat))
  let inbox := match r.inbox with
    | some q => 2 ^ 8 + q.count % 256 * 2 ^ 16 + q.afmt % 256 * 2 ^ 24
    | none => 0
  putBits ((List.range 16).map (fun i => (16, if bitAt (fld r.rfcs 16 16) i then s.semCount node i else 0)) ++
    [(64, r.gen % 256 + inbox + r.bank0 * 2 ^ 32), (128, poison), (64, 0),
     (phaseRoom, s.phaseBits node r.lid)])

/-- The poison bits of the rows of a bank. -/
def State.bankPoison (s : State) (node b : Nat) : Nat := packFields 1 ((List.range 8).map (fun i => (s.accBad node b i).toNat))

/-- The allocation record of a bank: GEN, COUNT, AFMT, poison bits, owner entry and workspace of the run that starts there. -/
def State.allocWord (s : State) (node b : Nat) : Nat :=
  let p := s.bankPoison node b * 2 ^ 24
  match s.run? node b with
  | some r => p + r.gen % 256 + r.count % 256 * 2 ^ 8 + r.afmt % 256 * 2 ^ 16 + r.owner % 128 * 2 ^ 32 + r.ws / 2048 * 2 ^ 40
  | none => p

/-- The words of a Mordant class. -/
def classWords (c : MqClass) : List Nat := [c.ch + c.fth * 2 ^ 16 + c.ath * 2 ^ 32, c.rval]

/-- The words of entry `i` of a slot's Mordant queue: the record (R175), then the place of its insertion. -/
def State.recordUnit (s : State) (node sl i : Nat) : List Nat :=
  match (s.recsOf node sl).find? (fun p => p.2.unit == i) with
  | some p => (recordWords p.2).map (·.toNat) ++ [p.2.order % 2 ^ 64]
  | none => []

/-! ### Engines -/

/-- The width of what `flight` holds of a unit or element: bytes and marks, or a target, without the translation that a resumed gather makes anew. -/
def flightWidth : CmdKind → Nat
  | .xfer => 130 | .mcast => 520 | .gath => 61 | _ => 0

/-- What the receivers of a multicast have written, from the least, and where ARMV has acted; for another command the latter alone. -/
def Cmd.recvBits (c : Cmd) : List (Nat × Nat) :=
  let low := leastUnits c.recv
  if c.kind == .mcast then (40, low) :: c.recv.flatMap (fun p => [(3, p.2 - low), (1, (c.armed.contains p.1).toNat)]) else putMany 11 c.armed

/-- The stage lines of a gather; `turnOf` gives their order. -/
def Cmd.stageBits (c : Cmd) (turnOf : Nat → Nat) : List (Nat × Nat) :=
  (3, c.stage.length) :: c.stage.flatMap (fun l => [(6, turnOf l.turn), (32, l.first), (5, l.count), (1, l.free.toNat)] ++ putMany 64 l.words)

/-- What GLZ has read (R283). -/
def GlzWork.bits (w : GlzWork) : List (Nat × Nat) :=
  (16, w.parts.length) :: w.parts.flatMap (fun p =>
      [(40, p.1), (6, p.2.1), (320, xsCode p.2.2.acc), (1, p.2.2.nv.toNat), (1, p.2.2.bad.toNat), (4, p.2.2.st)]) ++
    (match w.old with
      | some o => [(1, 1), (128, o.1), (1, (o.2.contains 0).toNat), (1, (o.2.contains 1).toNat)]
      | none => [(1, 0)])

/-- A command as a number (R256): captured operands, progress, status. `order` is its place among the slot's commands. -/
def Cmd.toBits (c : Cmd) (order : Nat) (turnOf : Nat → Nat) : Nat :=
  putBits ([(3, kindCode c.kind), (5, c.ent), (64, c.ctl.toNat), (64, c.src.toNat), (64, c.dst.toNat), (40, c.limit), (40, c.pos), (40, c.done),
      (8, c.status), (16, c.flags), (32, c.issued), (3, order)] ++ putMany 64 c.args ++ putMany 17 c.tiles ++
    (16, c.flight.length) :: c.flight.flatMap (fun f => [(40, f.1), (flightWidth c.kind, f.2)]) ++ c.recvBits ++ c.stageBits turnOf ++
    c.work.bits)

/-- A stream unit as a number: a one, then descriptor, control word, position, strips fetched. -/
def Strm.toBits (x : Strm) : Nat :=
  putBits ([(1, 1), (1, x.ctl.isSome.toNat), (64, (x.ctl.map (·.toNat)).getD 0), (48, x.pos), (48, x.popped), (8, x.status), (1, x.ended.toNat)] ++
    putMany 64 x.desc ++ putMany 512 x.fetched ++ putMany 17 x.tiles)

/-- The commands of a launch on a vat, by slot. -/
def State.cmdsOf (s : State) (node lid : Nat) : List (Nat × Cmd) := s.cmds.filter (fun p => p.1 / 8 == node && p.2.lid == lid)

/-- The section of a command slot of a launch. -/
def State.cmdBits (s : State) (node lid i : Nat) : Nat :=
  let cs := s.cmdsOf node lid
  match cs.find? (fun p => p.1 % 8 == i) with
  | some (_, c) => c.toBits (rankIn (cs.map (·.2.order)) c.order) (rankIn (cs.flatMap (fun p => p.2.stage.map (·.turn))))
  | none => 0

/-- The section of a stream unit of a launch. -/
def State.strmBits (s : State) (node lid u : Nat) : Nat :=
  match s.strm? node u with
  | some x => if x.lid == lid then x.toBits else 0
  | none => 0

/-! ### The units of an image -/

/-- The full lines of the slot's scratchpad range, bit i for line 16 · SPBASE + i. -/
def State.fullBits (s : State) (node : Nat) (r : Slot) : Nat :=
  packFields 1 ((List.range (16 * spLen r.space)).map (fun i => (!s.hasEmpty (spAddr node (2048 * spBase r.space + 128 * i)) 128).toNat))

/-- The scratchpad address of line `i` of a slot's range. -/
def lineAddr (node space i : Nat) : Nat := spAddr node (2048 * spBase space + 128 * i)

/-- The cells of a memory among `n` bytes from address `a`. -/
def rangeOf (m : List Host.Cell) (a n : Nat) : List Host.Cell := m.filter (fun c => a ≤ c.1 && c.1 < a + n)

/-- Scratchpad bytes as a unit, with their poison marks. -/
def State.spUnit (s : State) (off a n : Nat) : ImageUnit :=
  ⟨off, n, loadN (scratchFill s.lost) (rangeOf s.mem a n) a n, marksIn s.poison (a / 8) (n / 8)⟩

/-- The bytes of a bank as a unit. -/
def State.bankUnit (s : State) (off node b : Nat) : ImageUnit :=
  let a := accAddr node b 0
  ⟨off, 2048, loadN zeroFill (rangeOf s.accMem a 2048) a 2048, []⟩

/-- Words as a unit, and a number as one. -/
def unitOf (off n : Nat) (ws : List Nat) : ImageUnit := ⟨off, n, packFields 64 ws, []⟩
def unitBits (off n v : Nat) : ImageUnit := ⟨off, n, v % 2 ^ (8 * n), []⟩

/-- The offset of a slot's first bank and of its first Mordant entry in its image. -/
def banksAt (space : Nat) : Nat := 0x20000 + 0x800 * spLen space
def recsAt (space : Nat) : Nat := banksAt space + 0x800 * spBanks space

/-- Every unit of Table 19-5 but the header and the scratchpad lines; the chain inbox in two pieces of a page. (DESIGN CHOICE, log 65) -/
def State.imageUnits (s : State) (node sl : Nat) (r : Slot) : List ImageUnit :=
  let inbox := packFields 32 ((r.inbox.map (·.elems)).getD [])
  (List.range 3).map (fun c => unitBits (0x100 + 0x100 * c) 256 (s.coreRecord node sl r c)) ++
  (List.range 3).map (fun c => unitOf (0x400 + 0x400 * c) 1024 ((List.range 32).flatMap (s.entryRecord node sl c))) ++
  (List.range 48).map (fun i => unitOf (0x1000 + 256 * i) 256 (s.chanRecord node sl r (i / 16) (i % 16))) ++
  (List.range 3).map (fun c => unitBits (0x4000 + 0x800 * c) 2048 (s.outstandingBits node r c)) ++
  (List.range 8).map (fun q => ⟨0x5800 + 512 * q, 512, s.queueUnit node sl q, []⟩) ++
  (List.range 8).map (fun i => unitBits (0x8000 + 0x1000 * i) 4096 (s.cmdBits node r.lid i)) ++
  (List.range 4).map (fun u => unitBits (0x10000 + 0x400 * u) 1024 (s.strmBits node r.lid u)) ++
  [unitOf 0x6800 1024 ((List.range 64).flatMap (s.tileRecord node sl)), unitBits 0x6C00 256 (s.countBits node r),
   unitOf 0x6D00 1024 ((List.range 128).map (fun b => if r.bank0 ≤ b && b < r.bank0 + spBanks r.space then s.allocWord node b else 0)),
   unitBits 0x7100 512 (packFields 64 ((List.range 16).flatMap (fun c => classWords (r.cls c)) ++ [r.hwm]) +
     2 ^ 2112 * (s.phaseBits node r.lid / 2 ^ phaseRoom)),
   s.spUnit 0x11000 (spAddr node (0x800 * sl)) 2048, ⟨0x11800, 2048, s.fullBits node r, []⟩,
   ⟨0x18000, 0x4000, fld inbox 0 0x20000, []⟩, ⟨0x1C000, 0x4000, fld inbox 0x20000 0x20000, []⟩] ++
  (List.range (spBanks r.space)).map (fun b => s.bankUnit (banksAt r.space + 2048 * b) node (r.bank0 + b)) ++
  (List.range (spMqe r.space)).map (fun i => unitOf (recsAt r.space + 128 * i) 128 (s.recordUnit node sl i))

/-- The unit of line `i` of the slot's scratchpad range. -/
def State.lineUnit (s : State) (node : Nat) (r : Slot) (i : Nat) : ImageUnit := s.spUnit (0x20000 + 128 * i) (lineAddr node r.space i) 128

/-! ### Dirty bits (R310) -/

/-- The offsets of the units of a slot that differ in two states; the pieces of the chain inbox are one unit. -/
def State.unitsChanged (s s' : State) (node sl : Nat) (r r' : Slot) : List Nat :=
  let offs := (((s.imageUnits node sl r).zip (s'.imageUnits node sl r')).filter (fun p => p.1 != p.2)).map (fun p => p.2.off)
  if offs.contains 0x18000 || offs.contains 0x1C000 then 0x18000 :: 0x1C000 :: offs else offs

/-- What a step from `s` to `s'` has changed sets the dirty bits of the imaged slots' units; the scratchpad lines have their D bits. (DEDUCED, log 63) -/
def State.noteUnits (s s' : State) : State :=
  if s.slots.all (fun p => !p.2.imaged) then s'
  else
    { s' with slots := s'.slots.map (fun p =>
        match mget? s.slots p.1 with
        | some r =>
          if r.imaged && p.2.imaged && r.lid == p.2.lid then
            (p.1, { p.2 with udirty := (s.unitsChanged s' (p.1 / 4) (p.1 % 4) r p.2).foldl setAdd p.2.udirty })
          else p
        | none => p) }

end Sys2Proof.Machine
end

