-- ==== Sys2Proof/Machine/Image.lean ====
section
/-!
DEFINITION. Stopping and imaging a rectangle (19 R308 to R312).
-/
namespace Sys2Proof.Machine
open Sys2Proof

/-! ### The stop (R308) -/

/-- The entries of a slot on a vat, with their keys. -/
def State.slotEntries (s : State) (node sl : Nat) : List (Nat × Entry) :=
  s.entries.filter (fun p => p.1 / 128 == node && p.2.v && p.2.slot == sl)

/-- A blocked instruction that has sent nothing is abandoned, with IP at it; one whose request has left, a PHASE that has arrived, and one that waits to
take its trap, stay; a walk stops at its step boundary (R308 steps 2 to 4), and a chain reservation of an ACHAIN that has not sent its partial is
dropped (R114). -/
def State.stopEntry (s : State) (k : Nat) : State :=
  let e := s.entry k
  let s := s.dropChain k
  if e.state != .blocked then s
  else
    match e.wait with
    | .reply _ | .phase _ | .chainSent | .trap _ _ _ => s
    | .walk => s.abandonWalk (nodeOf (k / 32))
    | _ => (s.dropEntryFault k).unblock k

/-- The trap that entry `k` waits to take is taken, if nothing holds it any more (R308 step 4). (DEDUCED, log 93) -/
def State.trapNow (s : State) (k : Nat) : State :=
  match (s.entry k).wait with
  | .trap c i n =>
    let t := s.takeTrap k c i n
    if s.trapTurn k (s.entry k) && (t.entry k).state != .blocked then t else s
  | _ => s

/-- The same for all of some entries, in the order of R303. -/
def State.trapsNow (s : State) (ks : List Nat) : State := ks.foldl (fun s _ => ks.foldl State.trapNow s) s

/-- The engine commands and stream units of a slot stop waiting for translations and replies (R246, R308 step 6); a fabric send goes on (R329). -/
def State.stopEngines (s : State) (node lid : Nat) : State :=
  let s := (List.range 8).foldl (fun s i => match s.cmd? node i with
    | some c => if c.lid == lid && c.kind != .fabric then
        (if c.wait.isFault then s.bumpCmdSeq node i else s).setCmd node i { c with wait := .none }
      else s
    | none => s) s
  (List.range 4).foldl (fun s u => match s.strm? node u with
    | some x => if x.lid == lid then (if x.wait.isFault then s.bumpCmdSeq node (8 + u) else s).setStrm node u { x with wait := .none } else s
    | none => s) s

/-- The handlers of a slot stop, and its engines (R308 steps 2, 3, 6). -/
def State.stopSlot (s : State) (node sl lid : Nat) : State :=
  (((s.slotEntries node sl).map Prod.fst).foldl State.stopEntry s).stopEngines node lid

/-- IMAGE_STOP (R308 steps 1, 2, 3, 6, 7). -/
def execImageStop (node lid : Nat) (s : State) : Host.Outcome State Fault Refusal :=
  .next (match s.slotOfLid node lid with
    | none => s
    | some (sl, _) =>
      (s.modSlot node sl (fun r => { r with stopped := true })).stopSlot node sl lid)

/-! ### When a vat may write its image (R308 step 5) -/

/-- A near request that waits at an empty target line. -/
def State.atEmptyLine (s : State) (ev : Event) : Option NearReq :=
  match ev with
  | .nearReadRequest r => if s.hasEmpty r.addr 8 then some r else none
  | .nearAtomicArrival r => if s.hasEmpty r.addr 8 then some r else none
  | _ => none

/-- The event is work of launch `lid` on a vat that must be over before the vat is imaged. -/
def State.outstanding (s : State) (node lid : Nat) (ev : Event) : Bool :=
  match ev with
  | .messageAccept m => m.lid == lid && nodeOf m.src == node
  | .refusalArrival m _ => nodeOf m.src == node && m.lid == lid
  | .nearReadRequest r | .nearAtomicArrival r => nodeOf r.src == node && r.lid == lid && !s.hasEmpty r.addr 8
  | .nearReadReply r _ _ => nodeOf r.src == node && r.lid == lid
  | .nearStoreArrival r => nodeOf r.src == node && r.lid == lid
  | .farMemoryAccess r | .farAtomicService r => nodeOf r.src == node && r.lid == lid
  | .farReplyArrival r _ _ => nodeOf r.src == node && r.lid == lid
  | .foldRequestArrival f => nodeOf f.src == node && f.lid == lid
  | .foldRefusalArrival f _ => nodeOf f.src == node && f.lid == lid
  | .phaseDeparture g => g.lid == lid
  | .chainPartialArrival c _ => c.lid == lid && (nodeOf c.src == node || c.dst == node)
  | .engineCompletion n i =>
    n == node && (if i < 8 then (match s.cmd? node i with | some c => c.lid == lid | none => false)
      else s.strmEnds.any (fun t => t.1 == node && t.2.2.lid == lid))
  | .bufferFreeAcknowledgement n i => n == node && (match s.cmd? node i with | some c => c.lid == lid | none => false)
  | .gatherElementLand n i e =>
    n == node && (match s.cmd? node i with | some c => c.lid == lid | none => false) && (s.landStep node i e).isSome
  | .dispatchDelivery _ _ => false
  | _ => false

/-- Every vat of a rectangle is stopped. -/
def State.allStopped (s : State) (lid : Nat) : Bool := s.slots.all (fun p => p.2.lid != lid || p.2.stopped)

/-- The image job under way becomes `j`. -/
def State.setImage (s : State) (j : ImageJob) : State :=
  { s with images := s.images.map (fun x => if x.lid == j.lid && x.active then j else x) }

/-- A command that must go on before the vat is imaged: a fabric send (R329), a completion that is due, a unit of GLZ that can be finished
(R283). -/
def State.cmdGoesOn (s : State) (node i : Nat) (c : Cmd) : Bool :=
  c.kind == .fabric || c.closing || (c.kind == .glz && glzBegun c && (s.glzStep node i).isSome)

/-- The vat's part of steps 1 to 7 is done: the stop stands on every vat, no instruction of the slot is in the array, no command must go on, and no
outstanding work is left but near requests that wait at empty lines, and what waits for room in a channel. (DESIGN CHOICE, log 57) -/
def State.imageReady (s : State) (node lid : Nat) : Bool :=
  match s.activeImage lid with
  | none => true
  | some j =>
    mget j.waits node .none == .none && s.allStopped lid &&
    (match mget? s.arrays node, s.slotOfLid node lid with
      | some a, some (sl, _) => (s.entry a.ent).slot != sl
      | _, _ => true) &&
    s.cmds.all (fun p => !(p.1 / 8 == node && p.2.lid == lid && s.cmdGoesOn node (p.1 % 8) p.2)) &&
    !s.agenda.any (s.outstanding node lid)

/-- Near requests of the slot that wait at empty lines are withdrawn, their instructions abandoned with IP at them and the words
that they had popped put back. -/
def State.withdraw (s : State) (node lid : Nat) : State :=
  let mine (ev : Event) : Option NearReq := match s.atEmptyLine ev with
    | some r => if nodeOf r.src == node && r.lid == lid then some r else none
    | none => none
  let rs := s.agenda.filterMap mine
  let s := { s with agenda := s.agenda.filter (fun ev => (mine ev).isNone) }
  rs.foldl (fun s r =>
    let s := s.freeOut r.src r.oid
    if (s.entry (32 * r.src + r.ent)).wait == .reply r.oid then (s.putBack (32 * r.src + r.ent)).unblock (32 * r.src + r.ent) else s) s

/-! ### Writing an image (R309, R310) -/

/-- The items that wait for a slot's channels enter where they fit (R161). -/
def State.drainSlot (s : State) (node : Nat) (r : Slot) : State :=
  (List.range 48).foldl (fun s i =>
    let ck := 4 * node + i / 16
    if bitAt (reservedChans r (i / 16)) (i % 16) then drainWaits ck (i % 16) (s.waiting ck (i % 16)).length s else s) s

/-- Before a vat writes its image: what waits is withdrawn or stopped, and the traps that can be taken are (R308). -/
def State.settle (s : State) (node sl : Nat) (r : Slot) : State :=
  let s := (s.withdraw node r.lid).stopSlot node sl r.lid
  (s.trapsNow ((s.slotEntries node sl).map Prod.fst)).drainSlot node r

/-- The header at the base is that of the vat's last image (R310). -/
def lastImage (r : Slot) (h : Nat) : Bool :=
  r.imaged && fld (hdrWord h 0) 0 32 == imageMagic && hdrWord h 1 == r.lid + r.lvn * 2 ^ 32 && bitAt (hdrWord h 8) 1 &&
    fld (hdrWord h 0) 32 16 == r.igen % 2 ^ 16

/-- The offsets of the units and lines that an image writes: the dirty ones, or all. -/
def State.imageOffsets (s : State) (node sl : Nat) (r : Slot) (incr : Bool) : List Nat :=
  ((s.imageUnits node sl r).map (·.off)).filter (fun o => !incr || r.udirty.contains o) ++
    ((List.range (16 * spLen r.space)).filter (fun i => !incr || s.dirty.contains (lineAddr node r.space i / 128))).map (fun i => 0x20000 + 128 * i)

/-- The dirty bit of the unit at an offset is cleared. -/
def State.cleanUnit (s : State) (node sl : Nat) (r : Slot) (off : Nat) : State :=
  if 0x20000 ≤ off && off < banksAt r.space then
    { s with dirty := setDelRange s.dirty (lineAddr node r.space ((off - 0x20000) / 128) / 128) 1 }
  else s.modSlot node sl (fun r => { r with udirty := r.udirty.filter (· != off) })

/-- Write a unit at the virtual address of a vat's image, in one access: whether there is memory. -/
def State.putImage (s : State) (lid node va : Nat) (u : ImageUnit) : Except EngStop (State × Bool) := do
  let a := (va + u.off) % 2 ^ 57
  let pa ← s.engFar node a u.size accWrite
  let s := s.engTouch node a accWrite
  if s.noMem pa then return (s, false)
  else
    let s := (s.farPoke pa u.size u.val).farWrote (.image lid) pa u.size
    return ({ s with farPoison := u.marks.foldl (fun ps j => setAdd ps (pa / 8 + j)) s.farPoison }, true)

/-- The unit at an offset of a slot's image, as it stands; the header at 0 and, with COMPLETE, at 1. -/
def State.unitAt (s : State) (node : Nat) (r : Slot) (endto : Nat) (units : List ImageUnit) (off : Nat) : ImageUnit :=
  if off < 2 then unitOf 0 256 (headerWords r.igen r.lid r.lvn endto r (r.igen != 1) (off == 1))
  else if 0x20000 ≤ off && off < banksAt r.space then s.lineUnit node r ((off - 0x20000) / 128)
  else (units.find? (fun u => u.off == off)).getD ⟨off, 0, 0, []⟩

/-- What a vat chooses to write (R310): an incremental image where it was asked for and the header at the base is that of the last one, else a full
one. -/
def State.chooseUnits (s : State) (node sl va : Nat) (r : Slot) (incr : Bool) : Except EngStop (State × List Nat) := do
  let (s, h) ← if incr then do
      let pa ← s.engFar node va 256 accRead
      pure (s.engTouch node va accRead, if s.noMem pa then 0 else s.farPeek pa 256)
    else pure (s, 0)
  let incr := incr && lastImage r h
  let s := s.modSlot node sl (fun r => { r with imaged := true, igen := if incr then r.igen + 1 else 1 })
  return (s, [0] ++ s.imageOffsets node sl r incr ++ [1])

/-- Write what is left of an image until nothing is, or an access waits or finds no memory: what is left then, and what stops it. -/
def State.writeUnits (node sl va endto : Nat) (units : List ImageUnit) : List Nat → State → State × List Nat × Option EngStop × Bool
  | [], s => (s, [], none, true)
  | off :: rest, s =>
    match s.slot? node sl with
    | none => (s, [], none, true)
    | some r =>
      match s.putImage r.lid node va (s.unitAt node r endto units off) with
      | .error e => (s, off :: rest, some e, true)
      | .ok (s, false) => (s, [], none, false)
      | .ok (s, true) => State.writeUnits node sl va endto units rest (s.cleanUnit node sl r off)

/-- A vat of an image job is done. -/
def State.imageDone (s : State) (j : ImageJob) (node n : Nat) : State :=
  let j := { j with done := setAdd j.done node, todo := mdel j.todo node }
  let s := s.setImage j
  if j.done.length == n then s.later (.imageVerdict j.lid) else s

/-- The vat's image is not whole. -/
def State.brokenImage (s : State) (node sl : Nat) : State := s.modSlot node sl (fun r => { r with imaged := false })

/-- What a stopped vat of an image job does next: it settles, chooses what to write, and writes it, waiting for translations. -/
def State.imageVat (s : State) (j : ImageJob) (rect : Rect) (node sl : Nat) (r : Slot) : State :=
  let n := shapeSize rect.shape
  let va := (j.base + r.lvn * imageStride r.space) % 2 ^ 57
  let goOn (s : State) (left : List Nat) : State := (s.setImage { j with todo := mset j.todo node left }).later (.vatImage node j.lid)
  let wait (s : State) (left : List Nat) (e : EngStop) : State := match s.engWaits node 13 e with
    | some (s, w) => (s.setImage { j with todo := mset j.todo node left, waits := mset j.waits node w }).later (.vatImage node j.lid)
    | none => goOn s left
  match mget? j.todo node with
  | none => goOn (s.settle node sl r) [2]
  | some left =>
    if j.failed then (if left == [2] then s else s.brokenImage node sl).imageDone j node n
    else if left == [2] then
      match s.chooseUnits node sl va r j.incr with
      | .error e => wait s left e
      | .ok (s, left) => goOn s left
    else
      match State.writeUnits node sl va rect.endto (s.imageUnits node sl r) left s with
      | (s, left, some e, _) => wait s left e
      | (s, _, none, true) => s.imageDone j node n
      | (s, _, none, false) => (s.brokenImage node sl).imageDone { j with failed := true } node n

/-! ### Verdicts (R311, R312) -/

/-- An armed or filling matching entry of the rectangle (R332). -/
def State.fabricHeld (s : State) (lid : Nat) : Bool := s.matching.any (fun p => p.2.state != 0 && p.2.lid == lid)

/-- The stop of a rectangle is lifted. -/
def State.liftStop (s : State) (lid : Nat) : State :=
  { s with slots := s.slots.map (fun p => if p.2.lid == lid then (p.1, { p.2 with stopped := false }) else p) }

/-- What an activation has seen, by its key and the image's GEN. -/
def Entry.seenAs (key gen : Nat) (e : Entry) : Seen :=
  { key := key, gen := gen, snap := e.snap.filter (fun g => g.phase == e.phase), relAt := e.relAt, readAt := e.readAt, wroteAt := e.wroteAt
    nearAt := e.nearAt, floor := e.floor }

/-- What the device keeps beside the images of a rectangle that is stopped; `keep`: that runs on. -/
def State.asideOf (s : State) (rect : Rect) (keep : Bool) : Aside :=
  let vats := s.slots.filter (fun p => p.2.lid == rect.lid)
  { lid := rect.lid, hostSeq := rect.hostSeq, endto := rect.endto, owed := !keep
    seen := vats.flatMap (fun p => ((s.slotEntries (p.1 / 4) (p.1 % 4)).filter (fun q => activated q.2)).map (fun q => Entry.seenAs
      (128 * p.2.lvn + q.1 / 32 % 4 * 32 + q.2.lhn) (p.2.igen % 2 ^ 16) q.2)) }

/-- The asides of a launch id and an ENDTO. -/
def Aside.isOf (a : Aside) (lid endto : Nat) : Bool := a.lid == lid && a.endto == endto

/-- The device keeps it, in place of what it kept of the rectangle's image before; an image whose END is still owed stays. -/
def State.setAside (s : State) (rect : Rect) (keep : Bool) : State :=
  { s with asides := s.asides.filter (fun x => x.owed || !x.isOf rect.lid rect.endto) ++ [s.asideOf rect keep] }

/-- The vats of the rectangle named by an IMAGE are told to stop; NOTFOUND where it is not resident or the issuer has no authority over
it. -/
def State.startImage (s : State) (j : ImageJob) : State :=
  match s.rects.find? (fun r => r.lid == j.lid) with
  | some r =>
    if j.auth.isNone || r.auth == j.auth then
      { s with
        images := s.images ++ [{ j with active := true }]
        agenda := s.agenda ++ (rectNodes r.shape r.ox r.oy).map (fun n => .imageStop n j.lid) ++
          (rectNodes r.shape r.ox r.oy).map (fun n => .vatImage n j.lid) }
    else s.deliver j.endto (verdictWord 0x23 0 0 j.lid)
  | none => s.deliver j.endto (verdictWord 0x23 0 0 j.lid)

/-- An IMAGE that waits for an earlier one of its rectangle starts when that one's verdict has been sent; so do the next ones, while they
end at once. The fuel bounds their number. -/
def State.nextImages (lid : Nat) : Nat → State → State
  | 0, s => s
  | n + 1, s =>
    if (s.activeImage lid).isSome then s
    else
      match s.images.find? (fun j => j.lid == lid) with
      | some j => State.nextImages lid n ({ s with images := s.images.erase j }.startImage j)
      | none => s

/-- The image job of a rectangle ends with a verdict; words held for the rectangle meanwhile are delivered if it is resident. -/
def State.endImage (s : State) (j : ImageJob) (code : Nat) : State :=
  let s := { s with
    images := s.images.filter (fun x => !(x.lid == j.lid && x.active))
    agenda := s.agenda.filter (fun ev => match ev with
      | .imageStop _ l => l != j.lid
      | .vatImage _ l => l != j.lid
      | _ => true) }
  State.nextImages j.lid s.images.length ((s.deliverHeld j.lid).deliver j.endto (verdictWord code 0 0 j.lid))

/-- VAT_IMAGE (R309 to R311): once every vat is stopped, a matching entry in use ends the image with FABRIC; else the vat writes its image. (DEDUCED, log 58) -/
def execVatImage (node lid : Nat) (s : State) : Host.Outcome State Fault Refusal :=
  .next (match s.activeImage lid, s.rects.find? (fun r => r.lid == lid), s.slotOfLid node lid with
    | some j, some rect, some (sl, r) =>
      if !s.imageReady node lid then s.later (.vatImage node lid)
      else if s.fabricHeld lid then (s.liftStop lid).endImage j 0x24
      else s.imageVat j rect node sl r
    | _, _, _ => s)

/-- The work of a command slot or stream unit of launch `lid` on a vat that is still to come. -/
def State.engineEvent (s : State) (lid : Nat) (ev : Event) : Bool :=
  let cmd (n i : Nat) : Bool := (s.cmd? n i).any (fun c => c.lid == lid)
  match ev with
  | .xferUnit n i | .gatherStage n i | .gatherElementIssue n i | .glzPoint n i | .bufferFreeAcknowledgement n i => cmd n i
  | .gatherElementLand n i _ | .mcastUnit n i _ => cmd n i
  | .streamFetch n u => (s.strm? n u).any (fun x => x.lid == lid)
  | _ => false

/-- The verdict and END words that wait for room in channel `ch` of core `c` of a slot. -/
def State.waitingVerdicts (s : State) (node : Nat) (r : Slot) (c ch : Nat) : List Held :=
  if bitAt (reservedChans r c) ch then
    ((s.waiting (4 * node + c) ch).filter isVerdict).flatMap (fun it => it.words.map (fun w => ⟨endtoWord r.lid r.lvn c ch, w⟩))
  else []

/-- The launch logic holds such words for a rectangle that leaves its vats, before those that it holds already (R172). (DEDUCED, log 57) -/
def State.holdVerdicts (s : State) (lid : Nat) : State :=
  { s with held := (s.slots.filter (fun p => p.2.lid == lid)).flatMap (fun p =>
      (List.range 48).flatMap (fun i => s.waitingVerdicts (p.1 / 4) p.2 (i / 16) (i % 16))) ++ s.held }

/-- A rectangle that has been imaged leaves its vats (R312): everything R172 frees, its engine work, outstanding slots and mirrors, without
END. -/
def State.evict (s : State) (rect : Rect) : State :=
  let lid := rect.lid
  let s := { s with agenda := s.agenda.filter (fun ev => !s.engineEvent lid ev) }.holdVerdicts lid
  let s := (rectNodes rect.shape rect.ox rect.oy).foldl (fun s n =>
    (List.range 3).foldl (fun s c =>
      s.modCore (4 * n + c) (fun k =>
        let gone := match k.owner, s.slotOfLid n lid with
          | some e, some (sl, _) => (s.entry (32 * (4 * n + c) + e)).slot == sl
          | _, _ => false
        { k with outs := k.outs.filter (fun o => o.lid != lid), owner := if gone then none else k.owner, mir := if gone then [] else k.mir })) s) s
  s.freeRect rect

/-- IMAGE_VERDICT (R312): a release event (R230); the rectangle runs on, or leaves its vats. -/
def execImageVerdict (lid : Nat) (s : State) : Host.Outcome State Fault Refusal :=
  .next (match s.activeImage lid, s.rects.find? (fun r => r.lid == lid) with
    | some j, some rect =>
      if j.failed then ((s.release .package (fun w => w.lid == lid)).liftStop lid).endImage j 0x22
      else
        let s := (s.release .package (fun w => w.lid == lid)).setAside rect j.keep
        if j.keep then (s.liftStop lid).endImage j 0x20 else (s.evict rect).endImage j 0x20
    | _, _ => s)

/-! ### IMAGE and RESUME as instructions (R311) -/

/-- The request of IMAGE or RESUME at W[r], checked but for the fields of word 0: its two words. (DEDUCED, log 64) -/
def imageRequest (r : Nat) (zero : Nat → Bool) : M (Nat × Nat) := do
  checkAll [⟨0, r, isW r⟩]
  let ea := (← readW r).toNat
  checkAll [⟨0, r, 0x2000 ≤ ea && ea + 16 ≤ 0x200000⟩]
  if ea % 16 != 0 then alignmentTrap ea
  else
    let st ← getS
    let v ← readSp (spAddr st.node ea) 16
    let w0 := fld v 0 64
    let w1 := fld v 64 64
    checkAll [⟨0, r, zero w0 && fld w1 4 10 == 0⟩, ⟨0, r, st.ownsChan (fld w1 0 4)⟩]
    return (w0, w1)

/-- The virtual address of an image base, or the address trap (R209). -/
def imageBase (w1 : Nat) : M Nat :=
  let b := w1 / 16 * 16
  if farWordOk b then return b % 2 ^ 57 else addressTrap w1

/-- IMAGE (R311). -/
def execImage (r : Nat) (s : State) : Host.Outcome State Fault Refusal :=
  runInstr xBASE 0x5F (do
    let (w0, w1) ← imageRequest r (fun w => fld w 34 30 == 0)
    let lid := fld w0 0 32
    let st ← getS
    checkAll [⟨0, r, isService st.node || lid != st.curLid⟩]
    let base ← imageBase w1
    modS (fun s =>
      let j : ImageJob := { lid := lid, keep := bitAt w0 33, incr := bitAt w0 32, base := base, endto := s.myEndto (fld w1 0 4), auth := s.authority }
      if (s.activeImage lid).isSome then { s with images := s.images ++ [j] } else s.startImage j)
    advance 4) s

end Sys2Proof.Machine
end

