-- ==== Sys2Proof/Machine/Resume.lean ====
section
/-!
DEFINITION. Resuming a rectangle from its image (19 R311, R313).
-/
namespace Sys2Proof.Machine
open Sys2Proof

/-! ### RESUME (R311) -/

/-- A shape word with a new origin. -/
def withOrigin (shape ox oy : Nat) : Nat := setFld shape 0 11 (oy * 64 + ox)

/-- Origin of a shape word. -/
def shapeX (shape : Nat) : Nat := fld shape 0 6
def shapeY (shape : Nat) : Nat := fld shape 6 5

/-- The header of the vat image of logical number `lvn` is sound and fits the new origin (Table 19-7). -/
def headerOk (h lvn shape ox oy : Nat) : Bool :=
  fld (hdrWord h 0) 0 32 == imageMagic && bitAt (hdrWord h 8) 1 && fld (hdrWord h 1) 32 11 == lvn &&
  fld (hdrWord h 2) 16 6 == fld shape 16 6 && shapeOk (hdrWord h 2) ox oy

/-- RESUME reads the header of vat image 0 and sends its reserves, or its verdict BADIMG or LIVE. (DEDUCED, log 60) -/
def State.startResume (s : State) (h ox oy base c : Nat) : State :=
  let lid := fld (hdrWord h 1) 0 32
  let end0 := s.myEndto c
  if !headerOk h 0 (hdrWord h 2) ox oy then s.deliver end0 (verdictWord 7 0 0 lid)
  else if s.lidTaken lid then s.deliver end0 (verdictWord 8 0 0 lid)
  else
    let shape := withOrigin (hdrWord h 2) ox oy
    let j : ResumeJob := { id := s.turn, lid := lid, shape := shape, base := base, stride := imageStride (hdrWord h 3), replyTo := end0,
                           endto := hdrWord h 6, auth := s.authority }
    { s with resumes := s.resumes ++ [j], agenda := s.agenda ++ (rectNodes shape ox oy).map (fun n => .resumeReserve n s.turn) }

/-- RESUME (R311). -/
def execResume (r : Nat) (s : State) : Host.Outcome State Fault Refusal :=
  runInstr xBASE 0x5F (do
    let (w0, w1) ← imageRequest r (fun w => fld w 45 19 == 0 && fld w 0 34 == 0)
    let base ← imageBase w1
    let pa ← translate base accRead
    let st ← getS
    if st.farPausedAll st.node pa 256 then blockOn .retry
    modS (fun s =>
      let h := if s.noMem pa || s.farBad pa 256 then 0 else s.farPeek pa 256
      s.startResume h (fld w0 34 6) (fld w0 40 5) base (fld w1 0 4))
    advance 4) s

/-! ### What the bytes of a vat image say -/

/-- `n` bytes at an offset, a word, and `n` words. -/
def VatBytes.get (x : VatBytes) (off n : Nat) : Nat := fld x.val (8 * off) (8 * n)
def VatBytes.word (x : VatBytes) (off : Nat) : Nat := x.get off 8
def VatBytes.words (x : VatBytes) (off n : Nat) : List Nat := (List.range n).map (fun i => x.word (off + 8 * i))

/-- The launch words of the header, and its GEN. -/
def VatBytes.shape (x : VatBytes) : Nat := x.word 16
def VatBytes.space (x : VatBytes) : Nat := x.word 24
def VatBytes.chans (x : VatBytes) : Nat := x.word 32
def VatBytes.rfcs (x : VatBytes) : Nat := x.word 40
def VatBytes.gen (x : VatBytes) : Nat := fld (x.word 0) 32 16

/-- The vat's first granted bank. -/
def VatBytes.bank0 (x : VatBytes) : Nat := fld (x.word 0x6C20) 32 7

/-- A handler entry of slot `sl` from its four words, the code of its workspace, and EH: bits that the spec reserves are zero, whatever the image holds
(R2, R4). -/
def entryOf (sl : Nat) (ws : List Nat) (wpc : Nat) (eh : Word) : Entry :=
  let w0 := ws.getD 0 0
  let e : Entry :=
    { v := true, ws := fld w0 54 10 * 2048, slot := sl, prio := fld w0 49 3, msk := bitAt w0 48
      state := match fld w0 46 2 with
        | 2 => .active
        | 3 => .blocked
        | _ => .idle
      lnch := bitAt w0 45, vregs := fld w0 39 5, lhn := fld w0 34 5, entry := fld w0 1 20 * 2, chans := fld (ws.getD 1 0) 0 16
      ip := fld (ws.getD 2 0) 1 20 * 2, st := BitVec.ofNat 64 (ws.getD 3 0) &&& stMask }
  if activated e then { e with wp := if wpc == 0 then e.usualWp eh else (wpc - 1) * 2048 } else e

/-- EH of the slot on core `c`. -/
def VatBytes.eh (x : VatBytes) (c : Nat) : Word := BitVec.ofNat 64 (x.word (0x100 + 0x100 * c)) &&& ehMask

/-- The trap that an entry waits to take, from its code, with its place in the order. -/
def trapOf (code : Nat) : Option (Nat × Nat × Bool × Nat) :=
  if fld code 0 6 == 0 then none else some (fld code 0 6, fld code 6 24, bitAt code 30, fld code 31 5)

/-- The trap code of entry `e` of core `c`. -/
def VatBytes.trap (x : VatBytes) (c e : Nat) : Option (Nat × Nat × Bool × Nat) :=
  trapOf (fld (x.get (0x140 + 0x100 * c) 192) (352 + 36 * e) 36)

/-- The handler entries by 32 · core + number. -/
def VatBytes.entries (x : VatBytes) (sl : Nat) : List (Nat × Entry) :=
  (List.range 96).filterMap (fun k =>
    let ws := x.words (0x400 + 32 * k) 4
    let c := k / 32
    if bitAt (ws.getD 0 0) 33 then
      some (k, { entryOf sl ws (fld (x.get (0x140 + 0x100 * c) 192) (11 * (k % 32)) 11) (x.eh c) with
        mirrors := mirrorList (mirrorWords 4 (x.word (0x1090 + 0x1000 * c + 256 * (k % 32 / 2) + 8 * (k % 2)))) })
    else none)

/-- The bits of the phase groups. -/
def VatBytes.phases (x : VatBytes) : Nat := x.get 0x6C40 192 + 2 ^ phaseRoom * x.get 0x7208 248

/-- The record of the arrival of entry `k` of the vat: the group's size and the PHASE word, with the record's number. -/
def VatBytes.arrival (x : VatBytes) (k : Nat) : Option (Nat × Nat × Nat) :=
  let i := fld x.phases (336 + 7 * k) 7
  if i == 0 then none
  else
    let w := fld x.phases (1008 + 14 * (i - 1)) 14
    some (i - 1, fld w 0 6, fld w 6 7 + fld w 13 1 * 2 ^ 15)

/-- The words of a mailbox. -/
def VatBytes.box (x : VatBytes) (c ch : Nat) : List BoxWord :=
  let o := 0x1000 + 0x1000 * c + 256 * ch
  let w := x.word (o + 128)
  (List.range (min (fld w 0 5) 16)).map (fun i => ⟨BitVec.ofNat 64 (x.word (o + 8 * i)), bitAt w (16 + i), bitAt (x.word (o + 136)) i⟩)

/-- The entries of a queue. -/
def VatBytes.queue (x : VatBytes) (sl q : Nat) : List QEntry :=
  let v := x.get (0x5800 + 512 * q) 512
  let w := if q < 6 then 64 else 512
  (List.range (min (v % 2 ^ 64) (queueDepth q))).map (fun i =>
    ⟨sl, fld v (64 + (64 + w) * i) 64, fld v (128 + (64 + w) * i) w⟩)

/-- A tile-table entry of slot `sl` from its words. -/
def tileOf (sl w0 w1 : Nat) : Tile :=
  { v := bitAt w0 63, slot := sl, rcm := bitAt w0 60, sem := fld w0 56 4, uses := fld w0 48 8, nl := fld w0 16 14, first := fld w0 0 14
    uleft := fld w1 36 8
    state := match fld w1 34 2 with
      | 0 => .empty
      | 1 => .filling
      | 2 => .ready
      | _ => .draining
    cons := fld w1 28 6, pend := fld w1 0 28, refill := bitAt w1 63 }

/-- The tile-table entries that the image holds. -/
def VatBytes.tiles (x : VatBytes) (sl : Nat) : List (Nat × Tile) :=
  (List.range 64).filterMap (fun e =>
    let w0 := x.word (0x6800 + 16 * e)
    let w1 := x.word (0x6808 + 16 * e)
    if w0 == 0 && w1 == 0 then none else some (e, tileOf sl w0 w1))

/-- The chain inbox. -/
def VatBytes.inbox (x : VatBytes) : Option Partial :=
  let w := x.word 0x6C20
  let n := fld w 16 8
  let bits := x.get 0x6C28 16
  if bitAt w 8 then
    some { count := n, afmt := fld w 24 8, elems := (List.range (512 * n)).map (fun i => x.get (0x18000 + 4 * i) 4)
           poison := (List.range (8 * n)).map (fun i => bitAt bits i) }
  else none

/-- The SENDRs to be answered, by reply tag. -/
def VatBytes.tags (x : VatBytes) : Map Nat :=
  (List.range 48).foldl (fun m i => (List.range 12).foldl (fun m j =>
    let w := x.word (0x10A0 + 256 * i + 8 * j)
    if fld w 0 16 == 0 then m else mset m (16 * (4 * (fld w 0 16 - 1) + i / 16) + i % 16) (w / 2 ^ 16)) m) []

/-- The Mordant classes that have settings. -/
def VatBytes.classes (x : VatBytes) : Map MqClass :=
  (List.range 16).filterMap (fun c =>
    let w := x.word (0x7100 + 16 * c)
    let k : MqClass := { ch := fld w 0 16, fth := fld w 16 16, ath := fld w 32 16, rval := fld (x.word (0x7108 + 16 * c)) 0 16 }
    if k == {} then none else some (c, k))

/-- A Mordant record of slot `sl` from its words (R175), and the place of its insertion. -/
def recordOf (sl unit : Nat) (ws : List Nat) : MqRec :=
  let w := ws.getD 1 0
  { slot := sl, header := BitVec.ofNat 64 (ws.getD 0 0), payload := packFields 64 ((ws.drop 2).take 8), tag := fld w 19 5, folds := fld w 48 16
    age := fld w 32 16, reason := fld w 29 3, state := if fld w 27 2 == 2 then .dispatching else .waiting, ovf := bitAt w 18, sat := bitAt w 17
    of := bitAt w 16, nv := bitAt w 15, order := ws.getD 10 0, unit := unit }

/-- The Mordant records. -/
def VatBytes.records (x : VatBytes) (sl : Nat) : List MqRec :=
  (List.range (spMqe x.space)).filterMap (fun i =>
    let ws := x.words (recsAt x.space + 128 * i) 11
    if fld (ws.getD 1 0) 27 2 == 0 then none else some (recordOf sl i ws))

/-! The engines. -/

/-- A kind of command from its code. -/
def kindOf (n : Nat) : Option CmdKind :=
  match n with
  | 1 => some .xfer | 2 => some .gath | 3 => some .mcast | 4 => some .glz | _ => none

/-- What `flight` holds, from a number: `n` pairs of a place and `w` bits; and what is above them. -/
def takePairs (w : Nat) : Nat → Nat → List (Nat × Nat) × Nat
  | 0, x => ([], x)
  | n + 1, x =>
    let (ps, r) := takePairs w n (x / 2 ^ (40 + w))
    ((x % 2 ^ 40, x / 2 ^ 40 % 2 ^ w) :: ps, r)

/-- The stage lines of a gather, from a number; and what is above them. -/
def takeStages : Nat → Nat → List StageLine × Nat
  | 0, x => ([], x)
  | n + 1, x =>
    let (h, r) := takeBits [6, 32, 5, 1] x
    let (ws, r) := takeMany 64 r
    let (ls, r) := takeStages n r
    (⟨h.getD 0 0, h.getD 1 0, h.getD 2 0, h.getD 3 0 == 1, ws⟩ :: ls, r)

/-- The points that GLZ has summed in part, from a number; and what is above them. -/
def takeParts : Nat → Nat → Map (Nat × GlzSum) × Nat
  | 0, x => ([], x)
  | n + 1, x =>
    let (h, r) := takeBits [40, 6, 320, 1, 1, 4] x
    let (ps, r) := takeParts n r
    ((h.getD 0 0, h.getD 1 0, ⟨xsOfCode (h.getD 2 0), h.getD 3 0 == 1, h.getD 4 0 == 1, h.getD 5 0⟩) :: ps, r)

/-- What GLZ has read, from a number. -/
def workOf (x : Nat) : GlzWork :=
  let (ps, r) := takeParts (x % 2 ^ 16) (x / 2 ^ 16)
  let (h, _) := takeBits [1, 128, 1, 1] r
  { parts := ps, old := if h.getD 0 0 == 1 then some (h.getD 1 0, (List.range 2).filter (fun i => h.getD (2 + i) 0 == 1)) else none }

/-- The receivers of a multicast from its word and a number: each with the units it has written; those where ARMV has acted; and what is above. -/
def takeRecv (dst x : Nat) : List (Nat × Nat) × List Nat × Nat :=
  let ns := mcastNodes dst
  let low := x % 2 ^ 40
  let (fs, r) := takeBits (List.replicate ns.length 4) (x / 2 ^ 40)
  let ps := ns.zip fs
  (ps.map (fun p => (p.1, low + p.2 % 8)), (ps.filter (fun p => 8 ≤ p.2)).map Prod.fst, r)

/-- A command of launch `lid` from its number. -/
def cmdOf (lid x : Nat) : Option Cmd :=
  let (h, r) := takeBits [3, 5, 64, 64, 64, 40, 40, 40, 8, 16, 32, 3] x
  let g (i : Nat) : Nat := h.getD i 0
  (kindOf (g 0)).map (fun kind =>
    let (args, r) := takeMany 64 r
    let (tiles, r) := takeMany 17 r
    let (flight, r) := takePairs (flightWidth kind) (r % 2 ^ 16) (r / 2 ^ 16)
    let (recv, armed, r) := if kind == .mcast then takeRecv (g 4) r else
      let (a, r) := takeMany 11 r
      ([], a, r)
    let (stage, r) := takeStages (r % 8) (r / 8)
    { kind := kind, lid := lid, ent := g 1, ctl := BitVec.ofNat 64 (g 2), src := BitVec.ofNat 64 (g 3), dst := BitVec.ofNat 64 (g 4)
      args := args, limit := g 5, pos := g 6, done := g 7, status := g 8, flags := g 9, issued := g 10, order := g 11, tiles := tiles
      armed := armed, flight := flight, recv := recv, stage := stage, work := workOf r })

/-- The commands in progress, by slot. -/
def VatBytes.cmds (x : VatBytes) (lid : Nat) : List (Nat × Cmd) :=
  (List.range 8).filterMap (fun i => (cmdOf lid (x.get (0x8000 + 0x1000 * i) 4096)).map (fun c => (i, c)))

/-- A stream unit of slot `sl` of launch `lid` from its number. -/
def strmOf (lid sl x : Nat) : Option Strm :=
  let (h, r) := takeBits [1, 1, 64, 48, 48, 8, 1] x
  let g (i : Nat) : Nat := h.getD i 0
  if g 0 == 0 then none
  else
    let (desc, r) := takeMany 64 r
    let (fetched, r) := takeMany 512 r
    some { lid := lid, slot := sl, desc := desc, ctl := if g 1 == 1 then some (BitVec.ofNat 64 (g 2)) else none, pos := g 3, fetched := fetched
           popped := g 4, status := g 5, ended := g 6 == 1, tiles := (takeMany 17 r).1 }

/-- The stream units that are on. -/
def VatBytes.streams (x : VatBytes) (lid sl : Nat) : List (Nat × Strm) :=
  (List.range 4).filterMap (fun u => (strmOf lid sl (x.get (0x10000 + 0x400 * u) 1024)).map (fun c => (u, c)))

/-- Items of a core that wait for room, from a number: channel, whether their pop is an acquire, whether they hold an outstanding slot, whether that is a
message's, its entry; the count of words, and the words. -/
def takeItems : Nat → Nat → List (List Nat)
  | 0, _ => []
  | n + 1, x =>
    let (h, r) := takeBits [4, 1, 1, 1, 5, 4] x
    let (ws, r) := takeBits (List.replicate (h.getD 5 0) 64) r
    (h ++ ws) :: takeItems n r

/-- The items of core `c`. -/
def VatBytes.items (x : VatBytes) (c : Nat) : List (List Nat) :=
  let v := x.get (0x4000 + 0x800 * c) 2048
  takeItems (v % 2 ^ 8) (v / 2 ^ 8)

/-! ### Reserving for a resume (R311, Table 19-7) -/

/-- The launch request that a vat image stands for: the shape at the new origin, SPACE, CHANS, RFCS, and one record for each handler. -/
def resumeReq (shape : Nat) (x : VatBytes) : List Nat :=
  let es := x.entries 0
  [setFld shape 25 6 es.length, x.space, x.chans, x.rfcs, 0] ++
    es.flatMap (fun p => [p.1 / 32 * 2 ^ 52 + p.2.ws / 2048 * 2 ^ 54, p.2.chans])

/-- The queues of a vat have room for the image's entries. -/
def State.queuesFit (s : State) (node : Nat) (x : VatBytes) : Bool :=
  (List.range 8).all (fun q => (s.queue node q).length + s.queueHeld node q + (x.queue 0 q).length ≤ queueDepth q)

/-- The vat has command slots for the image's commands, and the stream units it holds are off. -/
def State.enginesFit (s : State) (node lid : Nat) (x : VatBytes) : Bool :=
  (x.cmds lid).length ≤ ((List.range 8).filter (fun i => (s.cmd? node i).isNone)).length &&
  (x.streams lid 0).all (fun p => (s.strm? node p.1).isNone)

/-- The bank numbers of the image are the vat's, and free. -/
def State.banksFit (s : State) (node : Nat) (x : VatBytes) : Bool :=
  let n := spBanks x.space
  n == 0 || (x.bank0 + n ≤ 128 && (s.holders node).all (fun h =>
    let k := spBanks (h.1.getD 1 0)
    k == 0 || h.2 + k ≤ x.bank0 || x.bank0 + n ≤ h.2))

/-- The code and core of a vat's answer to a resume. (DEDUCED, log 62) -/
def State.resumeCode (s : State) (node lid : Nat) (x : VatBytes) (shape : Nat) : Nat × Nat :=
  let a := s.reserveCode node (resumeReq shape x)
  if a.1 != 0 && a.1 != 6 && a.1 != 9 then a
  else if 1024 < spBase x.space + spLen x.space then (2, 0)
  else if !s.banksFit node x then (5, 0)
  else if a.1 != 0 then a
  else if !s.queuesFit node x then (0x0A, 0)
  else if !s.enginesFit node lid x then (0x0B, 0)
  else (0, 0)

def State.resumeJob (s : State) (id : Nat) : Option ResumeJob := s.resumes.find? (fun j => j.id == id)
def State.setResume (s : State) (j : ResumeJob) : State := { s with resumes := s.resumes.map (fun x => if x.id == j.id then j else x) }

/-- The logical number of a vat of a resume job, and the virtual address of its image. -/
def ResumeJob.lvn (j : ResumeJob) (node : Nat) : Nat := lvnOf j.shape (shapeX j.shape) (shapeY j.shape) node
def ResumeJob.vaOf (j : ResumeJob) (node : Nat) : Nat := (j.base + j.lvn node * j.stride) % 2 ^ 57

/-- A vat reads the pages of its image that it has not read, until one cannot be: the pages it has then, and what stops it. The counter bounds
them. -/
def State.readPages (node va : Nat) : Nat → State → List (Option (Nat × List Nat)) → State × List (Option (Nat × List Nat)) × Option EngStop
  | 0, s, got => (s, got, none)
  | n + 1, s, got =>
    let a := (va + 0x4000 * got.length) % 2 ^ 57
    match s.engFar node a 0x4000 accRead with
    | .error e => (s, got, some e)
    | .ok pa =>
      let page := if s.noMem pa then none else some (s.farPeek pa 0x4000, marksIn s.farPoison (pa / 8) 0x800)
      State.readPages node va n (s.engTouch node a accRead) (got ++ [page])

/-- The bytes of pages read; none where one has no memory. -/
def joinPages (ps : List (Option (Nat × List Nat))) : Option VatBytes :=
  if ps.any Option.isNone then none
  else
    let qs := ps.filterMap id
    some ⟨packFields 0x20000 (qs.map Prod.fst), ((List.range qs.length).zip qs).flatMap (fun p => p.2.2.map (fun w => 0x800 * p.1 + w))⟩

/-- The image that a vat has read, if its header fits. -/
def ResumeJob.imageOf (j : ResumeJob) (node : Nat) : Option VatBytes :=
  (joinPages (mget j.got node [])).filter (fun x => headerOk (x.get 0 256) (j.lvn node) j.shape (shapeX j.shape) (shapeY j.shape))

/-- A vat's answer to a resume; after the last one the job goes on. -/
def State.answerResume (s : State) (j : ResumeJob) (node : Nat) (a : Nat × Nat) : State :=
  let j := { j with answers := j.answers ++ [(j.lvn node, a.1, a.2)], waits := mdel j.waits node }
  let s := s.setResume j
  if j.answers.length == shapeSize j.shape then s.later (.resumeRestore j.id) else s

/-- The vat may act on its reserve: it waits for no translation or reply. -/
def State.resumeReady (s : State) (node id : Nat) : Bool :=
  match s.resumeJob id with
  | some j => mget j.waits node .none == .none
  | none => true

/-- The vat has read its image: it tests what it needs, holds it, and answers. -/
def State.reserveResume (s : State) (j : ResumeJob) (node : Nat) : State :=
  match j.imageOf node with
  | none => s.answerResume j node (7, 0)
  | some x =>
    let a := s.resumeCode node j.lid x j.shape
    let s := if a.1 == 0 then s.modVat node (fun v => { v with resv := v.resv ++ [⟨j.lid, resumeReq j.shape x, x.bank0⟩] }) else s
    s.answerResume j node a

/-- RESUME_RESERVE (R311): the vat reads the image at its place, page by page as they translate, then answers. -/
def execResumeReserve (node job : Nat) (s : State) : Host.Outcome State Fault Refusal :=
  .next (match s.resumeJob job with
    | none => s
    | some j =>
      if !s.resumeReady node job then s.later (.resumeReserve node job)
      else if j.fails.contains node then s.answerResume j node (7, 0)
      else
        let had := mget j.got node []
        match State.readPages node (j.vaOf node) (j.stride / 0x4000 - had.length) s had with
        | (s, got, none) => s.reserveResume { j with got := mset j.got node got } node
        | (s, got, some e) =>
          let j := { j with got := mset j.got node got }
          match s.engWaits node 14 e with
          | some (s, w) => (s.setResume { j with waits := mset j.waits node w }).later (.resumeReserve node job)
          | none => (s.setResume j).later (.resumeReserve node job))

/-! ### The new place (R313) -/

/-- The node that a vat of the rectangle at the origin of shape `old` is at the origin of `new`; any other node is itself. -/
def moveNode (old new n : Nat) : Nat :=
  if inRect old (shapeX old) (shapeY old) n then vatAt (vatX n - shapeX old + shapeX new) (vatY n - shapeY old + shapeY new) else n

/-- A near address word that names a vat of the rectangle, at its new place. (DEDUCED, log 98) -/
def moveWord (old new w : Nat) : Nat :=
  if addrFar w then w
  else
    let n := moveNode old new (vatAt (fld w 26 6) (fld w 21 5))
    setFld (setFld w 26 6 (vatX n)) 21 5 (vatY n)

/-- A multicast word at the new place. -/
def moveCast (old new w : Nat) : Nat :=
  let n := moveNode old new (vatAt (fld w 21 6) (fld w 27 5))
  setFld (setFld w 21 6 (vatX n)) 27 5 (vatY n)

/-- The target of an element in flight at the new place: a far one is translated again. -/
def moveTarget (old new t : Nat) : Nat :=
  if bitAt t 58 || bitAt t 59 then t
  else if bitAt t 57 then
    let a := t % 2 ^ 57
    2 ^ 57 + 0x200000 * moveNode old new (a / 0x200000) + a % 0x200000
  else t % 2 ^ 57 + 2 ^ 60

/-- A tile-table entry's key at the new place. -/
def moveTile (old new k : Nat) : Nat := 64 * moveNode old new (k / 64) + k % 64

/-- The operands of a command at the new place. -/
def moveCmd (old new : Nat) (c : Cmd) : Cmd :=
  let near (w : Word) : Word := BitVec.ofNat 64 (moveWord old new w.toNat)
  let c := { c with tiles := c.tiles.map (moveTile old new), armed := c.armed.map (moveNode old new) }
  match c.kind with
  | .xfer | .fabric => { c with src := near c.src, dst := near c.dst }
  | .gath => { c with src := near c.src, args := c.args.modifyHead (moveWord old new)
                      flight := c.flight.map (fun f => (f.1, moveTarget old new f.2)) }
  | .mcast => { c with src := near c.src, dst := BitVec.ofNat 64 (moveCast old new c.dst.toNat)
                       recv := c.recv.map (fun p => (moveNode old new p.1, p.2)) }
  | .glz => { c with args := (c.args.modifyHead (moveWord old new)).modify 4 (moveWord old new) }

/-- The numbers that the handler entries of core `c` get: the lowest free ones, in order (pairs of old and new number). -/
def State.entryPlan (s : State) (ck : Nat) (es : List Nat) (c : Nat) : List (Nat × Nat) :=
  let free := (List.range 32).filter (fun e => !(s.entry (32 * ck + e)).v)
  ((es.filter (fun k => k / 32 == c)).map (· % 32)).zip free

/-- The new number of an entry. -/
def planned (plan : List (Nat × Nat)) (e : Nat) : Nat := ((plan.find? (fun p => p.1 == e)).map Prod.snd).getD e

/-! ### Restoring (R313) -/

/-- The scratchpad side of a restored vat: the window with its new identity words, the range with its poison and F bits, the banks with theirs. -/
def State.restoreBytes (s : State) (node sl : Nat) (r : Slot) (x : VatBytes) : State :=
  let window := setFld (setFld (setFld (x.get 0x11000 2048) 0 64 (vatX node)) 64 64 (vatY node)) 320 64 (r.oy * 64 + r.ox)
  let full := x.get 0x11800 2048
  let mark (s : State) (off a n : Nat) : State :=
    (marksIn x.bad (off / 8) (n / 8)).foldl (fun s j => s.mark (a + 8 * j) 8) s
  let win := spAddr node (0x800 * sl)
  let s := mark (s.poke win 2048 window) 0x11000 win 2048
  let s := (List.range (16 * spLen r.space)).foldl (fun s i =>
    let a := lineAddr node r.space i
    let s := mark (s.poke a 128 (x.get (0x20000 + 128 * i) 128)) (0x20000 + 128 * i) a 128
    if bitAt full i then s.fillLines a 128 else s.emptyLines a 128) s
  let s := (List.range (spBanks r.space)).foldl (fun s b =>
    let s := { s with accMem := storeN zeroFill s.accMem (accAddr node (r.bank0 + b) 0) 2048 (x.get (banksAt r.space + 2048 * b) 2048) }
    (List.range 8).foldl (fun s i => s.setAccBad node (r.bank0 + b) i (bitAt (x.word (0x6D00 + 8 * (r.bank0 + b))) (24 + i))) s) s
  { s with dirty := setDelRange s.dirty (lineAddr node r.space 0 / 128) (16 * spLen r.space) }

/-- An outstanding message of core `ck` is sent again from its refusal's words (R313 step 3): the new message or fold is on its way; none where its
destination names no core any more. (DEDUCED, log 59) -/
def State.resent (s : State) (node ck chan oid : Nat) (r : Slot) (ws : List Nat) : Option State :=
  let w0 := ws.getD 0 0
  let w1 := ws.getD 1 0
  let kind := fld w0 12 2
  if kind == 3 then
    (targetCore node w1).map (fun dst => s.later (.foldRequestArrival ⟨ck, dst, r.lid, BitVec.ofNat 64 w1, BitVec.ofNat 64 (ws.getD 2 0),
      packFields 64 ((ws.drop 3).take 8), fld w0 20 5, chan, oid⟩))
  else
    let body := if kind == 1 then (ws.drop 2).modifyHead (fun t => replyTag ck (fld t 20 4)) else ws.drop 2
    (destCore node (isService node) w1).map (fun dst =>
      let (to', owed, t) := s.sendTo kind r.lid dst (fld w1 20 4)
      t.later (.messageAccept ⟨ck, to', fld w1 20 4, BitVec.ofNat 64 w1, body.map (BitVec.ofNat 64), kind, chan, r.lid, oid, owed⟩))

/-- An item of core `ck`: an outstanding message is sent again; anything else waits for its channel once more (R161). -/
def State.restoreItem (s : State) (node ck : Nat) (r : Slot) (plan : List (Nat × Nat)) (it : List Nat) : State :=
  let ws := it.drop 6
  let chan := it.getD 0 0
  let held := it.getD 2 0 == 1
  let msg := held && it.getD 3 0 == 1
  let oid := s.oids
  let o : Out := ⟨oid, r.lid, planned plan (it.getD 4 0), msg, msg && fld (ws.getD 0 0) 12 2 == 3⟩
  let s := if held then { s with oids := oid + 1 }.modCore ck (fun c => { c with outs := c.outs ++ [o] }) else s
  match if msg then s.resent node ck chan oid r ws else none with
  | some t => t
  | none =>
    let ws := if msg then ws.modifyHead (fun w => setFld w 0 4 2) else ws
    s.post ck chan { words := ws.map (BitVec.ofNat 64), acq := it.getD 1 0 == 1, oid := if held then some (ck, oid) else none }

/-- What the device keeps of the activation that an image's entry stands for, if that is the rectangle's own image (R231). -/
def State.seenOf (s : State) (lid endto gen key : Nat) : Option Seen :=
  ((s.asides.filter (fun a => a.isOf lid endto)).flatMap (·.seen)).find? (fun k => k.key == key && k.gen == gen)

/-- An activation of an image with what it had seen; where nothing is kept of it, it finds no earlier value of before now. -/
def Entry.recall (e : Entry) (s : State) (k : Option Seen) : Entry :=
  match k with
  | some k => { e with snap := k.snap.map (fun g => { g with phase := e.phase }), relAt := k.relAt, readAt := k.readAt, wroteAt := k.wroteAt, nearAt := k.nearAt, floor := k.floor }
  | none => { e with relAt := s.rels, floor := s.turn + 1024 }

/-- The handler side of a restored vat on core `c`: entries, mailboxes, EH, mirrors and `last`. `alone` says that no other slot is resident. (DESIGN
CHOICE, log 61) -/
def State.restoreCore (s : State) (node sl : Nat) (r : Slot) (x : VatBytes) (alone : Bool) (plan : List (Nat × Nat)) (c : Nat) : State :=
  let ck := 4 * node + c
  let s := ((x.entries sl).filter (fun p => p.1 / 32 == c)).foldl (fun s p =>
    let e := p.2
    s.modEntry (32 * ck + planned plan (p.1 % 32)) (fun old =>
      Entry.recall { e with
        seq := old.seq, phase := old.phase + 1, since := s.turn + ((x.trap c (p.1 % 32)).map (·.2.2.2)).getD 0
        wait := if !activated e then .none
          else match x.trap c (p.1 % 32), x.arrival p.1 with
            | some (cause, info, next, _), _ => .trap cause info next
            | none, some a => if e.state == .blocked then .phase (groupAt r.lid node a.2.1) else .none
            | none, none => if e.state == .blocked then .retry else .none } s (s.seenOf r.lid (x.word 48) x.gen (128 * r.lvn + 32 * c + e.lhn)))) s
  let s := (List.range 16).foldl (fun s ch =>
    if bitAt (reservedChans r c) ch && !(x.box c ch).isEmpty then s.setBox ck ch (x.box c ch) else s) s
  let rec' := x.words (0x100 + 0x100 * c) 8
  let owner := minusOne (rec'.getD 3 0)
  s.modCore ck (fun k => { k with
    eh := mset k.eh sl (x.eh c)
    last := if alone then planned plan (rec'.getD 2 0) else k.last
    owner := if owner.isSome then owner.map (planned plan) else k.owner
    mir := if owner.isSome then (List.range 4).filterMap (fun i => (minusOne (rec'.getD (4 + i) 0)).map (fun w => (i, w))) else k.mir })

/-- The outstanding messages of a restored vat, and what else waits for room. -/
def State.restoreItems (s : State) (node : Nat) (r : Slot) (x : VatBytes) (plans : List (List (Nat × Nat))) : State :=
  (List.range 3).foldl (fun s c => (x.items c).foldl (fun s it => s.restoreItem node (4 * node + c) r (plans.getD c []) it) s) s

/-- The phase groups of a restored vat: their generations and its arrivals, in order (R234). -/
def State.restorePhases (s : State) (node : Nat) (r : Slot) (x : VatBytes) (key : Nat → Nat) : State :=
  let as := ((x.entries 0).filter (fun p => p.2.state == .blocked)).filterMap (fun p => (x.arrival p.1).map (fun a => (p.1, a)))
  (List.range 42).foldl (fun s i =>
    let n := fld x.phases (8 * i) 8
    let mine := as.filter (fun p => p.2.2.1 == groupCode i)
    let arr := (List.range 96).flatMap (fun j => (mine.filter (fun p => p.2.1 == j)).map (fun p => (node, p.2.2.2, key p.1)))
    if n == 0 && arr.isEmpty then s
    else
      let p := s.phaseRec (groupAt r.lid node (groupCode i))
      s.setPhaseRec { p with gen := n, arr := p.arr ++ arr }) s

/-- The events of a restored command. -/
def cmdEvents (node i : Nat) (c : Cmd) : List Event :=
  match c.kind with
  | .xfer | .fabric => [.xferUnit node i]
  | .gath => [.gatherStage node i, .gatherElementIssue node i] ++ c.flight.map (fun f => .gatherElementLand node i f.1)
  | .mcast => c.recv.map (fun p => .mcastUnit node i p.1)
  | .glz => [.glzPoint node i]

/-- The commands and streams of a restored vat, in their order of issue. -/
def State.restoreEngines (s : State) (node sl : Nat) (r : Slot) (x : VatBytes) (key : Nat → Nat) : State :=
  let cs := x.cmds r.lid
  let us := x.streams r.lid sl
  let orders := cs.map (fun p => p.2.order)
  let turns := cs.flatMap (fun p => p.2.stage.map (·.turn))
  let s := cs.foldl (fun s p =>
    let i := if (s.cmd? node p.1).isNone then p.1 else (s.freeCmd node).getD 0
    let c := moveCmd x.shape r.shape p.2
    let c := { c with ent := key (p.2.ent % 32) % 32, relAt := s.rels, readAt := s.turn + 1024, order := s.turn + rankIn orders c.order
                      stage := c.stage.map (fun l => { l with turn := s.turn + rankIn turns l.turn }) }
    { s.setCmd node i c with agenda := s.agenda ++ cmdEvents node i c }) s
  us.foldl (fun s p =>
    (s.setStrm node p.1 { p.2 with relAt := s.rels, readAt := s.turn + 1024, tiles := p.2.tiles.map (moveTile x.shape r.shape), desc := p.2.desc.modifyHead (moveWord x.shape r.shape) }).later
      (.streamFetch node p.1)) s

/-- Everything else of a restored vat: queues, semaphores, tile table, runs, engines, Mordant records, phase groups. (DESIGN CHOICE, log 61) -/
def State.restoreVat (s : State) (node sl : Nat) (r : Slot) (x : VatBytes) (key : Nat → Nat) : State :=
  let s := (List.range 8).foldl (fun s q =>
    let l := x.queue sl q
    if l.isEmpty then s else s.setQueue node q (s.queue node q ++ l)) s
  let s := (List.range 16).foldl (fun s i =>
    if bitAt (fld r.rfcs 16 16) i then s.setSem node i (fld (x.get 0x6C00 32) (16 * i) 16) else s) s
  let s := (x.tiles sl).foldl (fun s p => if (s.tile node p.1).v then s else s.setTile node p.1 p.2) s
  let s := (List.range (spBanks r.space)).foldl (fun s b =>
    let w := x.word (0x6D00 + 8 * (r.bank0 + b))
    if fld w 8 8 == 0 then s
    else s.setRun node (r.bank0 + b) { count := fld w 8 8, gen := fld w 0 8, afmt := fld w 16 8, owner := key (fld w 32 7), ws := fld w 40 10 * 2048 }) s
  let s := s.restoreEngines node sl r x key
  let recs := x.records sl
  let s := recs.foldl (fun s m =>
    { s with mqs := mset s.mqs (512 * node + s.freeRec node) { m with order := s.turn + rankIn (recs.map (·.order)) m.order } }) s
  let s := if recs.isEmpty then s else s.queueEvents node sl
  s.restorePhases node r x key

/-- The slot that a vat image becomes at its new place. -/
def resumedSlot (j : ResumeJob) (node : Nat) (x : VatBytes) : Slot :=
  let shape := withOrigin x.shape (shapeX j.shape) (shapeY j.shape)
  { lid := j.lid, lvn := j.lvn node, ox := shapeX shape, oy := shapeY shape, shape := shape, space := x.space, chans := x.chans, rfcs := x.rfcs
    bank0 := x.bank0, gen := x.word 0x6C20 % 256, classes := x.classes, hwm := x.word 0x7200, inbox := x.inbox, imaged := true, igen := x.gen
    tags := x.tags }

/-- The offsets of the units of a slot's image that are not as the bytes of `x` have them. -/
def State.unitsOff (s : State) (node sl : Nat) (r : Slot) (x : VatBytes) : List Nat :=
  ((s.imageUnits node sl r).filter (fun u => x.get u.off u.size != u.val || marksIn x.bad (u.off / 8) (u.size / 8) != u.marks)).map (·.off)

/-- The entry numbers that the handlers of a vat image get, by core. -/
def State.entryPlans (s : State) (node : Nat) (x : VatBytes) : List (List (Nat × Nat)) :=
  (List.range 3).map (fun c => s.entryPlan (4 * node + c) ((x.entries 0).map Prod.fst) c)

/-- A vat restores its image, but for the messages that it sends again. -/
def State.restore (s : State) (j : ResumeJob) (node : Nat) (x : VatBytes) : State :=
  let s := s.dropResv node j.lid
  let sl := s.freeSlot node
  let alone := !(s.slots.any (fun p => p.1 / 4 == node))
  let r := resumedSlot j node x
  let plans := s.entryPlans node x
  let key (k : Nat) : Nat := 32 * (4 * node + k / 32 % 4) + planned (plans.getD (k / 32 % 4) []) (k % 32)
  let s := { s with slots := mset s.slots (4 * node + sl) r }
  let s := (List.range 3).foldl (fun s c => s.restoreCore node sl r x alone (plans.getD c []) c) s
  (s.restoreBytes node sl r x).restoreVat node sl r x key

/-- A restored vat, whose handlers have the entry numbers of `plans`, sends its outstanding messages again. What the steps of R313 have then changed is
dirty: the next incremental image writes it. (DEDUCED, log 63) -/
def State.restoreSent (s : State) (plans : List (List (Nat × Nat))) (j : ResumeJob) (node : Nat) (x : VatBytes) : State :=
  match s.slotOfLid node j.lid with
  | some (sl, r) =>
    let s := s.restoreItems node r x plans
    s.modSlot node sl (fun r => { r with udirty := (s.unitsOff node sl r x).foldl setAdd [] })
  | none => s

/-- The vats of a resume that could not take their image after all: their answers. -/
def State.lateRefusals (s : State) (j : ResumeJob) (xs : List (Nat × Option VatBytes)) : List (Nat × Nat × Nat) :=
  xs.filterMap (fun p =>
    match p.2 with
    | none => some (j.lvn p.1, 7, 0)
    | some x =>
      if !s.queuesFit p.1 x then some (j.lvn p.1, 0x0A, 0)
      else if !s.enginesFit p.1 j.lid x then some (j.lvn p.1, 0x0B, 0) else none)

/-- A rectangle is resumed on every vat: it is resident, and the issuer of RESUME is its launcher for IMAGE. The insertion places of restored records and
the issue places of restored commands lie behind the clock. -/
def State.resumeRect (s : State) (j : ResumeJob) (xs : List (Nat × Option VatBytes)) : State :=
  let vats := xs.filterMap (fun p => p.2.map (fun x => (p.1, x, s.entryPlans p.1 x)))
  let s := vats.foldl (fun s p => s.restore j p.1 p.2.1) s
  let s := vats.foldl (fun s p => s.restoreSent p.2.2 j p.1 p.2.1) s
  let kept := (s.asides.filter (fun a => a.isOf j.lid j.endto)).getLast?
  let rect : Rect := ⟨j.lid, j.shape, shapeX j.shape, shapeY j.shape, j.endto, j.auth, (kept.map (·.hostSeq)).getD 0⟩
  let s := { s with rects := s.rects ++ [rect], asides := kept.elim s.asides s.asides.erase, turn := s.turn + 1024 }
  ((s.deliverHeld j.lid).deliver j.replyTo (verdictWord 0x21 0 0 j.lid)).later (.rectangleEnd j.lid)

/-- The scratchpad range of a vat that is to restore its image waits for a READY or DRAINING tile (R223). -/
def State.rangeHeld (s : State) (p : Nat × Option VatBytes) : Bool :=
  p.2.any (fun x => s.tileHeld p.1 (2048 * spBase x.space) (2048 * spLen x.space))

/-- The restoring of a rectangle waits for the lines of its vats. -/
def State.restoreWaits (s : State) (job : Nat) : Bool :=
  match s.resumeJob job with
  | some j => (j.answers.all (fun a => a.2.1 == 0)) &&
      (rectNodes j.shape (shapeX j.shape) (shapeY j.shape)).any (fun n => s.rangeHeld (n, j.imageOf n))
  | none => false

/-- RESUME_RESTORE (R313): every vat restores, or, if one refused, none does. -/
def execResumeRestore (job : Nat) (s : State) : Host.Outcome State Fault Refusal :=
  .next (match s.resumeJob job with
    | none => s
    | some j =>
      if s.restoreWaits job then s.later (.resumeRestore job) else
      let nodes := rectNodes j.shape (shapeX j.shape) (shapeY j.shape)
      let refused := j.answers.filter (fun a => a.2.1 != 0)
      let xs := nodes.map (fun n => (n, j.imageOf n))
      let refused := if refused.isEmpty then s.lateRefusals j xs else refused
      let s := { s with resumes := s.resumes.filter (fun x => x.id != j.id) }
      if refused.isEmpty then s.resumeRect j xs
      else
        let s := nodes.foldl (fun s n => s.dropResv n j.lid) s
        let a := lowestRefusal refused
        s.deliver j.replyTo (if a.2.1 == 7 then verdictWord 7 0 0 j.lid else verdictWord a.2.1 a.2.2 a.1 j.lid))

end Sys2Proof.Machine
end

