-- ==== Sys2Proof/Machine/Shaping.lean ====
section
/-!
DEFINITION. The shaping instructions (15 R269 to R271): PLANE, UNPLANE, LKENC, LKDEC. Each reads its whole source, then stores
its whole destination.
-/
namespace Sys2Proof.Machine
open Sys2Proof

/-- Tags A and B and the count of a shape word. -/
def shpA (w : Nat) : Nat := fld w 0 5
def shpB (w : Nat) : Nat := fld w 8 5
def shpN (w : Nat) : Nat := fld w 16 16

/-- The reserved bits of a shape word are zero. -/
def shpClean (w : Nat) : Bool := fld w 5 3 == 0 && fld w 13 3 == 0 && fld w 32 32 == 0

/-- The operands of a shaping instruction, checked (R269): shape word, source and destination offsets. `ok` says whether the shape word is
good, and `dims` gives the source and destination bytes and their alignments. -/
def shapeOperands (d a b : Nat) (ok : Nat → Bool) (dims : Nat → (Nat × Nat) × (Nat × Nat)) : M (Nat × Nat × Nat) := do
  classes (fun s => [⟨0, d, wSource s d⟩, ⟨1, a, wSource s a⟩, ⟨2, b, wSource s b⟩])
  let src := (← srcW a).toNat
  let w := (← srcW b).toNat
  let dst := (← srcW d).toNat
  let ((sn, sa), (dn, da)) := dims w
  checkAll [⟨2, b, shpClean w && ok w⟩, ⟨0, d, 0x2000 ≤ dst && dst + dn ≤ 0x200000⟩, ⟨1, a, 0x2000 ≤ src && src + sn ≤ 0x200000⟩,
    ⟨0, d, dst + dn ≤ src || src + sn ≤ dst⟩]
  if dst % da != 0 then alignmentTrap dst
  else if src % sa != 0 then alignmentTrap src
  else return (w, src, dst)

/-! ### PLANE and UNPLANE (R270) -/

/-- A shape word of PLANE or UNPLANE is good. -/
def planeShape (w : Nat) : Bool := isMatTag (shpA w) && shpB w == 0 && 1 ≤ shpN w && shpN w ≤ 64

/-- The code of element `k` of a packed row of a format: without its header for a lake format. -/
def rowCode (tag row k : Nat) : Nat :=
  if isLakeTag tag then
    let n := lakeN tag
    fld row (8 * lakeBytes tag * (k / 16) + 16 + (n + 1) * (k % 16)) (n + 1)
  else fld row (elemBits tag * k) (planeBits tag)

/-- The four block headers of a packed lake row. -/
def rowHeaders (tag row : Nat) : Nat := packFields 16 ((List.range 4).map (fun q => fld row (8 * lakeBytes tag * q) 16))

/-- Row `k` of a packed operand of `n` rows; zero from `n` on. -/
def packedRowAt (tag v n k : Nat) : Nat := if k < n then fld v (8 * packedRow tag * k) (8 * packedRow tag) else 0

/-- The plane layout of `n` packed rows (R98): the groups, then the block area of a lake format. -/
def toPlanes (tag v n : Nat) : Nat :=
  let w := planeBits tag
  let codes := (List.range 64).map (fun k => (List.range 64).map (fun c => rowCode tag (packedRowAt tag v n k) c))
  let groups := (List.range w).flatMap (fun j => codes.map (fun row => packFields 1 (row.map (fun x => fld x j 1))))
  let area := if isLakeTag tag then (List.range 64).map (fun k => rowHeaders tag (packedRowAt tag v n k)) else []
  packFields 64 (groups ++ area)

/-- The code of element (k, c) of a plane layout. -/
def planeCode (tag v k c : Nat) : Nat := packFields 1 ((List.range (planeBits tag)).map (fun j => fld v (64 * (64 * j + k) + c) 1))

/-- A packed row from its codes and, for a lake format, its block headers. -/
def packRow (tag : Nat) (codes : List Nat) (hdrs : Nat) : Nat :=
  if isLakeTag tag then
    packFields (8 * lakeBytes tag) ((List.range 4).map (fun q =>
      fld hdrs (16 * q) 16 + 2 ^ 16 * packFields (lakeN tag + 1) ((codes.drop (16 * q)).take 16)))
  else packFields (elemBits tag) codes

/-- The first `n` packed rows of a plane layout. -/
def toRows (tag v n : Nat) : Nat :=
  packFields (8 * packedRow tag) ((List.range n).map (fun k =>
    packRow tag ((List.range 64).map (planeCode tag v k)) (fld v (64 * (64 * planeBits tag + k)) 64)))

/-- PLANE. (DESIGN CHOICE, log 30) -/
def execPlane (d a b : Nat) (s : State) : Host.Outcome State Fault Refusal :=
  runInstr xSHAPE 0x5D (do
    let (w, src, dst) ← shapeOperands d a b planeShape (fun w => ((shpN w * packedRow (shpA w), 64), (planeSize (shpA w), 128)))
    let t := shpA w
    let v ← readSp (spAddr (← getS).node src) (shpN w * packedRow t)
    storeLocal dst (planeSize t) (toPlanes t v (shpN w))
    advance 4) s

/-- UNPLANE. -/
def execUnplane (d a b : Nat) (s : State) : Host.Outcome State Fault Refusal :=
  runInstr xSHAPE 0x5D (do
    let (w, src, dst) ← shapeOperands d a b planeShape (fun w => ((planeSize (shpA w), 128), (shpN w * packedRow (shpA w), 64)))
    let t := shpA w
    let v ← readSp (spAddr (← getS).node src) (planeSize t)
    storeLocal dst (shpN w * packedRow t) (toRows t v (shpN w))
    advance 4) s

/-! ### LKENC and LKDEC (R271) -/

/-- A shape word of LKENC or LKDEC is good. -/
def lakeShape (w : Nat) : Bool := isLakeTag (shpA w) && isLaneFloat (shpB w) && 1 ≤ shpN w

/-- The blocks of a run of elements with their flags; `n` blocks. -/
def encodeBlocks (rm ta tb v n : Nat) : List (Nat × FFlags) :=
  (List.range n).map (fun i =>
    lakeEncode rm (lakeN ta) ((List.range 16).map (fun j => elemVal tb (fld v (elemBits tb * (16 * i + j)) (elemBits tb)))))

/-- The elements of a run of blocks with their flags. -/
def decodeBlocks (rm ta tb v n : Nat) : List (Nat × FFlags) :=
  (List.range n).flatMap (fun i =>
    (lakeDecode (lakeN ta) (fld v (8 * lakeBytes ta * i) (8 * lakeBytes ta))).map (valToElem rm tb))

/-- LKENC. -/
def execLkenc (d a b : Nat) (s : State) : Host.Outcome State Fault Refusal :=
  runInstr xSHAPE 0x5D (do
    let (w, src, dst) ← shapeOperands d a b lakeShape
      (fun w => ((shpN w * (2 * elemBits (shpB w)), 64), (shpN w * lakeBytes (shpA w), 2)))
    let v ← readSp (spAddr (← getS).node src) (shpN w * (2 * elemBits (shpB w)))
    let r := encodeBlocks (← roundMode) (shpA w) (shpB w) v (shpN w)
    storeLocal dst (shpN w * lakeBytes (shpA w)) (packFields (8 * lakeBytes (shpA w)) (r.map Prod.fst))
    raiseFlags (allFlags (r.map Prod.snd))
    advance 4) s

/-- LKDEC. -/
def execLkdec (d a b : Nat) (s : State) : Host.Outcome State Fault Refusal :=
  runInstr xSHAPE 0x5D (do
    let (w, src, dst) ← shapeOperands d a b lakeShape
      (fun w => ((shpN w * lakeBytes (shpA w), 2), (shpN w * (2 * elemBits (shpB w)), 64)))
    let v ← readSp (spAddr (← getS).node src) (shpN w * lakeBytes (shpA w))
    let r := decodeBlocks (← roundMode) (shpA w) (shpB w) v (shpN w)
    storeLocal dst (shpN w * (2 * elemBits (shpB w))) (packFields (elemBits (shpB w)) (r.map Prod.fst))
    raiseFlags (allFlags (r.map Prod.snd))
    advance 4) s

end Sys2Proof.Machine
end

