-- ==== Sys2Proof/Machine/Dispatch.lean ====
section
/-!
DEFINITION. What each instruction does: one arm per constructor, each one call of its meaning.
-/
namespace Sys2Proof.Machine
open Sys2Proof

/-- The meaning of an instruction. -/
def exec (i : Instr) (s : State) : Host.Outcome State Fault Refusal :=
  match i with
  | .mov16 d b => Sys2Proof.Machine.execMov16 d b s
  | .add16 d b k => Sys2Proof.Machine.execAdd16 d b k s
  | .sub16 d b k => Sys2Proof.Machine.execSub16 d b k s
  | .mul16 d b k => Sys2Proof.Machine.execMul16 d b k s
  | .min16 d b k => Sys2Proof.Machine.execMin16 d b k s
  | .max16 d b k => Sys2Proof.Machine.execMax16 d b k s
  | .and16 d b k => Sys2Proof.Machine.execAnd16 d b k s
  | .or16 d b k => Sys2Proof.Machine.execOr16 d b k s
  | .xor16 d b k => Sys2Proof.Machine.execXor16 d b k s
  | .andn16 d b k => Sys2Proof.Machine.execAndn16 d b k s
  | .shl16 d b k => Sys2Proof.Machine.execShl16 d b k s
  | .shr16 d b k => Sys2Proof.Machine.execShr16 d b k s
  | .sar16 d b k => Sys2Proof.Machine.execSar16 d b k s
  | .neg16 d b k => Sys2Proof.Machine.execNeg16 d b k s
  | .abs16 d b k => Sys2Proof.Machine.execAbs16 d b k s
  | .not16 d b k => Sys2Proof.Machine.execNot16 d b k s
  | .add d a b => Sys2Proof.Machine.execAdd d a b s
  | .sub d a b => Sys2Proof.Machine.execSub d a b s
  | .mul d a b => Sys2Proof.Machine.execMul d a b s
  | .mulh d a b => Sys2Proof.Machine.execMulh d a b s
  | .mulhu d a b => Sys2Proof.Machine.execMulhu d a b s
  | .div d a b => Sys2Proof.Machine.execDiv d a b s
  | .divu d a b => Sys2Proof.Machine.execDivu d a b s
  | .rem d a b => Sys2Proof.Machine.execRem d a b s
  | .and d a b => Sys2Proof.Machine.execAnd d a b s
  | .or d a b => Sys2Proof.Machine.execOr d a b s
  | .xor d a b => Sys2Proof.Machine.execXor d a b s
  | .andn d a b => Sys2Proof.Machine.execAndn d a b s
  | .shl d a b => Sys2Proof.Machine.execShl d a b s
  | .shr d a b => Sys2Proof.Machine.execShr d a b s
  | .sar d a b => Sys2Proof.Machine.execSar d a b s
  | .ror d a b => Sys2Proof.Machine.execRor d a b s
  | .min d a b => Sys2Proof.Machine.execMin d a b s
  | .max d a b => Sys2Proof.Machine.execMax d a b s
  | .minu d a b => Sys2Proof.Machine.execMinu d a b s
  | .maxu d a b => Sys2Proof.Machine.execMaxu d a b s
  | .slt d a b => Sys2Proof.Machine.execSlt d a b s
  | .sltu d a b => Sys2Proof.Machine.execSltu d a b s
  | .seq d a b => Sys2Proof.Machine.execSeq d a b s
  | .remu d a b => Sys2Proof.Machine.execRemu d a b s
  | .mov d a => Sys2Proof.Machine.execMov d a s
  | .clz d a => Sys2Proof.Machine.execClz d a s
  | .ctz d a => Sys2Proof.Machine.execCtz d a s
  | .popc d a => Sys2Proof.Machine.execPopc d a s
  | .bswap d a => Sys2Proof.Machine.execBswap d a s
  | .sext d a b => Sys2Proof.Machine.execSext d a b s
  | .arel d a b => Sys2Proof.Machine.execArel d a b s
  | .axy d a b => Sys2Proof.Machine.execAxy d a b s
  | .addK d a k => Sys2Proof.Machine.execAddK d a k s
  | .subK d a k => Sys2Proof.Machine.execSubK d a k s
  | .mulK d a k => Sys2Proof.Machine.execMulK d a k s
  | .mulhK d a k => Sys2Proof.Machine.execMulhK d a k s
  | .andK d a k => Sys2Proof.Machine.execAndK d a k s
  | .orK d a k => Sys2Proof.Machine.execOrK d a k s
  | .xorK d a k => Sys2Proof.Machine.execXorK d a k s
  | .andnK d a k => Sys2Proof.Machine.execAndnK d a k s
  | .minK d a k => Sys2Proof.Machine.execMinK d a k s
  | .maxK d a k => Sys2Proof.Machine.execMaxK d a k s
  | .minuK d a k => Sys2Proof.Machine.execMinuK d a k s
  | .maxuK d a k => Sys2Proof.Machine.execMaxuK d a k s
  | .sltK d a k => Sys2Proof.Machine.execSltK d a k s
  | .sltuK d a k => Sys2Proof.Machine.execSltuK d a k s
  | .seqK d a k => Sys2Proof.Machine.execSeqK d a k s
  | .movK d k => Sys2Proof.Machine.execMovK d k s
  | .divK d a k => Sys2Proof.Machine.execDivK d a k s
  | .divuK d a k => Sys2Proof.Machine.execDivuK d a k s
  | .arelK d a k => Sys2Proof.Machine.execArelK d a k s
  | .axyK d a k => Sys2Proof.Machine.execAxyK d a k s
  | .shlImm d a c => Sys2Proof.Machine.execShlImm d a c s
  | .shrImm d a c => Sys2Proof.Machine.execShrImm d a c s
  | .sarImm d a c => Sys2Proof.Machine.execSarImm d a c s
  | .rorImm d a c => Sys2Proof.Machine.execRorImm d a c s
  | .beq a b j => Sys2Proof.Machine.execBeq a b j s
  | .bne a b j => Sys2Proof.Machine.execBne a b j s
  | .blt a b j => Sys2Proof.Machine.execBlt a b j s
  | .bge a b j => Sys2Proof.Machine.execBge a b j s
  | .bltu a b j => Sys2Proof.Machine.execBltu a b j s
  | .bgeu a b j => Sys2Proof.Machine.execBgeu a b j s
  | .loop a j => Sys2Proof.Machine.execLoop a j s
  | .j j => Sys2Proof.Machine.execJ j s
  | .call j => Sys2Proof.Machine.execCall j s
  | .jr a => Sys2Proof.Machine.execJr a s
  | .callr a => Sys2Proof.Machine.execCallr a s
  | .nop => Sys2Proof.Machine.execNop s
  | .vadd d a b m => Sys2Proof.Machine.execVadd d a b m s
  | .vsub d a b m => Sys2Proof.Machine.execVsub d a b m s
  | .vmul d a b m => Sys2Proof.Machine.execVmul d a b m s
  | .vdiv d a b m => Sys2Proof.Machine.execVdiv d a b m s
  | .vmin d a b m => Sys2Proof.Machine.execVmin d a b m s
  | .vmax d a b m => Sys2Proof.Machine.execVmax d a b m s
  | .vfma d a b m => Sys2Proof.Machine.execVfma d a b m s
  | .vfms d a b m => Sys2Proof.Machine.execVfms d a b m s
  | .vand d a b m => Sys2Proof.Machine.execVand d a b m s
  | .vor d a b m => Sys2Proof.Machine.execVor d a b m s
  | .vxor d a b m => Sys2Proof.Machine.execVxor d a b m s
  | .vandn d a b m => Sys2Proof.Machine.execVandn d a b m s
  | .vshl d a b m => Sys2Proof.Machine.execVshl d a b m s
  | .vshr d a b m => Sys2Proof.Machine.execVshr d a b m s
  | .vsar d a b m => Sys2Proof.Machine.execVsar d a b m s
  | .vsel d a b m => Sys2Proof.Machine.execVsel d a b m s
  | .vcmpeq d a b m => Sys2Proof.Machine.execVcmpeq d a b m s
  | .vcmplt d a b m => Sys2Proof.Machine.execVcmplt d a b m s
  | .vcmple d a b m => Sys2Proof.Machine.execVcmple d a b m s
  | .vdot d a b m => Sys2Proof.Machine.execVdot d a b m s
  | .vperm d a b m => Sys2Proof.Machine.execVperm d a b m s
  | .vbcast d a b m => Sys2Proof.Machine.execVbcast d a b m s
  | .vext d a b m => Sys2Proof.Machine.execVext d a b m s
  | .vins d a b m => Sys2Proof.Machine.execVins d a b m s
  | .vmov d a m => Sys2Proof.Machine.execVmov d a m s
  | .vabs d a m => Sys2Proof.Machine.execVabs d a m s
  | .vneg d a m => Sys2Proof.Machine.execVneg d a m s
  | .vsqrt d a m => Sys2Proof.Machine.execVsqrt d a m s
  | .vcvt d a b m => Sys2Proof.Machine.execVcvt d a b m s
  | .vtag d a b m => Sys2Proof.Machine.execVtag d a b m s
  | .vred d a b m => Sys2Proof.Machine.execVred d a b m s
  | .vnzs d a b m => Sys2Proof.Machine.execVnzs d a b m s
  | .vaddK d a k m => Sys2Proof.Machine.execVaddK d a k m s
  | .vsubK d a k m => Sys2Proof.Machine.execVsubK d a k m s
  | .vmulK d a k m => Sys2Proof.Machine.execVmulK d a k m s
  | .vfmaK d a k m => Sys2Proof.Machine.execVfmaK d a k m s
  | .vminK d a k m => Sys2Proof.Machine.execVminK d a k m s
  | .vmaxK d a k m => Sys2Proof.Machine.execVmaxK d a k m s
  | .vandK d a k m => Sys2Proof.Machine.execVandK d a k m s
  | .vorK d a k m => Sys2Proof.Machine.execVorK d a k m s
  | .vxorK d a k m => Sys2Proof.Machine.execVxorK d a k m s
  | .vandnK d a k m => Sys2Proof.Machine.execVandnK d a k m s
  | .vcmpeqK d a k m => Sys2Proof.Machine.execVcmpeqK d a k m s
  | .vcmpltK d a k m => Sys2Proof.Machine.execVcmpltK d a k m s
  | .vcmpleK d a k m => Sys2Proof.Machine.execVcmpleK d a k m s
  | .vbcastK d a k m => Sys2Proof.Machine.execVbcastK d a k m s
  | .vshlImm d a c m => Sys2Proof.Machine.execVshlImm d a c m s
  | .vshrImm d a c m => Sys2Proof.Machine.execVshrImm d a c m s
  | .vsarImm d a c m => Sys2Proof.Machine.execVsarImm d a c m s
  | .vaddRel d a b m => Sys2Proof.Machine.execVaddRel d a b m s
  | .vsubRel d a b m => Sys2Proof.Machine.execVsubRel d a b m s
  | .vmulRel d a b m => Sys2Proof.Machine.execVmulRel d a b m s
  | .vdivRel d a b m => Sys2Proof.Machine.execVdivRel d a b m s
  | .vminRel d a b m => Sys2Proof.Machine.execVminRel d a b m s
  | .vmaxRel d a b m => Sys2Proof.Machine.execVmaxRel d a b m s
  | .vfmaRel d a b m => Sys2Proof.Machine.execVfmaRel d a b m s
  | .vfmsRel d a b m => Sys2Proof.Machine.execVfmsRel d a b m s
  | .vandRel d a b m => Sys2Proof.Machine.execVandRel d a b m s
  | .vorRel d a b m => Sys2Proof.Machine.execVorRel d a b m s
  | .vxorRel d a b m => Sys2Proof.Machine.execVxorRel d a b m s
  | .vandnRel d a b m => Sys2Proof.Machine.execVandnRel d a b m s
  | .vshlRel d a b m => Sys2Proof.Machine.execVshlRel d a b m s
  | .vshrRel d a b m => Sys2Proof.Machine.execVshrRel d a b m s
  | .vsarRel d a b m => Sys2Proof.Machine.execVsarRel d a b m s
  | .vselRel d a b m => Sys2Proof.Machine.execVselRel d a b m s
  | .vcmpeqRel d a b m => Sys2Proof.Machine.execVcmpeqRel d a b m s
  | .vcmpltRel d a b m => Sys2Proof.Machine.execVcmpltRel d a b m s
  | .vcmpleRel d a b m => Sys2Proof.Machine.execVcmpleRel d a b m s
  | .vdotRel d a b m => Sys2Proof.Machine.execVdotRel d a b m s
  | .vpermRel d a b m => Sys2Proof.Machine.execVpermRel d a b m s
  | .vmovRelA d a m => Sys2Proof.Machine.execVmovRelA d a m s
  | .vmovRelD d a m => Sys2Proof.Machine.execVmovRelD d a m s
  | .mand d a b => Sys2Proof.Machine.execMand d a b s
  | .mor d a b => Sys2Proof.Machine.execMor d a b s
  | .mxor d a b => Sys2Proof.Machine.execMxor d a b s
  | .mnot d a => Sys2Proof.Machine.execMnot d a s
  | .mmov d a => Sys2Proof.Machine.execMmov d a s
  | .mma z f p e => Sys2Proof.Machine.execMma z f p e s
  | .mmaz z f p e => Sys2Proof.Machine.execMmaz z f p e s
  | .achain z w => Sys2Proof.Machine.execAchain z w s
  | .tset t k => Sys2Proof.Machine.execTset t k s
  | .aalloc z k => Sys2Proof.Machine.execAalloc z k s
  | .afree z => Sys2Proof.Machine.execAfree z s
  | .azero z => Sys2Proof.Machine.execAzero z s
  | .astore z x w => Sys2Proof.Machine.execAstore z x w s
  | .aload z x w => Sys2Proof.Machine.execAload z x w s
  | .amovv z v sc => Sys2Proof.Machine.execAmovv z v sc s
  | .winit p r => Sys2Proof.Machine.execWinit p r s
  | .walk z f p e k => Sys2Proof.Machine.execWalk z f p e k s
  | .wstep z f p e => Sys2Proof.Machine.execWstep z f p e s
  | .wres p d sc => Sys2Proof.Machine.execWres p d sc s
  | .wfix p sc => Sys2Proof.Machine.execWfix p sc s
  | .wcnt p x d => Sys2Proof.Machine.execWcnt p x d s
  | .send a b n => Sys2Proof.Machine.execSend a b n s
  | .sendr d a b n => Sys2Proof.Machine.execSendr d a b n s
  | .reply a b n => Sys2Proof.Machine.execReply a b n s
  | .bind d a => Sys2Proof.Machine.execBind d a s
  | .unbind d => Sys2Proof.Machine.execUnbind d s
  | .hmask a b => Sys2Proof.Machine.execHmask a b s
  | .hprio a b => Sys2Proof.Machine.execHprio a b s
  | .peek d a => Sys2Proof.Machine.execPeek d a s
  | .drop a => Sys2Proof.Machine.execDrop a s
  | .yield => Sys2Proof.Machine.execYield s
  | .exit => Sys2Proof.Machine.execExit s
  | .launch d a => Sys2Proof.Machine.execLaunch d a s
  | .mqfold d a b => Sys2Proof.Machine.execMqfold d a b s
  | .mqbind a b => Sys2Proof.Machine.execMqbind a b s
  | .mqdrain a => Sys2Proof.Machine.execMqdrain a s
  | .mqstat d a => Sys2Proof.Machine.execMqstat d a s
  | .mqcfg a b => Sys2Proof.Machine.execMqcfg a b s
  | .ldB d b j => Sys2Proof.Machine.execLdB d b j s
  | .ldH d b j => Sys2Proof.Machine.execLdH d b j s
  | .ldW d b j => Sys2Proof.Machine.execLdW d b j s
  | .ldD d b j => Sys2Proof.Machine.execLdD d b j s
  | .ldSb d b j => Sys2Proof.Machine.execLdSb d b j s
  | .ldSh d b j => Sys2Proof.Machine.execLdSh d b j s
  | .ldSw d b j => Sys2Proof.Machine.execLdSw d b j s
  | .stB d b j => Sys2Proof.Machine.execStB d b j s
  | .stH d b j => Sys2Proof.Machine.execStH d b j s
  | .stW d b j => Sys2Proof.Machine.execStW d b j s
  | .stD d b j => Sys2Proof.Machine.execStD d b j s
  | .ldv v b t j => Sys2Proof.Machine.execLdv v b t j s
  | .stv v b t j => Sys2Proof.Machine.execStv v b t j s
  | .rld d a => Sys2Proof.Machine.execRld d a s
  | .rst a b => Sys2Proof.Machine.execRst a b s
  | .rdf a b => Sys2Proof.Machine.execRdf a b s
  | .wrf d a b => Sys2Proof.Machine.execWrf d a b s
  | .ldf d a => Sys2Proof.Machine.execLdf d a s
  | .stf a b => Sys2Proof.Machine.execStf a b s
  | .cas d a b => Sys2Proof.Machine.execCas d a b s
  | .amoAdd d a b => Sys2Proof.Machine.execAmoAdd d a b s
  | .amoAnd d a b => Sys2Proof.Machine.execAmoAnd d a b s
  | .amoOr d a b => Sys2Proof.Machine.execAmoOr d a b s
  | .amoXor d a b => Sys2Proof.Machine.execAmoXor d a b s
  | .amoMin d a b => Sys2Proof.Machine.execAmoMin d a b s
  | .amoMax d a b => Sys2Proof.Machine.execAmoMax d a b s
  | .amoMinu d a b => Sys2Proof.Machine.execAmoMinu d a b s
  | .amoSwap d a b => Sys2Proof.Machine.execAmoSwap d a b s
  | .phase a sc => Sys2Proof.Machine.execPhase a sc s
  | .fence sc => Sys2Proof.Machine.execFence sc s
  | .tstate d a => Sys2Proof.Machine.execTstate d a s
  | .twait a b => Sys2Proof.Machine.execTwait a b s
  | .lfill a b => Sys2Proof.Machine.execLfill a b s
  | .lempty a b => Sys2Proof.Machine.execLempty a b s
  | .semp a => Sys2Proof.Machine.execSemp a s
  | .semv a => Sys2Proof.Machine.execSemv a s
  | .semr d a => Sys2Proof.Machine.execSemr d a s
  | .strm d a => Sys2Proof.Machine.execStrm d a s
  | .strmx d a b => Sys2Proof.Machine.execStrmx d a b s
  | .strmoff d => Sys2Proof.Machine.execStrmoff d s
  | .xfer d a b => Sys2Proof.Machine.execXfer d a b s
  | .gath d a b => Sys2Proof.Machine.execGath d a b s
  | .gend => Sys2Proof.Machine.execGend s
  | .mcast d a b => Sys2Proof.Machine.execMcast d a b s
  | .engq d a => Sys2Proof.Machine.execEngq d a s
  | .glz d a => Sys2Proof.Machine.execGlz d a s
  | .plane d a b => Sys2Proof.Machine.execPlane d a b s
  | .unplane d a b => Sys2Proof.Machine.execUnplane d a b s
  | .lkenc d a b => Sys2Proof.Machine.execLkenc d a b s
  | .lkdec d a b => Sys2Proof.Machine.execLkdec d a b s
  | .srr r n => Sys2Proof.Machine.execSrr r n s
  | .srw r n => Sys2Proof.Machine.execSrw r n s
  | .trap n => Sys2Proof.Machine.execTrap n s
  | .bkpt n => Sys2Proof.Machine.execBkpt n s
  | .mirror sc j f => Sys2Proof.Machine.execMirror sc j f s
  | .eret => Sys2Proof.Machine.execEret s
  | .halt r => Sys2Proof.Machine.execHalt r s
  | .image r => Sys2Proof.Machine.execImage r s
  | .resume r => Sys2Proof.Machine.execResume r s
  | .tlbw r => Sys2Proof.Machine.execTlbw r s
  | .tlbiDrain r => Sys2Proof.Machine.execTlbiDrain r s
  | .tlbiConfirm r => Sys2Proof.Machine.execTlbiConfirm r s
  | .fltrplRetry r => Sys2Proof.Machine.execFltrplRetry r s
  | .fltrplFail r => Sys2Proof.Machine.execFltrplFail r s
  | .activationStart ck ent => Sys2Proof.Machine.execActivationStart ck ent s
  | .messageAccept m => Sys2Proof.Machine.execMessageAccept m s
  | .refusalArrival m code => Sys2Proof.Machine.execRefusalArrival m code s
  | .neverRefusedEntry ck chan => Sys2Proof.Machine.execNeverRefusedEntry ck chan s
  | .launchReserve node lid => Sys2Proof.Machine.execLaunchReserve node lid s
  | .launchCommit node lid => Sys2Proof.Machine.execLaunchCommit node lid s
  | .launchReject lid => Sys2Proof.Machine.execLaunchReject lid s
  | .rectangleEnd lid => Sys2Proof.Machine.execRectangleEnd lid s
  | .nearReadRequest r => Sys2Proof.Machine.execNearReadRequest r s
  | .nearReadReply r data poisoned => Sys2Proof.Machine.execNearReadReply r data poisoned s
  | .nearStoreArrival r => Sys2Proof.Machine.execNearStoreArrival r s
  | .nearAtomicArrival r => Sys2Proof.Machine.execNearAtomicArrival r s
  | .farMemoryAccess r => Sys2Proof.Machine.execFarMemoryAccess r s
  | .farAtomicService r => Sys2Proof.Machine.execFarAtomicService r s
  | .farReplyArrival r status data => Sys2Proof.Machine.execFarReplyArrival r status data s
  | .foldRequestArrival f => Sys2Proof.Machine.execFoldRequestArrival f s
  | .foldRefusalArrival f rsn => Sys2Proof.Machine.execFoldRefusalArrival f rsn s
  | .mqDispatch node slot => Sys2Proof.Machine.execMqDispatch node slot s
  | .dispatchDelivery node slot => Sys2Proof.Machine.execDispatchDelivery node slot s
  | .ageTick node => Sys2Proof.Machine.execAgeTick node s
  | .phaseDeparture g => Sys2Proof.Machine.execPhaseDeparture g s
  | .chainReserveRequest c => Sys2Proof.Machine.execChainReserveRequest c s
  | .chainGrant c => Sys2Proof.Machine.execChainGrant c s
  | .chainPartialArrival c p => Sys2Proof.Machine.execChainPartialArrival c p s
  | .arrayRetire node => Sys2Proof.Machine.execArrayRetire node s
  | .walkStepCommit node => Sys2Proof.Machine.execWalkStepCommit node s
  | .faultReplyArrival requester retry => Sys2Proof.Machine.execFaultReplyArrival requester retry s
  | .engineCompletion node cmd => Sys2Proof.Machine.execEngineCompletion node cmd s
  | .xferUnit node cmd => Sys2Proof.Machine.execXferUnit node cmd s
  | .gatherStage node cmd => Sys2Proof.Machine.execGatherStage node cmd s
  | .gatherElementIssue node cmd => Sys2Proof.Machine.execGatherElementIssue node cmd s
  | .gatherElementLand node cmd elem => Sys2Proof.Machine.execGatherElementLand node cmd elem s
  | .streamFetch node unit => Sys2Proof.Machine.execStreamFetch node unit s
  | .mcastUnit node cmd recv => Sys2Proof.Machine.execMcastUnit node cmd recv s
  | .bufferFreeAcknowledgement node cmd => Sys2Proof.Machine.execBufferFreeAcknowledgement node cmd s
  | .glzPoint node cmd => Sys2Proof.Machine.execGlzPoint node cmd s
  | .tileEntryWrite r e => Sys2Proof.Machine.execTileEntryWrite r e s
  | .tileEntryArm r e => Sys2Proof.Machine.execTileEntryArm r e s
  | .faultQueuePop r => Sys2Proof.Machine.execFaultQueuePop r s
  | .faultQueueClearOvf r => Sys2Proof.Machine.execFaultQueueClearOvf r s
  | .fabricSend r => Sys2Proof.Machine.execFabricSend r s
  | .fabricAcknowledgement node cmd status => Sys2Proof.Machine.execFabricAcknowledgement node cmd status s
  | .fabricArrival m => Sys2Proof.Machine.execFabricArrival m s
  | .matchArm r e => Sys2Proof.Machine.execMatchArm r e s
  | .matchDisarm r e => Sys2Proof.Machine.execMatchDisarm r e s
  | .imageStop node lid => Sys2Proof.Machine.execImageStop node lid s
  | .vatImage node lid => Sys2Proof.Machine.execVatImage node lid s
  | .imageVerdict lid => Sys2Proof.Machine.execImageVerdict lid s
  | .resumeReserve node job => Sys2Proof.Machine.execResumeReserve node job s
  | .resumeRestore job => Sys2Proof.Machine.execResumeRestore job s
  | .debugHalt ck => Sys2Proof.Machine.execDebugHalt ck s
  | .debugRelease ck => Sys2Proof.Machine.execDebugRelease ck s
  | .debugStep ck => Sys2Proof.Machine.execDebugStep ck s
  | .debugSetHob ck hob => Sys2Proof.Machine.execDebugSetHob ck hob s
  | .fatalFault => Sys2Proof.Machine.execFatalFault s
  | .deviceReset => Sys2Proof.Machine.execDeviceReset s
  | .boot b => Sys2Proof.Machine.execBoot b s
  | .throttleStep die => Sys2Proof.Machine.execThrottleStep die s
  | .throttleRecover die => Sys2Proof.Machine.execThrottleRecover die s
  | .eccError e => Sys2Proof.Machine.execEccError e s
  | .scrub far => Sys2Proof.Machine.execScrub far s
  | .marginMessage lane vmarg hmarg => Sys2Proof.Machine.execMarginMessage lane vmarg hmarg s
  | .laneRetrain r => Sys2Proof.Machine.execLaneRetrain r s
  | .retrainDone link => Sys2Proof.Machine.execRetrainDone link s
  | .laneRepair r => Sys2Proof.Machine.execLaneRepair r s
  | .loadFrame f => Sys2Proof.Machine.execLoadFrame f s
  | .launchFrame f => Sys2Proof.Machine.execLaunchFrame f s
  | .readFrame f => Sys2Proof.Machine.execReadFrame f s
  | .syncFrame f => Sys2Proof.Machine.execSyncFrame f s
  | .peersFrame f => Sys2Proof.Machine.execPeersFrame f s
  | .peersApply => Sys2Proof.Machine.execPeersApply s
  | .frameResend seq => Sys2Proof.Machine.execFrameResend seq s
  | .illegalEncoding nbits w => Sys2Proof.Machine.execIllegalEncoding nbits w s
  | .fabricDeliveryFailure node cmd => Sys2Proof.Machine.execFabricDeliveryFailure node cmd s

end Sys2Proof.Machine
end

