-- ==== Sys2Proof/Machine/Fetch.lean ====
section
/-!
DEFINITION. Fetching an instruction (03 R32, R47) and running what was fetched. Instructions of form S and events run through `runSys` and
`runEvent`, which do what `exec` does on the constructors they stand for (Laws/Run.lean).
-/
namespace Sys2Proof.Machine
open Sys2Proof

/-- What stands at IP. -/
inductive Fetched where
  | dec (d : Decoded)
  | bad (nbits w : Nat)
  deriving DecidableEq, Repr

/-- What a word of `nbits` bits is. -/
def classify (nbits w : Nat) (r : Except Reject Decoded) : Fetched :=
  match r with
  | .ok d => .dec d
  | .error _ => .bad nbits w

/-- Fetch the instruction at IP of the executing entry (R32): its halfwords are read as a load reads memory; an empty line blocks, and a
32-bit instruction at the last halfword raises the alignment trap, unless that halfword is poisoned. A 32-bit instruction whose first halfword is
poisoned blocks for an empty line of its second one, before its poison trap. (DESIGN CHOICE, log 109) -/
def fetchBody : M Fetched := do
  let ip := (← getS).curEntry.ip
  let h ← loadLocal ip 2
  if h % 2 == 0 then return classify 16 h (decodeHalf h)
  else if ip == 0x1FFFFE then
    match (← get).bad with
    | some info => trap 0x09 info
    | none => alignmentTrap ip
  else
    let h' ← loadLocal (ip + 2) 2
    return classify 32 (h + 65536 * h') (decode32 (h + 65536 * h'))

/-- Run an instruction of form S. -/
def runSys (i : SysInstr) (s : State) : Host.Outcome State Fault Refusal :=
  match i with
  | .srr r n => execSrr r n s
  | .srw r n => execSrw r n s
  | .trap n => execTrap n s
  | .bkpt n => execBkpt n s
  | .mirror sc i f => execMirror sc i f s
  | .eret => execEret s
  | .halt r => execHalt r s
  | .image r => execImage r s
  | .resume r => execResume r s
  | .tlbw r => execTlbw r s
  | .tlbiDrain r => execTlbiDrain r s
  | .tlbiConfirm r => execTlbiConfirm r s
  | .fltrplRetry r => execFltrplRetry r s
  | .fltrplFail r => execFltrplFail r s

/-- Run an event. -/
def runEvent (i : Event) (s : State) : Host.Outcome State Fault Refusal :=
  match i with
  | .messageAccept m => execMessageAccept m s
  | .refusalArrival m code => execRefusalArrival m code s
  | .neverRefusedEntry ck chan => execNeverRefusedEntry ck chan s
  | .launchReserve node lid => execLaunchReserve node lid s
  | .launchCommit node lid => execLaunchCommit node lid s
  | .launchReject lid => execLaunchReject lid s
  | .rectangleEnd lid => execRectangleEnd lid s
  | .nearReadRequest r => execNearReadRequest r s
  | .nearReadReply r data poisoned => execNearReadReply r data poisoned s
  | .nearStoreArrival r => execNearStoreArrival r s
  | .nearAtomicArrival r => execNearAtomicArrival r s
  | .farMemoryAccess r => execFarMemoryAccess r s
  | .farAtomicService r => execFarAtomicService r s
  | .farReplyArrival r status data => execFarReplyArrival r status data s
  | .foldRequestArrival f => execFoldRequestArrival f s
  | .foldRefusalArrival f rsn => execFoldRefusalArrival f rsn s
  | .mqDispatch node slot => execMqDispatch node slot s
  | .dispatchDelivery node slot => execDispatchDelivery node slot s
  | .ageTick node => execAgeTick node s
  | .phaseDeparture g => execPhaseDeparture g s
  | .chainReserveRequest c => execChainReserveRequest c s
  | .chainGrant c => execChainGrant c s
  | .chainPartialArrival c p => execChainPartialArrival c p s
  | .arrayRetire node => execArrayRetire node s
  | .walkStepCommit node => execWalkStepCommit node s
  | .faultReplyArrival requester retry => execFaultReplyArrival requester retry s
  | .engineCompletion node cmd => execEngineCompletion node cmd s
  | .xferUnit node cmd => execXferUnit node cmd s
  | .gatherStage node cmd => execGatherStage node cmd s
  | .gatherElementIssue node cmd => execGatherElementIssue node cmd s
  | .gatherElementLand node cmd elem => execGatherElementLand node cmd elem s
  | .streamFetch node unit => execStreamFetch node unit s
  | .mcastUnit node cmd recv => execMcastUnit node cmd recv s
  | .bufferFreeAcknowledgement node cmd => execBufferFreeAcknowledgement node cmd s
  | .glzPoint node cmd => execGlzPoint node cmd s
  | .fabricAcknowledgement node cmd status => execFabricAcknowledgement node cmd status s
  | .fabricArrival m => execFabricArrival m s
  | .imageStop node lid => execImageStop node lid s
  | .vatImage node lid => execVatImage node lid s
  | .imageVerdict lid => execImageVerdict lid s
  | .resumeReserve node job => execResumeReserve node job s
  | .resumeRestore job => execResumeRestore job s
  | .debugHalt ck => execDebugHalt ck s
  | .debugRelease ck => execDebugRelease ck s
  | .debugStep ck => execDebugStep ck s
  | .debugSetHob ck hob => execDebugSetHob ck hob s
  | .fatalFault => execFatalFault s
  | .deviceReset => execDeviceReset s
  | .boot b => execBoot b s
  | .throttleStep die => execThrottleStep die s
  | .throttleRecover die => execThrottleRecover die s
  | .eccError e => execEccError e s
  | .scrub far => execScrub far s
  | .marginMessage lane vmarg hmarg => execMarginMessage lane vmarg hmarg s
  | .retrainDone link => execRetrainDone link s
  | .loadFrame f => execLoadFrame f s
  | .launchFrame f => execLaunchFrame f s
  | .readFrame f => execReadFrame f s
  | .syncFrame f => execSyncFrame f s
  | .peersFrame f => execPeersFrame f s
  | .peersApply => execPeersApply s
  | .frameResend seq => execFrameResend seq s
  | .fabricDeliveryFailure node cmd => execFabricDeliveryFailure node cmd s

/-- Run a decoded instruction. -/
def runDecoded (d : Decoded) (s : State) : Host.Outcome State Fault Refusal :=
  match d with
  | .ins i => exec i s
  | .sys i => runSys i s

/-- Fetch and run the instruction at IP of the executing entry: a poisoned fetch traps before every other cause (R28, R32). -/
def State.runFetched (s : State) : Host.Outcome State Fault Refusal :=
  match fetchBody.run { s := s, orig := s } with
  | .error e => finish s (.error e)
  | .ok (f, c) =>
    match c.bad with
    | some info => .next (s.takeTrap s.curKey 0x09 info false)
    | none =>
      match f with
      | .dec d => runDecoded d s
      | .bad nbits w => execIllegalEncoding nbits w s

/-- What the executing entry does next: its next instruction, or the trap that its instruction has waited to take (R303). (DEDUCED, log 93) -/
def runNext (s : State) : Host.Outcome State Fault Refusal :=
  match s.curEntry.wait with
  | .trap cause info next => .next (s.takeTrap s.curKey cause info next)
  | _ => s.runFetched

end Sys2Proof.Machine
end

