-- ==== Sys2Proof/Machine/Schedule.lean ====
section
/-!
DEFINITION. What can happen next: the entry each core issues (09 R154), the blocked instructions that may go on (R16, R253, R303), and the pending
events that may happen. The spec leaves the order between cores and events open; `State.moves` fixes any order, and without it the machine
takes turns.
-/
namespace Sys2Proof.Machine
open Sys2Proof

/-! ### Blocked entries (R16) -/

/-- The wait ends when the instruction could proceed; the others end with their own events. (DEDUCED, log 7) -/
def retried : Wait → Bool
  | .retry | .array | .sem _ | .trap _ _ _ | .chainGrant => true
  | _ => false

/-- What an entry keeps of its wait when it may go on: its place among SEMPs and for the array, and the trap that it takes (R303). -/
def keptWait : Wait → Wait
  | .sem i => .sem i
  | .array => .array
  | .trap c i n => .trap c i n
  | _ => .none

/-- It is the entry's turn: for a SEMP, the count covers every SEMP before it (R253); for a waiting trap, no other of its slot on the core comes
before it (R303); for the array, no other entry of the core (R109). (DEDUCED, log 9) -/
def State.itsTurn (s : State) (k : Nat) (e : Entry) : Bool :=
  match e.wait with
  | .sem i =>
    (s.entries.filter (fun p => p.1 / 128 == k / 128 && p.2.wait == .sem i && p.1 != k &&
      (p.2.state == .active || earlier p (k, e)))).length < s.semCount (k / 128) i
  | .array => s.arrayTurn k
  | .trap _ _ _ => s.trapTurn k e
  | _ => true

/-- The state in which entry `k` executes. -/
def State.executing (s : State) (k : Nat) (w : Wait) : State :=
  { s with cur := ⟨k / 32, k % 32⟩ }.modEntry k (fun e => { e with state := .active, wait := w })

/-- The blocked instruction of entry `k` would not block again on the same wait. -/
def State.wouldRun (s : State) (k : Nat) (e : Entry) : Bool :=
  match runNext (s.executing k (keptWait e.wait)) with
  | .next t => !((t.entry k).state == .blocked && (t.entry k).wait == e.wait)
  | _ => true

/-- Entry `k` becomes ACTIVE if its blocking condition has cleared. -/
def State.wakeEntry (s : State) (k : Nat) : State :=
  let e := s.entry k
  if e.state == .blocked && retried e.wait && !s.inStop (k / 32) e && s.itsTurn k e && s.wouldRun k e then
    s.modEntry k (fun e => { e with state := .active, wait := keptWait e.wait })
  else s

/-- The entries of a core whose blocking condition has cleared become ACTIVE (R16, R153). -/
def State.wake (s : State) (ck : Nat) : State :=
  ((s.entries.filter (fun p => p.1 / 32 == ck && p.2.state == .blocked)).map Prod.fst).foldl State.wakeEntry s

/-! ### Selection (R154) -/

/-- The entry may be selected: a candidate whose slot is not stopped; an activation starts only where no READY or DRAINING tile entry holds the
registers that the start clears (R18, R223). -/
def State.mayIssue (s : State) (ck : Nat) (e : Entry) : Bool :=
  s.isCand ck e && !s.inStop ck e && (activated e || !s.startHeld ck e)

/-- After entry `ent` of a core has issued (none: before a selection), P of each yielded entry loses it and the entries that are no candidates
of its key; an empty P clears YLD. -/
def State.prune (s : State) (ck : Nat) (ent : Option Nat) : State :=
  { s with entries := s.entries.map (fun p =>
      if p.1 / 32 == ck && p.2.yld then
        let left := p.2.pset.filter (fun x =>
          let y := s.entry (32 * ck + x)
          some x != ent && s.isCand ck y && s.issueKey ck y == s.issueKey ck p.2)
        (p.1, { p.2 with pset := left, yld := !left.isEmpty })
      else p) }

/-- The place of entry `e` in the order last + 1, last + 2, …, last. -/
def searchPlace (last e : Nat) : Nat := (e + 31 - last % 32) % 32

/-- The first of the entries with the largest key. -/
def State.topOf (s : State) (ck : Nat) (es : List (Nat × Entry)) : Option Nat :=
  (es.foldl (fun (best : Option (Nat × Entry)) p =>
    match best with
    | none => some p
    | some b =>
      let kb := s.issueKey ck b.2
      let kp := s.issueKey ck p.2
      let last := (s.core ck).last
      if kb < kp || (kb == kp && searchPlace last p.1 < searchPlace last b.1) then some p else best) none).map Prod.fst

/-- The entry that a core selects: among those without YLD, else among those with it. -/
def State.select (s : State) (ck : Nat) : Option Nat :=
  let es := (s.entriesOf ck).filter (fun p => s.mayIssue ck p.2)
  let fresh := es.filter (fun p => !p.2.yld)
  s.topOf ck (if fresh.isEmpty then es else fresh)

/-- The state in which entry `ent` of a core executes its next instruction: its activation started if it is RUNNABLE, `last`, YLD and DBG.ENT
set. (DEDUCED, log 8) -/
def State.begin (s : State) (ck ent : Nat) : State :=
  let k := 32 * ck + ent
  let s := if s.entryState ck (s.entry k) == .runnable then s.startActivation k else s
  let s := s.modCore ck (fun c => { c with last := ent, ent := ent })
  { s with cur := ⟨ck, ent⟩ }.modEntry k (fun e => { e with yld := false, wait := keptWait e.wait })

/-- The rectangle of entry `ent` of a core is being stopped: the stop takes effect on its vats together. (DEDUCED, log 107) -/
def State.beingStopped (s : State) (ck ent : Nat) : Bool :=
  match s.slot? (nodeOf ck) (s.entry (32 * ck + ent)).slot with
  | some r => !isService (nodeOf ck) && s.agenda.any (fun ev => match ev with
    | .imageStop _ lid => lid == r.lid
    | _ => false)
  | none => false

/-- The entry that core `ck` issues from now, in the state in which it executes (R154, R314): none if the core is halted, has no candidate, or has
selected an entry whose rectangle is being stopped. -/
def State.chosen (s : State) (ck : Nat) : Option (Nat × State) :=
  let c := s.core ck
  if c.hlt && !c.step then none
  else
    let s := (s.wake ck).prune ck none
    match s.select ck with
    | some e => if s.beingStopped ck e then none else some (e, s.begin ck e)
    | none => none

/-- A message or fold on the local path of a vat has not arrived yet. (DEDUCED, log 10) -/
def State.onLocalPath (s : State) (node : Nat) : Bool :=
  s.agenda.any (fun ev => match ev with
    | .messageAccept m => nodeOf m.src == node && nodeOf m.dst == node
    | .foldRequestArrival f => nodeOf f.src == node && nodeOf f.dst == node
    | _ => false)

/-- The entry is blocked at an instruction that has not issued: nothing but its miss, its fault or a reservation has been sent for. -/
def notIssued (e : Entry) : Bool :=
  e.state == .blocked && (match e.wait with
    | .reply _ | .phase _ | .walk | .chainSent | .none => false
    | _ => true)

/-- After entry `ent` of core `ck` has run: a debugger's step is used up if its instruction has issued (R314). -/
def State.stepped (s : State) (ck ent : Nat) : State :=
  if (s.core ck).step && !notIssued (s.entry (32 * ck + ent)) then s.modCore ck (fun c => { c with step := false }) else s

/-- Core `ck` issues one instruction, if it can, in a cycle of its own vat's Mordant queues. What a core sends on the local path arrives in the cycle it
is sent (R362, R156, R318), so no core of the vat issues before that. -/
def State.issueOn (s : State) (ck : Nat) : Option (Host.Outcome State Fault Refusal) :=
  match if s.onLocalPath (nodeOf ck) then none else (s.issueCycle ck).chosen ck with
  | none => none
  | some (e, t) => some (match runNext t with
    | .next u => .next ((u.prune ck (some e)).stepped ck e)
    | r => r)

/-- The cores that have handlers, each once. -/
def State.busyCores (s : State) : List Nat := (s.entries.filter (fun p => p.2.v)).map (fun p => p.1 / 32) |>.eraseDups

/-- The first core, from a place that moves with every step, that issues. -/
def State.issueAny (s : State) : Option (Host.Outcome State Fault Refusal) :=
  let cs := s.busyCores
  (cs.rotateLeft (s.turn % (cs.length + 1))).findSome? s.issueOn

/-! ### Placing a program -/

/-- A core that implements the extension of a word's opcode (R42; R249, R247 and R248 for the service instructions): of vat 0, or of
cluster 0. -/
def fetchCore (w : Nat) : Nat :=
  let op := fld w 1 7
  if w % 2 == 0 then 2
  else if op == 0x5B || op == 0x5C then 0
  else if op == 0x5D then 1
  else if op == 0x5F && 2 ≤ fld w 28 4 then 4 * svcNode 0 (if fld w 28 4 == 4 then 1 else 0) + 3
  else 2

/-- A program of one instruction `w` stands loaded on core `ck`: slot 0 and entry 0 are in use, the entry's activation is in progress with its
workspace at 0x2000 and IP 0x3000, where the word's four bytes lie, and the core issues next. -/
def State.placed (s : State) (ck w : Nat) : State :=
  let node := nodeOf ck
  let lid := 1
  let slot : Slot := { lid := lid, lvn := 0, ox := vatX node, oy := vatY node, shape := 1 * 2 ^ 25, space := 4 + 1020 * 2 ^ 10 + 128 * 2 ^ 20 + 512 * 2 ^ 28,
                       chans := 0xFFFEFFFEFFFE, rfcs := 0xFFFF0000, bank0 := 0, hwm := 512 }
  let s := if isService node then s
    else { s with
      slots := mset s.slots (4 * node) slot
      rects := s.rects ++ [⟨lid, slot.shape, slot.ox, slot.oy, 0, none, 0⟩] }
  let s := s.modEntry (32 * ck) (fun e =>
    { v := true, ws := 0x2000, slot := 0, state := .active, vregs := 16, entry := 0x3000, wp := 0x2000, ip := 0x3000, seq := e.seq, phase := e.phase })
  let a := spAddr node 0x3000
  let s := (s.poke a 4 w).fillLines a 4
  { s with moves := .issue ck :: s.moves }

/-! ### Pending events -/

/-- The way of a message, request or reply in near space: the nodes it leaves and reaches. -/
def State.wayOf (s : State) : Event → Option (Nat × Nat)
  | .messageAccept m => some (nodeOf m.src, nodeOf m.dst)
  | .refusalArrival m _ => some (nodeOf m.dst, nodeOf m.src)
  | .nearReadRequest r => some (nodeOf r.src, r.addr / 0x200000)
  | .nearStoreArrival r => some (nodeOf r.src, r.addr / 0x200000)
  | .nearAtomicArrival r => some (nodeOf r.src, r.addr / 0x200000)
  | .nearReadReply r _ _ => some (r.addr / 0x200000, nodeOf r.src)
  | .foldRequestArrival f => some (nodeOf f.src, nodeOf f.dst)
  | .foldRefusalArrival f _ => some (nodeOf f.dst, nodeOf f.src)
  | .chainReserveRequest c => some (nodeOf c.src, c.dst)
  | .chainGrant c => some (c.dst, nodeOf c.src)
  | .chainPartialArrival c _ => some (nodeOf c.src, c.dst)
  | .launchReserve node lid => (s.launches.find? (fun l => l.lid == lid)).bind (fun l => l.src.map (fun ck => (nodeOf ck, node)))
  | .mcastUnit node _ x => some (node, x)
  | _ => none

/-- The event waits for a paused link. -/
def State.eventPaused (s : State) (ev : Event) : Bool :=
  match ev with
  | .farMemoryAccess r => s.farPaused (nodeOf r.src) r.pa
  | .farAtomicService r => s.farPaused (nodeOf r.src) r.pa
  | .farReplyArrival r _ _ => s.farPaused (nodeOf r.src) r.pa
  | ev => (s.wayOf ev).any (fun w => s.wayPaused w.1 w.2)

/-- The walk in a node's array has something to do: it begins or ends a read phase that waits for nothing, posts a miss or fault message, or
retires (R128, R129, R137). -/
def State.walkReady (s : State) (node : Nat) : Bool :=
  match mget? s.arrays node with
  | none => true
  | some j =>
    match j.walk with
    | none => true
    | some w =>
      w.wait == .none &&
      (if s.walkDone node w then !(s.walkHeld node j && w.stepped)
      else match s.walkStep node j w with
        | (.error (.miss _), _) => true
        | (.error (.fault _ _), _) => true
        | (.error _, r) => w.set.isNone || w.log.length < r.made.length
        | (.ok _, _) => true)

/-- The next waiting item of a channel fits. -/
def State.entryFits (s : State) (ck chan : Nat) : Bool :=
  match s.waiting ck chan with
  | [] => true
  | it :: _ => s.boxFits ck chan it.words.length

/-- Phase 1 of a queue would dispatch a record, and phase 3 has none to deliver (R182). -/
def State.dispatchReady (s : State) (node slot : Nat) : Bool :=
  match s.slot? node slot with
  | none => true
  | some sl =>
    !(s.dispatchingRecs node slot).any (fun p => s.deliverable node sl p.2) &&
    ((s.waitingRecs node slot).isEmpty || s.dispatches node slot)

/-- Phase 3 of a queue has a record to deliver, or its queue has none left. -/
def State.deliverReady (s : State) (node slot : Nat) : Bool :=
  match s.slot? node slot with
  | none => true
  | some sl => (s.dispatchingRecs node slot).isEmpty || (s.dispatchingRecs node slot).any (fun p => s.deliverable node sl p.2)

/-- A REPLY of rectangle `lid` to a vat of its own is on its way. -/
def State.ownReply (s : State) (node lid : Nat) : Bool :=
  s.agenda.any (fun ev => match ev with
    | .messageAccept m => m.kind == 2 && m.lid == lid && nodeOf m.dst == node
    | _ => false)

/-- A frame that the device has accepted starts at its turn (R335). -/
def State.frameDue (s : State) (f : Frame) (waits : Bool) : Bool := !f.held || !s.host.queued.contains f || (s.host.queued.head? == some f && !waits)

/-- An event that meets the Mordant queues of a vat waits for what is on the local path there, which arrives in the cycle at hand. -/
def State.pathClear (s : State) (node : Nat) : Bool := !s.onLocalPath node

/-- What a pending event needs at its place. -/
def State.evCan (s : State) : Event → Bool
  | .neverRefusedEntry ck chan => s.entryFits ck chan
  | .rectangleEnd lid => !s.rects.any (fun r => r.lid == lid) || s.canEnd lid
  | .nearReadRequest r => !s.lineEmpty r
  | .nearStoreArrival r => !s.storeWaits r
  | .nearAtomicArrival r => !s.lineEmpty r && !s.storeWaits r
  | .nearReadReply r _ poisoned => !s.replyWaits r poisoned
  | .farReplyArrival r status _ => !s.farReplyWaits r status
  | .farMemoryAccess r => r.op != .write || !s.readPending (r.pa + r.pos) (unitLength r) r.oid
  | .farAtomicService r => !s.readPending r.pa 8 r.oid
  | .foldRequestArrival f => nodeOf f.src == nodeOf f.dst || s.pathClear (nodeOf f.dst)
  | .messageAccept m => coreOf m.dst != 2 || nodeOf m.src == nodeOf m.dst || s.pathClear (nodeOf m.dst)
  | .mqDispatch node slot => s.pathClear node && s.dispatchReady node slot
  | .dispatchDelivery node slot => s.pathClear node && s.deliverReady node slot
  | .ageTick node => s.pathClear node
  | .imageStop node lid => !s.ownReply node lid
  | .chainReserveRequest c => (s.slotOfLid c.dst c.lid).isSome
  | .walkStepCommit node => s.walkReady node
  | .xferUnit node i => (s.unitStep node i).isSome
  | .gatherStage node i => (s.stageStep node i).isSome
  | .gatherElementIssue node i => (s.issueStep node i).isSome
  | .gatherElementLand node i e => (s.landStep node i e).isSome
  | .streamFetch node u => (s.streamStep node u).isSome
  | .mcastUnit node i x => (s.mcastStep node i x).isSome
  | .glzPoint node i => (s.glzStep node i).isSome
  | .fabricArrival m => (s.arrivalStep m).isSome
  | .vatImage node lid => s.imageReady node lid
  | .resumeReserve node job => s.resumeReady node job
  | .resumeRestore job => !s.restoreWaits job
  | .peersApply => !s.fabricBusy
  | .loadFrame f => s.frameDue f (s.loadWaits f)
  | .readFrame f => s.frameDue f (s.readWaits f)
  | .launchFrame f | .peersFrame f => s.frameDue f false
  | .engineCompletion node i => s.completionFits node i
  | .launchCommit node lid => (s.launches.find? (fun l => l.lid == lid)).all (fun l => !s.commitWaits node l)
  | _ => true

/-- A pending event can happen now. -/
def State.evReady (s : State) (ev : Event) : Bool := s.evCan ev && !(!s.pauses.isEmpty && s.eventPaused ev)

/-- The event is a clock of the machine, which runs when nothing else can. (DESIGN CHOICE, log 11) -/
def isClock : Event → Bool
  | .ageTick _ | .frameResend _ => true
  | _ => false

/-- The first-in-first-out lane of an event, if it has one: messages, folds and near requests from a core to a node (R148), reserves of one
launcher, far requests from a core to a line (R210), fabric messages of a vat (R329). -/
def State.laneOf (s : State) : Event → Option (Nat × Nat × Nat)
  | .messageAccept m => some (0, m.src, nodeOf m.dst)
  | .foldRequestArrival f => some (0, f.src, nodeOf f.dst)
  | .nearReadRequest r => some (0, r.src, r.addr / 0x200000)
  | .nearStoreArrival r => some (0, r.src, r.addr / 0x200000)
  | .nearAtomicArrival r => some (0, r.src, r.addr / 0x200000)
  | .launchReserve node lid =>
    match s.launches.find? (fun l => l.lid == lid) with
    | some l => l.src.map (fun ck => (0, ck, node))
    | none => none
  | .farMemoryAccess r => some (1, r.src, r.pa / 128)
  | .farAtomicService r => some (1, r.src, r.pa / 128)
  | .fabricArrival m => if m.at'.isNone then some (2, m.src, m.node) else none
  | _ => none

/-- A waiting event lets later ones of its lane pass: a read or atomic that waits at an empty line waits alone (R206), and so does an atomic to its own vat
that waits for a tile, which the local path goes past. (DEDUCED, log 12) -/
def State.letsPass (s : State) : Event → Bool
  | .nearReadRequest r => s.lineEmpty r
  | .nearAtomicArrival r => s.lineEmpty r || (nodeOf r.src == r.addr / 0x200000 && s.storeWaits r)
  | _ => false

/-- The number of the first event of an agenda that can happen, if `ok` accepts it, with the lanes that earlier events hold. -/
def State.firstDue (s : State) (ok : Event → Bool) : List Event → Nat → List (Nat × Nat × Nat) → Option Nat
  | [], _, _ => none
  | ev :: r, n, lanes =>
    let l := s.laneOf ev
    let free := match l with
      | some x => !lanes.contains x
      | none => true
    if free && ok ev && s.evReady ev then some n
    else s.firstDue ok r (n + 1) (match l with
      | some x => if s.letsPass ev then lanes else x :: lanes
      | none => lanes)

/-- The `n`-th pending event happens. -/
def State.happen (s : State) (n : Nat) : Host.Outcome State Fault Refusal :=
  match s.agenda[n]? with
  | some ev => runEvent ev ({ s with agenda := s.agenda.eraseIdx n }.cycleOf ev)
  | none => .next s

/-- A pending event that is no clock happens, if one can. -/
def State.eventAny (s : State) : Option (Host.Outcome State Fault Refusal) :=
  (s.firstDue (fun ev => !isClock ev) s.agenda 0 []).map s.happen

/-- A clock of the machine runs, if one is pending. -/
def State.clockAny (s : State) : Option (Host.Outcome State Fault Refusal) := (s.firstDue isClock s.agenda 0 []).map s.happen

/-- The `k`-th pending event is chosen: the oldest event of its lane that can happen does, if any. -/
def State.dueAt (s : State) (k : Nat) : Host.Outcome State Fault Refusal :=
  match s.agenda[k]? with
  | none => .next s
  | some ev =>
    let same : Event → Bool := fun x => match s.laneOf ev with
      | some l => s.laneOf x == some l
      | none => x == ev
    match s.firstDue same s.agenda 0 [] with
    | some n => s.happen n
    | none => .next s

/-- One move of a given schedule. (DESIGN CHOICE, log 4; DESIGN CHOICE, log 82) -/
def State.perform (s : State) (m : Move) : Host.Outcome State Fault Refusal :=
  match m with
  | .issue ck => (s.issueOn ck).getD (.next s)
  | .due k => s.dueAt k
  | .ext ev => runEvent ev (s.cycleOf ev)
  | .keep num => .next (s.keepCopy num)
  | .keepNear num => .next (s.keepNear num)
  | .recall k i => .next (s.recallCopy k i)
  | .feed node cmd i => .next (s.feedCopy node cmd i)
  | .look node cmd p => .next (s.glzLook node cmd p)
  | .cycle node slot => .next (if s.onLocalPath node then s else s.newCycle node slot)
  | .mirrors a ws => .next { s with mirrorLists := mset s.mirrorLists a ws }

/-- What happens without a given schedule: events and issues in turn, a clock when neither can. (DESIGN CHOICE, log 5) -/
def State.auto (s : State) : Host.Outcome State Fault Refusal :=
  let r := if s.turn % 2 == 0 then (s.eventAny.orElse (fun _ => s.issueAny)) else (s.issueAny.orElse (fun _ => s.eventAny))
  (r.orElse (fun _ => s.clockAny)).getD (.next s)

end Sys2Proof.Machine
end

