-- ==== Sys2Proof/Machine/Step.lean ====
section
/-!
DEFINITION. One step of the machine, and the state whose next step runs a given word.
-/
namespace Sys2Proof.Machine
open Sys2Proof

/-- One step: the next move of the schedule, or what the machine does by itself, and the dirty bits of image units that it sets (R310). -/
def step (s : State) : Host.Outcome State Fault Refusal :=
  match match s.moves with
    | [] => { s with turn := s.turn + 1 }.auto
    | m :: ms => { s with turn := s.turn + 1, moves := ms }.perform m with
  | .next t => .next (s.noteUnits t)
  | r => r

/-- `s` with the instruction of `nbits` bits `w` where the next step fetches. (DESIGN CHOICE, log 1) -/
def State.withFetchWord (s : State) (nbits w : Nat) : State := s.placed (fetchCore (w % 2 ^ nbits)) (w % 2 ^ nbits)

end Sys2Proof.Machine
end

