-- ==== Sys2Proof/Claims.lean ====
section
/-!
DEFINITION. The terms in which the claims speak, apart from the meanings of the instructions: what a register or an operand field of the
executing handler holds, when it can be read, and what writing it or moving IP leaves.
-/
namespace Sys2Proof.Claims
open Sys2Proof Sys2Proof.Machine

/-- The executing entry is ACTIVE and its core implements extension bit `ext` (R42). -/
def running (s : State) (ext : Nat) : Bool := s.curEntry.state == .active && bitAt (feat0 s.cur.ck).toNat ext

/-- Scratchpad bytes can be read: every line is full and no word is poisoned (R206, R207). -/
def readable (s : State) (a n : Nat) : Bool := !s.hasEmpty a n && (s.poisoned a n).isNone

/-! ### Registers (R17) -/

/-- The scratchpad address of workspace offset `off` of the executing activation. -/
def work (s : State) (off : Nat) : Nat := 0x200000 * s.node + s.curEntry.wp + off

/-- The register at workspace offset `off` can be read. -/
def regOk (s : State) (off n : Nat) : Bool := readable s (work s off) n
/-- No READY or DRAINING tile-table entry covers it, so that a write of it does not wait (R223). -/
def regFree (s : State) (off n : Nat) : Bool := !s.regsHeld s.curKey off n
/-- What it holds. -/
def regVal (s : State) (off n : Nat) : Nat := s.peek (work s off) n
/-- The state with `v` in it. -/
def setReg (s : State) (off n v : Nat) : State := s.poke (work s off) n v

/-- W register `i`. -/
def wOk (s : State) (i : Nat) : Bool := regOk s (8 * i) 8
def wVal (s : State) (i : Nat) : Word := BitVec.ofNat 64 (regVal s (8 * i) 8)
def setW (s : State) (i : Nat) (v : Word) : State := setReg s (8 * i) 8 v.toNat
def wFree (s : State) (i : Nat) : Bool := regFree s (8 * i) 8
/-- M register `i`. -/
def mOk (s : State) (i : Nat) : Bool := regOk s (0x480 + 8 * i) 8
def mVal (s : State) (i : Nat) : Word := BitVec.ofNat 64 (regVal s (0x480 + 8 * i) 8)
def setM (s : State) (i : Nat) (v : Word) : State := setReg s (0x480 + 8 * i) 8 v.toNat
def mFree (s : State) (i : Nat) : Bool := regFree s (0x480 + 8 * i) 8
/-- The 25 tags of the activation: V0 to V15, T0 to T7 (R19). -/
def tags (s : State) : Nat := regVal s 0x560 16
def tagOf (s : State) (j : Nat) : Nat := fld (tags s) (5 * j) 5
def setTag (s : State) (j t : Nat) : State := setReg s 0x560 16 (setFld (tags s) (5 * j) 5 t)
/-- V register `i` with its tag can be written. -/
def vFree (s : State) (i : Nat) : Bool := regFree s (0x80 + 64 * i) 64 && regFree s 0x560 16
/-- Constant word `k` of the executing handler's rectangle slot (R20); K7 reads as the core's role (R21). -/
def kAddr (s : State) (k : Nat) : Nat := 0x200000 * s.node + (0x800 * s.curEntry.slot + 8 * k)
def kOk (s : State) (k : Nat) : Bool := readable s (kAddr s k) 8
def kWord (s : State) (k : Nat) : Word :=
  if k = 7 ∧ s.node < 2048 then BitVec.ofNat 64 s.coreNo else BitVec.ofNat 64 (s.peek (kAddr s k) 8)

/-! ### IP -/

/-- IP of the executing entry moved by `n` bytes, within 21 bits (R34). -/
def past (n : Nat) (s : State) : State := s.modEntry s.curKey (fun e => { e with ip := (e.ip + n) % 0x200000 })
/-- IP of the executing entry set. -/
def goTo (ip : Nat) (s : State) : State := s.modEntry s.curKey (fun e => { e with ip := ip })
/-- Flags raised in ST of the executing entry (R54). -/
def flagged (fs : FFlags) (s : State) : State := s.modEntry s.curKey (fun e => { e with st := e.st ||| flagBits fs })

/-! ### Operand fields (03 Table 3-11) -/

/-- What a word source field reads and the state its pop leaves: W0 to W15, the slot's oldest entry of Q0 to Q5, the head of a channel, M0 to
M7. None where it would block or a register's line is empty or poisoned. -/
def source (s : State) (f : Nat) : Option (Word × State) :=
  if f < 16 then if wOk s f then some (wVal s f, s) else none
  else if f < 32 then none
  else if f < 40 then (takeEntry s.curEntry.slot (s.queue s.node (f - 32))).map (fun p =>
    (BitVec.ofNat 64 p.1.val, s.setQueue s.node (f - 32) p.2))
  else if f < 56 then
    match s.box s.cur.ck (f - 40) with
    | [] => none
    | h :: r => some (h.val, if h.acq then (s.setBox s.cur.ck (f - 40) r).newPhase s.curKey else s.setBox s.cur.ck (f - 40) r)
  else if mOk s (f - 56) then some (mVal s (f - 56), s) else none

/-- The state after a word goes to a destination field; none where a queue has no room, or a register's line is held by a tile. -/
def dest (s : State) (f : Nat) (v : Word) : Option State :=
  if f < 16 then if wFree s f then some (setW s f v) else none
  else if f < 32 then none
  else if f < 40 then
    if s.hasRoom s.node (f - 32) then
      some (s.setQueue s.node (f - 32) (s.queue s.node (f - 32) ++ [⟨s.curEntry.slot, 0, v.toNat⟩]))
    else none
  else if mFree s (f - 56) then some (setM s (f - 56) v) else none

/-- What V register `n` reads, tag and bytes, and the state the read leaves: the workspace register, or the next strip of the stream unit that
feeds it (R260), which zeros follow after an end for want of memory (R259), uncounted after a fail (R257). -/
def vRead (s : State) (n : Nat) : Option (VVal × State) :=
  match s.streamFor n with
  | none => if regOk s (0x80 + 64 * n) 64 then some (⟨tagOf s n, regVal s (0x80 + 64 * n) 64⟩, s) else none
  | some u =>
    match u.fetched with
    | x :: r =>
      let u' := { u with fetched := r, popped := u.popped + 1 }
      some (⟨fld (u.desc.getD 3 0) 32 5, x⟩,
        if u.popped + 1 = stripCount u ∧ u.ended = false then s.streamOff s.node (n - 12) u' else s.setStrm s.node (n - 12) u')
    | [] =>
      if u.ended then some (⟨fld (u.desc.getD 3 0) 32 5, 0⟩, s.setStrm s.node (n - 12) { u with popped := if u.status == 3 then u.popped else u.popped + 1 }) else none

/-- What a V source field reads and the state it leaves: V0 to V15, or the slot's oldest entry of Q6 or Q7. -/
def vSourceOf (s : State) (f : Nat) : Option (VVal × State) :=
  if f < 32 then vRead s (f - 16)
  else (takeEntry s.curEntry.slot (s.queue s.node (f - 32))).map (fun p => (⟨p.1.tag, p.1.val⟩, s.setQueue s.node (f - 32) p.2))

/-- The state after 64 bytes go whole to a V destination field under a tag. -/
def vDestOf (s : State) (f t v : Nat) : Option State :=
  if f < 32 then if vFree s (f - 16) then some (setTag (setReg s (0x80 + 64 * (f - 16)) 64 v) (f - 16) t) else none
  else if s.hasRoom s.node (f - 32) then
    some (s.setQueue s.node (f - 32) (s.queue s.node (f - 32) ++ [⟨s.curEntry.slot, t, v⟩]))
  else none

/-- Lanes of `n` bytes written from workspace offset `off` up, lane by lane, the absent ones left as they are. -/
def setLanes (n off : Nat) : State → Nat → List (Option Nat) → State
  | s, _, [] => s
  | s, i, none :: r => setLanes n off s (i + 1) r
  | s, i, some v :: r => setLanes n off (setReg s (off + n * i) n v) (i + 1) r

/-- The state after lanes of `n` bytes go to a V destination field under a tag: inactive lanes keep their bytes in a register and are zero in a
queue entry (R69). -/
def vLanesTo (s : State) (f t n : Nat) (ls : List (Option Nat)) : Option State :=
  if f < 32 ∧ ls.any (·.isNone) then
    if vFree s (f - 16) then some (setTag (setLanes n (0x80 + 64 * (f - 16)) s 0 ls) (f - 16) t) else none
  else vDestOf s f t (packFields (8 * n) (ls.map (·.getD 0)))

/-- Lane `i` takes part under mask field `mk` (R39, R67): M0 names no mask. -/
def active (s : State) (mk i : Nat) : Bool := mk == 0 || (i < 64 && bitAt (mVal s mk).toNat i)
/-- The mask can be read. -/
def maskOk (s : State) (mk : Nat) : Bool := mk == 0 || mOk s mk

/-- A word destination field can be written: a queue is not full, a register not held. -/
def canTake (s : State) (f : Nat) : Bool := (dest s f 0).isSome
/-- A V destination field can be written. -/
def vCanTake (s : State) (f : Nat) : Bool := (vDestOf s f 0 0).isSome

/-! ### The scalar tables (03 Table 3-2, 05 Table 5-1, R72) -/

/-- The signed remainder and the other results of Table 5-1, as operations on 64-bit words. -/
def mulHigh (a b : Word) : Word := BitVec.ofInt 64 (a.toInt * b.toInt / 2 ^ 64)
def mulHighU (a b : Word) : Word := BitVec.ofNat 64 (a.toNat * b.toNat / 2 ^ 64)
def quotS (a b : Word) : Word := if b = 0 then BitVec.allOnes 64 else BitVec.ofInt 64 (a.toInt.tdiv b.toInt)
def quotU (a b : Word) : Word := if b = 0 then BitVec.allOnes 64 else BitVec.ofNat 64 (a.toNat / b.toNat)
def remS (a b : Word) : Word := if b = 0 then a else BitVec.ofInt 64 (a.toInt.tmod b.toInt)
def remU (a b : Word) : Word := if b = 0 then a else BitVec.ofNat 64 (a.toNat % b.toNat)
def andNot (a b : Word) : Word := a &&& ~~~b
def shiftLeft (a b : Word) : Word := BitVec.ofNat 64 (a.toNat * 2 ^ b.toNat)
def shiftRight (a b : Word) : Word := BitVec.ofNat 64 (a.toNat / 2 ^ b.toNat)
def shiftArith (a b : Word) : Word := BitVec.ofInt 64 (a.toInt / 2 ^ b.toNat)
def rotate (a b : Word) : Word := a >>> (b.toNat % 64) ||| a <<< (64 - b.toNat % 64)
def least (a b : Word) : Word := if a.toInt < b.toInt then a else b
def greatest (a b : Word) : Word := if a.toInt < b.toInt then b else a
def leastU (a b : Word) : Word := if a.toNat < b.toNat then a else b
def greatestU (a b : Word) : Word := if a.toNat < b.toNat then b else a
def below (a b : Word) : Word := if a.toInt < b.toInt then 1 else 0
def belowU (a b : Word) : Word := if a.toNat < b.toNat then 1 else 0
def same (a b : Word) : Word := if a = b then 1 else 0
def extended (a b : Word) : Word := if 63 ≤ b.toNat then a else BitVec.ofInt 64 (Int.bmod a.toNat (2 ^ (b.toNat + 1)))
/-- AXY. -/
def nearAddress (a b : Word) : Word :=
  BitVec.ofNat 64 (b.toNat % 64 * 2 ^ 26 + b.toNat / 64 % 32 * 2 ^ 21 + a.toNat % 2 ^ 21)
/-- AREL, from the identity words K0 and K1. -/
def relativeAddress (k0 k1 a b : Word) : Word :=
  let x : Int := k0.toNat + Int.bmod b.toNat 256
  let y : Int := k1.toNat + Int.bmod (b.toNat / 256) 256
  if 0 ≤ x ∧ x ≤ 63 ∧ 0 ≤ y ∧ y ≤ 31 then
    BitVec.ofNat 64 (x.toNat * 2 ^ 26 + y.toNat * 2 ^ 21 + a.toNat % 2 ^ 21)
  else BitVec.allOnes 64

/-- The instructions with two sources, form A. -/
def twoSources : List ((Nat → Nat → Nat → Instr) × (Word → Word → Word)) := [
  (.add, fun a b => a + b), (.sub, fun a b => a - b), (.mul, fun a b => a * b), (.mulh, mulHigh), (.mulhu, mulHighU),
  (.div, quotS), (.divu, quotU), (.rem, remS), (.remu, remU), (.and, fun a b => a &&& b), (.or, fun a b => a ||| b),
  (.xor, fun a b => a ^^^ b), (.andn, andNot), (.shl, shiftLeft), (.shr, shiftRight), (.sar, shiftArith), (.ror, rotate),
  (.min, least), (.max, greatest), (.minu, leastU), (.maxu, greatestU), (.slt, below), (.sltu, belowU), (.seq, same),
  (.sext, extended), (.axy, nearAddress)]

/-- The instructions whose second source is a constant word, form K. -/
def constantForms : List ((Nat → Nat → Nat → Instr) × (Word → Word → Word)) := [
  (.addK, fun a b => a + b), (.subK, fun a b => a - b), (.mulK, fun a b => a * b), (.mulhK, mulHigh), (.andK, fun a b => a &&& b),
  (.orK, fun a b => a ||| b), (.xorK, fun a b => a ^^^ b), (.andnK, andNot), (.minK, least), (.maxK, greatest), (.minuK, leastU),
  (.maxuK, greatestU), (.sltK, below), (.sltuK, belowU), (.seqK, same), (.divK, quotS), (.divuK, quotU), (.axyK, nearAddress)]

/-- The shifts by a count in the instruction. -/
def countForms : List ((Nat → Nat → Nat → Instr) × (Word → Word → Word)) := [
  (.shlImm, shiftLeft), (.shrImm, shiftRight), (.sarImm, shiftArith), (.rorImm, rotate)]

/-- The instructions with one source: what the result `r` of `a` is. -/
def oneSource : List ((Nat → Nat → Instr) × (Word → Word → Prop)) := [
  (.mov, fun a r => r = a),
  (.clz, fun a r => r.toNat ≤ 64 ∧ (∀ i < r.toNat, a.getMsbD i = false) ∧ (r.toNat < 64 → a.getMsbD r.toNat = true)),
  (.ctz, fun a r => r.toNat ≤ 64 ∧ (∀ i < r.toNat, a.getLsbD i = false) ∧ (r.toNat < 64 → a.getLsbD r.toNat = true)),
  (.popc, fun a r => r.toNat = ((List.range 64).filter (fun i => a.getLsbD i)).length),
  (.bswap, fun a r => ∀ i < 8, fld r.toNat (8 * i) 8 = fld a.toNat (8 * (7 - i)) 8)]

/-- The 16-bit operations of two operands on W registers: d op b (Table 3-2). -/
def shortTwo : List ((Nat → Nat → Nat → Instr) × (Word → Word → Word)) := [
  (.add16, fun d b => d + b), (.sub16, fun d b => d - b), (.mul16, fun d b => d * b), (.min16, least), (.max16, greatest),
  (.and16, fun d b => d &&& b), (.or16, fun d b => d ||| b), (.xor16, fun d b => d ^^^ b), (.andn16, andNot),
  (.shl16, shiftLeft), (.shr16, shiftRight), (.sar16, shiftArith)]

/-- The 16-bit operations of one operand on W registers. -/
def shortOne : List ((Nat → Nat → Nat → Instr) × (Word → Word)) := [
  (.neg16, fun b => 0 - b), (.abs16, fun b => if b.toInt < 0 then 0 - b else b), (.not16, fun b => ~~~b)]

/-- The condition of each form B branch (Table 5-2). -/
def branches : List ((Nat → Nat → Nat → Instr) × (Word → Word → Bool)) := [
  (.beq, fun a b => a == b), (.bne, fun a b => a != b), (.blt, fun a b => a.toInt < b.toInt), (.bge, fun a b => b.toInt ≤ a.toInt),
  (.bltu, fun a b => a.toNat < b.toNat), (.bgeu, fun a b => b.toNat ≤ a.toNat)]

/-- The target of a branch at `ip` with a displacement field of `n` bits: (IP + 2 · disp) mod 2^21 (R36). -/
def branchTo (ip n disp : Nat) : Nat := (((ip : Int) + 2 * Int.bmod disp (2 ^ n)) % 2 ^ 21).toNat

/-! ### Float values (04) -/

/-- The value `± m · 2^e` in units of `2^g`. -/
def unitsOf (neg : Bool) (m : Nat) (e g : Int) : Int := (if neg then -1 else 1) * ((m * 2 ^ (e - g).toNat : Nat) : Int)
/-- The magnitude `a / u` of a value of sign `neg` rounds to `q` under rounding mode `rm` (R53). -/
def roundsTo (rm : Nat) (neg : Bool) (a u q : Nat) : Prop :=
  let down := q * u ≤ a ∧ a < (q + 1) * u
  let up := a ≤ q * u ∧ q * u < a + u
  match rm with
  | 0 => 2 * q * u ≤ 2 * a + u ∧ 2 * a ≤ 2 * q * u + u ∧ (2 * a + u = 2 * q * u ∨ 2 * a = 2 * q * u + u → q % 2 = 0)
  | 1 => down
  | 2 => if neg then down else up
  | _ => if neg then up else down

/-! ### Vector instructions (05 R76 to R87) -/

/-- The register that a relative field V[Wn+k] names (R28, R41). -/
def relReg (s : State) (f : Nat) : Option Nat :=
  let i : Int := (wVal s (f % 16)).toInt + (f / 16 : Nat)
  if wOk s (f % 16) = true ∧ 0 ≤ i ∧ i < (s.curEntry.vregs : Int) then some i.toNat else none

/-- The b operand of a lane instruction, once operand a of tag `tg` has been read from `s` and left `s1` (R76): a V field, a constant word or a
count in every lane, a relative register. -/
def bReads (s s1 : State) (b : BSrc) (tg : Nat) : Option (VVal × State) :=
  match b with
  | .field f => if vSource s f then vSourceOf s1 f else none
  | .rel f => (relReg s f).bind (vRead s1)
  | .const k => if kOk s1 k then some (⟨tg, packFields (elemBits tg) (List.replicate (lanesOf tg) (kWord s1 k).toNat)⟩, s1) else none
  | .imm c => some (⟨tg, packFields (elemBits tg) (List.replicate (lanesOf tg) c)⟩, s1)

/-- The lane instructions of Table 5-3 with their forms. -/
def laneForms : List ((Nat → Nat → Nat → Nat → Instr) × LaneOp × (Nat → BSrc)) := [
  (.vadd, .add, .field), (.vsub, .sub, .field), (.vmul, .mul, .field), (.vdiv, .div, .field), (.vmin, .min, .field), (.vmax, .max, .field),
  (.vfma, .fma, .field), (.vfms, .fms, .field), (.vand, .and, .field), (.vor, .or, .field), (.vxor, .xor, .field), (.vandn, .andn, .field),
  (.vshl, .shl, .field), (.vshr, .shr, .field), (.vsar, .sar, .field),
  (.vaddK, .add, .const), (.vsubK, .sub, .const), (.vmulK, .mul, .const), (.vfmaK, .fma, .const), (.vminK, .min, .const),
  (.vmaxK, .max, .const), (.vandK, .and, .const), (.vorK, .or, .const), (.vxorK, .xor, .const), (.vandnK, .andn, .const),
  (.vshlImm, .shl, .imm), (.vshrImm, .shr, .imm), (.vsarImm, .sar, .imm),
  (.vaddRel, .add, .rel), (.vsubRel, .sub, .rel), (.vmulRel, .mul, .rel), (.vdivRel, .div, .rel), (.vminRel, .min, .rel),
  (.vmaxRel, .max, .rel), (.vfmaRel, .fma, .rel), (.vfmsRel, .fms, .rel), (.vandRel, .and, .rel), (.vorRel, .or, .rel),
  (.vxorRel, .xor, .rel), (.vandnRel, .andn, .rel), (.vshlRel, .shl, .rel), (.vshrRel, .shr, .rel), (.vsarRel, .sar, .rel)]

/-- The 16-bit operations on V registers (Table 3-2). -/
def shortLanes : List ((Nat → Nat → Nat → Instr) × LaneOp) := [
  (.add16, .add), (.sub16, .sub), (.mul16, .mul), (.min16, .min), (.max16, .max), (.and16, .and), (.or16, .or), (.xor16, .xor),
  (.andn16, .andn), (.shl16, .shl), (.shr16, .shr), (.sar16, .sar), (.neg16, .neg), (.abs16, .abs), (.not16, .not)]

/-- The lane results of an operation under a tag with lanes of `elemBits tg` bits; inactive lanes have none. -/
def laneList (s : State) (op : LaneOp) (mk tg x y z : Nat) : List (Option (Nat × FFlags)) :=
  (List.range (lanesOf tg)).map (fun i =>
    if active s mk i then
      some (laneOp op (stRM s.curEntry.st) tg (laneAt (elemBits tg) x i) (laneAt (elemBits tg) y i) (laneAt (elemBits tg) z i) false)
    else none)

/-- The flags of some lane results together. -/
def flagsOf (ls : List (Option (Nat × FFlags))) : FFlags := allFlags (ls.filterMap (·.map (·.2)))

/-- The compares with their forms (R79). -/
def compareForms : List ((Nat → Nat → Nat → Nat → Instr) × LaneRel × (Nat → BSrc)) := [
  (.vcmpeq, .eq, .field), (.vcmplt, .lt, .field), (.vcmple, .le, .field), (.vcmpeqK, .eq, .const), (.vcmpltK, .lt, .const),
  (.vcmpleK, .le, .const), (.vcmpeqRel, .eq, .rel), (.vcmpltRel, .lt, .rel), (.vcmpleRel, .le, .rel)]

/-! ### Local memory (05 R90 to R92) -/

/-- Byte `off` of its own vat as the executing handler of a vat loads it: its own window with the role in place of K7's stored zero, zero in
the other windows (R20, R21). -/
def loadByte (s : State) (off : Nat) : Nat :=
  if off < 0x2000 then
    if off / 0x800 = s.curEntry.slot then if off % 0x800 = 0x38 ∧ s.node < 2048 then s.coreNo else spByteAt s (0x200000 * s.node + off) else 0
  else spByteAt s (0x200000 * s.node + off)
where
  spByteAt (s : State) (a : Nat) : Nat := s.peek a 1

/-- Local bytes can be loaded: those of another slot's window always. -/
def loadOk (s : State) (off n : Nat) : Bool :=
  (off < 0x2000 && off / 0x800 != s.curEntry.slot) || readable s (0x200000 * s.node + off) n

/-- The address W[base] + displacement × size of a local access (R90). -/
def localAddr (s : State) (b i n : Nat) : Int := ((wVal s b).toNat : Int) + Int.bmod i 1024 * n

/-! ### What memory shows -/

/-- One byte of scratchpad, far memory or an accumulator bank. -/
def spByte (s : State) (a : Nat) : Nat := s.peek a 1
def farByte (s : State) (a : Nat) : Nat := loadN zeroFill s.far a 1
def accByte (s : State) (a : Nat) : Nat := loadN zeroFill s.accMem a 1

/-- An address lies outside `n` bytes from `a`. -/
def outside (b a n : Nat) : Prop := b < a ∨ a + n ≤ b

/-! ### Tiles, handles and the array (06) -/

/-- Z register `i`. -/
def zOk (s : State) (i : Nat) : Bool := regOk s (0x540 + 4 * i) 4
def zFree (s : State) (i : Nat) : Bool := regFree s (0x540 + 4 * i) 4
def setZ (s : State) (i v : Nat) : State := setReg s (0x540 + 4 * i) 4 v
/-- Z register `i` names a live run of the executing activation, by its first bank (R103). -/
def names (s : State) (i first : Nat) (r : Run) : Prop :=
  zOk s i = true ∧ s.liveRun (regVal s (0x540 + 4 * i) 4) = some (first, r)
/-- The tile that T register `i` describes. -/
def tOk (s : State) (i : Nat) : Bool := regOk s (0x4C0 + 16 * i) 16
def tile (s : State) (i : Nat) : TileD := tileDesc (regVal s (0x4C0 + 16 * i) 16) (tagOf s (16 + i))
/-- The array holds no instruction on the run (R110). -/
def arrayClear (s : State) (first : Nat) : Prop := ∀ j, mget? s.arrays s.node = some j → j.run ≠ first
/-- Banks `b` to `b + c - 1` of the executing vat belong to no run. -/
def banksFree (s : State) (b c : Nat) : Prop := ∀ p ∈ s.runs, p.1 / 128 = s.node → p.1 % 128 + p.2.count ≤ b ∨ b + c ≤ p.1 % 128
/-- What TSET accepts (R100): a full tile, a plane tile or a progress tile. -/
def tileAccepted (d : TileD) : Prop :=
  d.clean = true ∧ 0x2000 ≤ d.base ∧ d.base + tileExtent d ≤ 0x200000 ∧
  ((d.kind = 0 ∧ isMatTag d.tag = true ∧ d.rows ≤ 31 ∧ d.base % 64 = 0 ∧ (d.stride = 0 ∨ (packedRow d.tag ≤ d.stride ∧ d.stride % 8 = 0))) ∨
   (d.kind = 1 ∧ isMatTag d.tag = true ∧ d.stride = 0 ∧ d.base % 128 = 0) ∨
   (d.kind = 2 ∧ d.tag = 0x15 ∧ d.rows ≤ 31 ∧ d.cols = 0 ∧ d.stride = 0 ∧ d.base % 128 = 0))
/-- T register `i` holds a ready tile `d` of a kind. -/
def readyTile (s : State) (i kind : Nat) (d : TileD) : Prop :=
  tOk s i = true ∧ tile s i = d ∧ d.kind = kind ∧ tileAccepted d ∧ s.tileReady s.node s.curEntry.slot d = true

/-! ### The tree walk (07) -/

/-- The counts that a walk puts into W0 (Table 7-8): the rows of each status and those with PSN, among `n` records at scratchpad address `a`. -/
def walkCounts (s : State) (a n : Nat) : Nat :=
  let has := fun (f : Nat → Bool) => ((List.range n).filter (fun row => f (s.peek (a + 16 * row) 16))).length
  let status := fun (v : Nat) => has (fun x => fld x 58 2 == v)
  status 0 + status 1 * 2 ^ 8 + status 2 * 2 ^ 16 + status 3 * 2 ^ 24 + has (fun x => bitAt x 57) * 2 ^ 32
/-- The state in which the walk of array job `j` has retired with `sum` in W0 (R137). -/
def walkEnds (s : State) (node : Nat) (j : ArrayJob) (sum : Nat) : State :=
  let u := s.leaveArray node j
  (u.poke (0x200000 * node + (u.entry j.ent).wp) 8 sum).modEntry j.ent
    (fun e => { e with state := .active, wait := .none, ip := (e.ip + 4) % 0x200000 })
/-- What follows the commit of a step of walk `w` that left `u` (R128, R131, R136): a walk-fault trap where the row faulted with `code` and traps are
on; WSTEP retires, or waits for the line of W0; WALK makes its next step, with the headers `hdrs` that this one has read from memory in its node
cache (R134). -/
def walkGoes (u : State) (node : Nat) (j : ArrayJob) (w : WalkJob) (hdrs : List (Nat × Option (List Nat))) (row code : Nat) : State :=
  let p := tileDesc w.p 0x15
  if code ≠ 0 ∧ w.traps = true then ((u.leaveArray node j).unblock j.ent).takeTrap j.ent 0x0C (row + 32 * code) false
  else if w.single then
    if u.walkHeld node j then (u.modWalk node (fun w => { w with stepped := true })).later (.walkStepCommit node)
    else walkEnds u node j (walkCounts u (0x200000 * node + p.base) (p.rows + 1))
  else (u.modWalk node (fun w => { w with log := [], set := none, cache := cacheAfter w.cache hdrs })).later (.walkStepCommit node)
/-- The commit of one row (R128): its record, and the flags. -/
def rowCommit (s : State) (a bits k : Nat) (fl : FFlags) : State := (s.poke a 16 bits).modEntry k (fun e => { e with st := e.st ||| flagBits fl })
/-- The walk of entry `k` on vat `node` reads the `n` bytes at `a` as they stand: they are its own vat's, or no store of its handler to that vat is on
its way and it has no granule of them from its phase (R231 COHERENCE). -/
def walkFresh (s : State) (k node a n : Nat) : Prop :=
  a / 0x200000 = node ∨ (s.agenda.any (storeInFlight k (a / 0x200000)) = false ∧
    ∀ g ∈ (s.entry k).snap, g.phase = (s.entry k).phase → g.far = false → g.num < a / 64 ∨ (a + n - 1) / 64 < g.num)
/-- What such a read leaves: of another vat, the handler has now seen its bytes of this time (log 97). -/
def walkSees (s : State) (k node a : Nat) : State := if a / 0x200000 = node then s else s.nearSeen k (a / 0x200000)
/-- A near pointer of a node, matrix or child table (R116), whose `n` bytes begin at scratchpad address `a`. -/
def nearPointer (p a n al : Nat) : Prop :=
  p < 2 ^ 32 ∧ a = 0x200000 * (p / 2 ^ 21 % 32 * 64 + p / 2 ^ 26) + p % 0x200000 ∧ 0x2000 ≤ p % 0x200000 ∧ p % 0x200000 + n ≤ 0x200000 ∧ p % al = 0

/-! ### Messages (09) -/

/-- An outstanding slot taken by the executing handler (R156); `msg`: for a message or fold; `fold`: for a fold. -/
def slotTaken (msg : Bool) (s : State) (fold : Bool := false) : State :=
  ({ s with oids := s.oids + 1 } : State).modCore s.cur.ck (fun c => { c with outs := c.outs ++ [⟨s.oids, s.curLid, s.cur.ent, msg, fold⟩] })
/-- One of the eight slots of the executing core is free. -/
def slotFree (s : State) : Bool := (s.core s.cur.ck).outs.length < 8
/-- W registers `b` to `b + n - 1`. -/
def wList (s : State) (b n : Nat) : List Word := (List.range n).map (fun i => wVal s (b + i))
/-- The reply tag of SENDR from channel `c` of the executing core of a vat (R158): RT, CHAN, CORE, Y, X. -/
def replyTag (s : State) (c : Nat) : Word :=
  BitVec.ofNat 64 (2 ^ 30 + c * 2 ^ 20 + s.coreNo * 2 ^ 16 + s.node / 64 * 2 ^ 8 + s.node % 64)
/-- The words of a message as they stand in a mailbox, the last one marked (R150); `acq`: their pop is an acquire. -/
def inBox (acq : Bool) (ws : List Word) : List BoxWord := (List.range ws.length).map (fun i => ⟨ws.getD i 0, i + 1 == ws.length, acq⟩)
/-- A channel has room for `n` words, beside those that blocked instructions have popped from it and may put back, and nothing waits for it. -/
def roomFor (s : State) (ck c n : Nat) : Prop := s.waiting ck c = [] ∧ (s.box ck c).length + s.chanHeld ck c + n ≤ 16
/-- The words of the executing vat's scratchpad from offset `a` on. -/
def wordsAt (s : State) (a n : Nat) : List Nat := (List.range n).map (fun i => s.peek (0x200000 * s.node + a + 8 * i) 8)

/-! ### Launches (09 R169, R170) -/

/-- The run of `n` banks from `b` that none of the holders of a vat's resources has. -/
def bankRun (hs : List (List Nat × Nat)) (n b : Nat) : Prop :=
  b + n ≤ 128 ∧ ∀ h ∈ hs, let k := fld (h.1.getD 1 0) 20 8
    k = 0 ∨ h.2 + k ≤ b ∨ b + n ≤ h.2
/-- Every workspace in use lies in its vat's scratchpad above the windows (R17, R168). -/
def workspacesPlaced (s : State) : Prop := ∀ p ∈ s.entries, ∀ w ∈ p.2.spaces, 0x2000 ≤ w ∧ w + 2048 ≤ 0x200000

/-! ### Memory requests (12) -/

/-- The word that an atomic writes for old value `x`, if any (R217). -/
def atomicWord (op : MemOp) (x cmp v : Word) : Option Word :=
  match op with
  | .read => none
  | .write | .swap => some v
  | .cas => if x = cmp then some v else none
  | .add => some (x + v)
  | .and => some (x &&& v)
  | .or => some (x ||| v)
  | .xor => some (x ^^^ v)
  | .min => some (if v.toInt < x.toInt then v else x)
  | .max => some (if x.toInt < v.toInt then v else x)
  | .minu => some (if v.toNat < x.toNat then v else x)
/-- A far address word whose bits 63 to 57 all equal bit 56 (R209), and not the result of an AREL that leaves the mesh (R201). -/
def farForm (x : Word) : Prop := x ≠ BitVec.allOnes 64 ∧ ∀ i, 57 ≤ i → i < 64 → x.getLsbD i = x.getLsbD 56
/-- What the request word of RDF and WRF must be (R213): no reserved bit, no SIZE 3. -/
def farRequest (w : Nat) : Prop := w < 2 ^ 32 ∧ w / 2 ^ 10 % 2 ^ 6 = 0 ∧ w / 2 ^ 4 % 2 ^ 4 = 0 ∧ w / 2 ^ 8 % 4 ≠ 3
/-- The bytes of SIZE (Table 12-4). -/
def farBytes (w : Nat) : Nat := if w / 2 ^ 8 % 4 = 0 then 8 else if w / 2 ^ 8 % 4 = 1 then 16 else 64
/-- The far request that the executing handler sends in state `s`. -/
def farReqOf (s : State) (op : MemOp) (x : Word) (pa n data cmp : Nat) (replyTo : ReplyTo) : FarReq :=
  { src := s.cur.ck, ent := s.cur.ent, op := op, va := x.toNat % 2 ^ 57, pa := pa, size := n, data := data, cmp := cmp, replyTo := replyTo,
    lid := s.curLid, oid := s.oids, phase := s.curEntry.phase }
/-- The number of the 16-byte granules that `n` bytes at `pa` meet. -/
def granules (pa n : Nat) : Nat := (pa + n - 1) / 16 + 1 - pa / 16
/-- The state in which a far request of `n` bytes leaves: its translation used, its slot taken, and for a write the snapshot of its granules ended. -/
def farLeaves (s : State) (k pa n : Nat) (writes : Bool) : State :=
  let t := slotTaken false (s.touchTlb k)
  if writes then t.dropGranules t.curKey true (pa / 16) (granules pa n) else t
/-- The executing handler waits for the reply of outstanding slot `oid`; the word that operand field `f` popped from `s0` is kept, for a trap or a
stop puts it back (R16, R28). -/
def waitsReply (s0 : State) (f oid : Nat) (s : State) : State :=
  (s.modEntry s.curKey (fun e => { e with taken := s0.poppedBy f })).blockEntry s.curKey (.reply oid)
/-- The state in which the blocked instruction of entry `k` has retired. -/
def retired (k : Nat) (s : State) : State :=
  s.modEntry k (fun e => { e with state := .active, wait := .none, ip := (e.ip + 4) % 0x200000 })
/-- What a write of far request `r` to `n` bytes at `pa` leaves of the granules that reads of its handler in flight have fixed for its phase or an
earlier one: none of those written. The handler reads no earlier value of the granule of `pa` from then on, and the values kept of those written are
older than a write of this handler. -/
def fixedEnds (s : State) (r : FarReq) (pa n : Nat) : State :=
  (s.modEntry (32 * r.src + r.ent) (fun e => { e with
    snap := e.snap.filter (fun g => !(g.far && g.phase ≤ r.phase && pa / 16 ≤ g.num && g.num < pa / 16 + granules pa n))
    wroteAt := mset e.wroteAt (pa / 16) (s.turn + 1) })).farWrote (.handler r.lid (32 * r.src + r.ent)) pa n
/-- The far granule with address `pa` as it stands. -/
def farNow (s : State) (phase pa : Nat) : Granule :=
  ⟨phase, true, pa / 16, s.farWords (pa / 16 * 16) 2, marksIn s.farPoison (pa / 16 * 16 / 8) 2⟩
/-- The atomics with their operations. -/
def atomics : List ((Nat → Nat → Nat → Instr) × MemOp) := [
  (.cas, .cas), (.amoAdd, .add), (.amoAnd, .and), (.amoOr, .or), (.amoXor, .xor), (.amoMin, .min), (.amoMax, .max), (.amoMinu, .minu),
  (.amoSwap, .swap)]

/-! ### Engines (15) -/

/-- A control word that is not bad (R254), with LEN from `lo` to `hi`; `arm`: ARMV may be 1. -/
def goodControl (s : State) (c : Word) (lo hi : Nat) (arm : Bool) : Prop :=
  let w := c.toNat
  let e := s.tile s.node (w / 2 ^ 33 % 64)
  w / 2 ^ 32 % 2 = 0 ∧ w / 2 ^ 14 % 4 = 0 ∧ w / 2 ^ 4 % 4 ≤ 2 ∧ (w / 2 ^ 4 % 4 = 2 → w % 16 ≠ 0 ∧ s.ownsChan (w % 16) = true) ∧
  (w / 2 ^ 4 % 4 = 1 → s.ownsSem (w % 16) = true) ∧ w / 2 ^ 11 % 8 ≤ 5 ∧ w / 2 ^ 7 % 8 ≤ 5 ∧
  (c.getLsbD 39 = true → arm = true ∧ e.v = true ∧ e.slot = s.curEntry.slot) ∧ lo ≤ w / 2 ^ 40 ∧ w / 2 ^ 40 ≤ hi
/-- An address word of R216 that is a multiple of `al`; a near one names `n` bytes of its vat from 0x2000 up. -/
def engineRange (x : Word) (al n : Nat) : Prop :=
  x.toNat % al = 0 ∧
  ((x.getLsbD 63 = true ∧ ∀ i, 57 ≤ i → i < 63 → x.getLsbD i = x.getLsbD 56) ∨
   (x.toNat < 2 ^ 32 ∧ 0x2000 ≤ x.toNat % 0x200000 ∧ x.toNat % 0x200000 + n ≤ 0x200000))
/-- Slot `i` is the lowest free command slot of the executing vat (R256). -/
def freeSlotOf (s : State) (i : Nat) : Prop := i < 8 ∧ s.cmd? s.node i = none ∧ ∀ j < i, s.cmd? s.node j ≠ none
/-- The handler's writes that have left are performed (R233, R235), its folds among them (R318). -/
def drained (s : State) : Prop := (∀ ev ∈ s.agenda, writeInFlight s.curKey ev = false) ∧ s.foldInFlight s.curKey = false
/-- ACQ of a control word holds no command back (R236). -/
def acquires (s : State) (c : Word) : Prop := c.getLsbD 10 = true → drained s
/-- The state after the release step that ACQ makes, of its own scope (R230, R236). -/
def acquired (s : State) (c : Word) : State := if c.getLsbD 10 then s.releaseScope (c.toNat / 2 ^ 11 % 8) 0 else s
/-- The count of releases that a command's reads follow: those up to its own acquire with ACQ, else up to the last one of the activation (R236). -/
def relCount (s : State) (c : Word) : Nat := if c.getLsbD 10 then s.rels else s.curEntry.relAt
/-- The state in which command `c` has started in slot `i`, with its first events. -/
def started (s : State) (i : Nat) (c : Cmd) (evs : List Event) : State :=
  { s.setCmd s.node i { c with lid := s.curLid, ent := s.cur.ent, order := s.turn, relAt := relCount s c.ctl } with agenda := s.agenda ++ evs }
/-- Command `i` of a vat is `c`, it waits for nothing, its slot is not stopped, and no link is paused for retraining (R358). -/
def works (s : State) (node i : Nat) (c : Cmd) : Prop :=
  s.cmd? node i = some c ∧ c.wait = .none ∧ s.pauses = [] ∧ ∀ p, s.slotOfLid node c.lid = some p → p.2.stopped = false
/-- Bytes that a copy writes together at its place: an aligned near 64-byte unit that its range covers, but one of a near range of one vat less than 64
bytes above its source; else 16. -/
def copyUnit (c : Cmd) : Nat :=
  let x := c.src.toNat
  let y := c.dst.toNat
  if y < 2 ^ 32 ∧ (y + c.pos) % 64 = 0 ∧ c.pos + 64 ≤ c.limit ∧ ¬ (x < 2 ^ 32 ∧ x / 2 ^ 21 = y / 2 ^ 21 ∧ x < y ∧ y < x + 64) then 64 else 16
/-- A near address word whose `n` bytes begin at scratchpad address `a`. -/
def nearAt (x : Word) (a n : Nat) : Prop :=
  x.toNat < 2 ^ 32 ∧ a = 0x200000 * (x.toNat / 2 ^ 21 % 32 * 64 + x.toNat / 2 ^ 26) + x.toNat % 0x200000 ∧ x.toNat % 0x200000 + n ≤ 0x200000
/-- No tile-table entry in use meets scratchpad bytes. -/
def untracked (s : State) (a n : Nat) : Prop := s.tilesMeeting (a / 0x200000) (a % 0x200000) n = []
/-- Scratchpad bytes that an engine reads at once. -/
def ready (s : State) (a n : Nat) : Prop := readable s a n = true ∧ untracked s a n

/-! ### Traps (02 R29, 19 R303) -/

/-- EH of the executing slot on the executing core. -/
def eh (s : State) : Word := mget (s.core s.cur.ck).eh s.curEntry.slot 0
/-- A trap of the executing activation enters its slot's handler at once (R29, R303): ST.IT is 0, EH.V is 1, no other activation of the slot
on the core runs a trap handler, and no tile holds the line of the saved words (R223), nor a line of the handler's workspace that must be cleaned. -/
def handled (s : State) : Prop :=
  s.cur.ent < 32 ∧ s.curEntry.st.getLsbD 15 = false ∧ (eh s).getLsbD 32 = true ∧ s.otherTrap s.curKey = false ∧ regFree s 0x570 16 = true ∧
  s.cleanWaits s.node ((eh s).toNat / 2 ^ 54 * 2048) = false
/-- The state after the entry sequence of R29: IP and ST saved at 0x570 and 0x578 of the workspace; ST with RWP, CAUSE, INFO, IT; WP and IP from
EH. RES bits of the workspace that WP then names read as zero (R2, R4; log 86). -/
def entered (s : State) (cause info savedIp : Nat) : State :=
  let base := work s 0
  (((s.poke (base + 0x570) 8 savedIp).poke (base + 0x578) 8 s.curEntry.st.toNat).scrub s.node ((eh s).toNat / 2 ^ 54 * 2048)).modEntry s.curKey (fun e => { e with
    state := .active
    wait := .none
    st := BitVec.ofNat 64 (e.wp / 2048 * 2 ^ 54 + cause * 2 ^ 48 + info % 2 ^ 24 * 2 ^ 24 + 2 ^ 15)
    wp := (eh s).toNat / 2 ^ 54 * 2048
    ip := (eh s).toNat / 2 % 2 ^ 20 * 2 })

/-! ### Frames to the device (21 R334, R335) -/

/-- The command core reads a frame from the host of a type: ports up, MAGIC, no reserved bit, EPOCH; no device frame is held back. -/
def readFrame (s : State) (f : Frame) (type : Nat) : Prop :=
  s.fabric.up = true ∧ f.magic = 0x48435031 ∧ f.reserved = 0 ∧ f.type = type ∧ f.epoch = s.host.epoch ∧ s.host.held = [] ∧ f.held = false
/-- The state after an accepted frame, its work apart: its acknowledgement taken, HA its number. -/
def taken (s : State) (f : Frame) : State :=
  { s with host := { s.host with window := s.host.window.filter (fun g => f.ack < g.seq), ha := f.seq } }
/-- The STATE frame that reports HA, HC, the next device number, and no fault. -/
def stateFrame (s : State) : Frame :=
  ⟨0x48435031, 0x84, 32, 0, s.host.ha, s.host.epoch, 0, packFields 64 [s.host.ha, s.host.hc, s.host.next, 0], false⟩

/-! ### Frames of instructions -/

/-- The instruction has trapped or blocked: nothing but that has happened (R16, R28). -/
def stopsOnly (s t : State) : Prop :=
  (∃ w, t = s.blockEntry s.curKey w) ∨ ∃ cause info next, t = s.takeTrap s.curKey cause info next
/-- Bytes of the workspace at an offset. -/
def workBytes (s : State) (off n b : Nat) : Prop := work s off ≤ b ∧ b < work s off + n
/-- The bytes of a word destination field: a W or M register; none for a queue. -/
def wordBytesOf (s : State) (d b : Nat) : Prop := (d < 16 ∧ workBytes s (8 * d) 8 b) ∨ (56 ≤ d ∧ workBytes s (0x480 + 8 * (d - 56)) 8 b)
/-- The bytes of a V destination field, its tag with it. -/
def vectorBytesOf (s : State) (d b : Nat) : Prop :=
  16 ≤ d ∧ d < 32 ∧ (workBytes s (0x80 + 64 * (d - 16)) 64 b ∨ workBytes s 0x560 16 b)
/-- Only words and lines with a byte in `B` may gain or lose their poison mark or D bit. -/
def marksKeep (B : Nat → Prop) (s t : State) : Prop :=
  (∀ x, (∀ j < 8, ¬ B (8 * x + j)) → (x ∈ t.poison ↔ x ∈ s.poison)) ∧
  (∀ x, (∀ j < 128, ¬ B (128 * x + j)) → (x ∈ t.dirty ↔ x ∈ s.dirty))
/-- What an instruction with operand fields `fs` that writes the bytes `B` may change besides: IP of its own entry, the queue or channel that a
field names (a pop of a completion begins a new phase); with `fp`, the flags in ST and the streams. -/
def changesOnly (fp : Bool) (fs : List Nat) (B : Nat → Prop) (s t : State) : Prop :=
  t = { s with mem := t.mem, poison := t.poison, dirty := t.dirty, entries := t.entries, queues := t.queues, boxes := t.boxes,
               streams := t.streams, strmEnds := t.strmEnds, cmdSeqs := t.cmdSeqs, agenda := t.agenda } ∧
  (∀ b, ¬ B b → spByte t b = spByte s b) ∧ marksKeep B s t ∧ (∀ k, k ≠ s.curKey → t.entry k = s.entry k) ∧
  t.curEntry = { s.curEntry with
    ip := t.curEntry.ip, st := t.curEntry.st, phase := t.curEntry.phase, snap := t.curEntry.snap, relAt := t.curEntry.relAt } ∧
  t.curEntry.st &&& ~~~0x3F00#64 = s.curEntry.st &&& ~~~0x3F00#64 ∧
  (∀ n q, q < 8 → n ≠ s.node ∨ 32 + q ∉ fs → t.queue n q = s.queue n q) ∧
  (∀ ck c, c < 16 → ck ≠ s.cur.ck ∨ 40 + c ∉ fs → t.box ck c = s.box ck c) ∧
  (fp = false → t.curEntry.st = s.curEntry.st ∧ t.streams = s.streams ∧ t.strmEnds = s.strmEnds ∧ t.cmdSeqs = s.cmdSeqs ∧
    t.agenda = s.agenda)
/-- The frame of an instruction. -/
def framed (fp : Bool) (fs : List Nat) (B : Nat → Prop) (i : Instr) (s : State) : Prop :=
  ∀ t, exec i s = .next t → stopsOnly s t ∨ changesOnly fp fs B s t

end Sys2Proof.Claims
end

