-- ==== Sys2Proof/Safety.lean ====
section
/-!
DEFINITION. What counts as safe: a state whose stores are canonical, and a run no step of which stops.
-/
namespace Sys2Proof.Machine
open Sys2Proof

/-- The stores of a state are in canonical form. -/
def State.memOk (s : State) : Bool :=
  Memory.wf (scratchFill s.lost) s.mem && Memory.wf zeroFill s.accMem && Memory.wf zeroFill s.far

/-- A step of the machine does not stop. -/
def goesOn (s : State) : Bool :=
  match step s with
  | .next _ => true
  | _ => false

end Sys2Proof.Machine
end

