-- ==== Sys2Proof/Certificates/Slice0/Obligations.lean ====
section
/-!
DEFINITION. The statements for the provers. A statement about an instruction says, for a running entry (`running`) and operands that can be
read, what `exec` answers: the next state, written with the updates of Claims.lean and Ops.lean, so that everything not named there is
unchanged.
-/
open Sys2Proof Sys2Proof.Machine Sys2Proof.Claims

/-! ### Scalar and control instructions -/

/-- R33, R34, Table 3-2: a 16-bit instruction on W registers computes d from d and b, where b is a W register or, with k = 1, the constant word
Kb, writes W[d] and moves IP by two bytes; MOV takes Kb. R223: a destination register in a line that a READY or DRAINING tile-table entry holds makes
the instruction wait, with nothing changed.
The model's own choices and readings in it: log 73. -/
def Obligations.ShortWordForms : Prop :=
  ∀ (s : State) (d b : Nat), running s 0 = true → d < 16 →
    let gives := fun (i : Instr) (v : Word) =>
      (wFree s d = true → exec i s = .next (past 2 (setW s d v))) ∧ (wFree s d = false → exec i s = .next (s.blockEntry s.curKey .retry))
    (kOk s b = true → gives (.mov16 d b) (kWord s b)) ∧
    (wOk s d = true → ∀ p ∈ shortTwo,
      (kOk s b = true → gives (p.1 d b 1) (p.2 (wVal s d) (kWord s b))) ∧
      (b < 16 → wOk s b = true → gives (p.1 d b 0) (p.2 (wVal s d) (wVal s b)))) ∧
    (∀ p ∈ shortOne,
      (kOk s b = true → gives (p.1 d b 1) (p.2 (kWord s b))) ∧
      (b < 16 → wOk s b = true → gives (p.1 d b 0) (p.2 (wVal s b))))

/-- R71, R72, Table 5-1: an instruction of form A reads a, then b, gives d the result and moves IP to the next instruction; MOV, CLZ, CTZ, POPC
and BSWAP read a. R223: a destination register in a line that a READY or DRAINING tile-table entry holds makes the instruction wait, with nothing
changed; so does a full queue (R28).
The model's own choices and readings in it: log 73. -/
def Obligations.ScalarResults : Prop :=
  (∀ (s s1 s2 : State) (d a b : Nat) (x y : Word), running s 0 = true → wDest s d = true → wSource s a = true → wSource s b = true →
    source s a = some (x, s1) → source s1 b = some (y, s2) →
    ∀ p ∈ twoSources, (canTake s2 d = true → ∃ t, dest s2 d (p.2 x y) = some t ∧ exec (p.1 d a b) s = .next (past 4 t)) ∧
      (canTake s2 d = false → exec (p.1 d a b) s = .next (s.blockEntry s.curKey .retry))) ∧
  (∀ (s s1 : State) (d a : Nat) (x : Word), running s 0 = true → wDest s d = true → wSource s a = true → source s a = some (x, s1) →
    ∀ p ∈ oneSource, (canTake s1 d = true → ∃ r t, p.2 x r ∧ dest s1 d r = some t ∧ exec (p.1 d a) s = .next (past 4 t)) ∧
      (canTake s1 d = false → exec (p.1 d a) s = .next (s.blockEntry s.curKey .retry)))

/-- R71, R72, R20: the forms with a constant word (form K) and with a count; MOV; AREL with its identity words. R223: a destination register in a line
that a READY or DRAINING tile-table entry holds makes the instruction wait, with nothing changed; so does a full queue (R28).
The model's own choices and readings in it: log 73. -/
def Obligations.ConstantResults : Prop :=
  ∀ (s s1 : State) (d a k : Nat) (x : Word), running s 0 = true → wDest s d = true →
    let gives := fun (u : State) (i : Instr) (v : Word) =>
      (canTake u d = true → ∃ t, dest u d v = some t ∧ exec i s = .next (past 4 t)) ∧
      (canTake u d = false → exec i s = .next (s.blockEntry s.curKey .retry))
    (kOk s k = true → gives s (.movK d k) (kWord s k)) ∧
    (wSource s a = true → source s a = some (x, s1) →
      (∀ p ∈ countForms, gives s1 (p.1 d a k) (p.2 x (BitVec.ofNat 64 k))) ∧
      (kOk s1 k = true → ∀ p ∈ constantForms, gives s1 (p.1 d a k) (p.2 x (kWord s1 k))) ∧
      (kOk s1 k = true → kOk s1 0 = true → kOk s1 1 = true →
        gives s1 (.arelK d a k) (relativeAddress (kWord s1 0) (kWord s1 1) x (kWord s1 k))) ∧
      (∀ (b : Nat) (y : Word) (s2 : State), wSource s b = true → source s1 b = some (y, s2) → kOk s2 0 = true → kOk s2 1 = true →
        gives s2 (.arel d a b) (relativeAddress (kWord s2 0) (kWord s2 1) x y)))

/-- R36, R73 to R75, Table 5-2: a form B branch pops its sources and goes to its target, or to the next instruction; LOOP counts down and
branches, J and CALL go to their targets, CALL and CALLR leave the address of the next instruction in W15, JR and CALLR go to an even address below
2^21, NOP only moves IP. -/
def Obligations.ControlResults : Prop :=
  (∀ (s s1 s2 : State) (a b i : Nat) (x y : Word), running s 0 = true → wSource s a = true → wSource s b = true →
    source s a = some (x, s1) → source s1 b = some (y, s2) →
    ∀ p ∈ branches, exec (p.1 a b i) s = .next (if p.2 x y then goTo (branchTo s.curEntry.ip 12 i) s2 else past 4 s2)) ∧
  (∀ (s s1 : State) (a i : Nat) (x : Word), running s 0 = true →
    exec .nop s = .next (past 4 s) ∧
    exec (.j i) s = .next (goTo (branchTo s.curEntry.ip 24 i) s) ∧
    (wFree s 15 = true → exec (.call i) s = .next (goTo (branchTo s.curEntry.ip 24 i)
      (setW s 15 (BitVec.ofNat 64 ((s.curEntry.ip + 4) % 0x200000))))) ∧
    (a < 16 → wOk s a = true → wFree s a = true → exec (.loop a i) s = .next (if wVal s a = 1 then past 4 (setW s a 0)
      else goTo (branchTo s.curEntry.ip 12 i) (setW s a (wVal s a - 1)))) ∧
    (wSource s a = true → source s a = some (x, s1) → x.toNat % 2 = 0 → x.toNat < 0x200000 →
      exec (.jr a) s = .next (goTo x.toNat s1) ∧
      (wFree s1 15 = true →
        exec (.callr a) s = .next (goTo x.toNat (setW s1 15 (BitVec.ofNat 64 ((s.curEntry.ip + 4) % 0x200000)))))))

/-! ### Vector and mask instructions -/

/-- R33, R34, R54, R69, R76, R78, Tables 3-2 and 5-3: a lane instruction applies its operation to every active lane of its operands, gives d the
lanes under a's tag and raises the flags of those lanes; VFMA and VFMS also read d, under the same tag. On V registers a 16-bit instruction does d := d
op b lane by lane, unmasked; where both operands are NaNs, b's comes first; NEG, ABS and NOT read b alone. A destination that a READY or DRAINING tile
holds (R223), or a full queue, makes the instruction wait. R53, R55: a sum, difference or product of finite float lanes that is not zero, and a product
with the sum of d, is the exact one rounded once under RM: to the grid of the format at its leading bit, or, past the largest finite value, to that or
to infinity.
The model's own choices and readings in it: log 70, 73, 75, 76, 77. -/
def Obligations.LaneResults : Prop :=
  (∀ (s s1 s2 s3 t : State) (d a b mk : Nat) (x y z : VVal), running s 1 = true → vSource s a = true → vSourceOf s a = some (x, s1) →
    ∀ p ∈ laneForms, bReads s s1 (p.2.2 b) x.tag = some (y, s2) → y.tag = x.tag → laneAllowed p.2.1 x.tag = true →
      (if p.2.1 = .fma ∨ p.2.1 = .fms then isV d = true ∧ vRead s2 (d - 16) = some (z, s3) ∧ z.tag = x.tag
        else vDest s d = true ∧ s3 = s2 ∧ z = ⟨x.tag, 0⟩) →
      maskOk s3 mk = true →
      (vLanesTo s3 d x.tag (elemBits x.tag / 8) ((laneList s3 p.2.1 mk x.tag x.val y.val z.val).map (·.map (·.1))) = some t →
        exec (p.1 d a b mk) s = .next (past 4 (flagged (flagsOf (laneList s3 p.2.1 mk x.tag x.val y.val z.val)) t))) ∧
      (mk = 0 ∨ 32 ≤ d → vCanTake s3 d = false → exec (p.1 d a b mk) s = .next (s.blockEntry s.curKey .retry))) ∧
  (∀ (s s1 s2 t : State) (d b : Nat) (x y : VVal), running s 0 = true → isV d = true → isV b = true →
    ∀ p ∈ shortLanes,
      (if p.2 = .neg ∨ p.2 = .abs ∨ p.2 = .not then s1 = s ∧ x = ⟨y.tag, 0⟩ else vRead s (d - 16) = some (x, s1)) →
      vRead s1 (b - 16) = some (y, s2) → x.tag = y.tag → laneAllowed p.2 y.tag = true →
      (let rs := (List.range (lanesOf y.tag)).map (fun i => laneOp p.2 (stRM s2.curEntry.st) y.tag
          (laneAt (elemBits y.tag) x.val i) (laneAt (elemBits y.tag) y.val i) 0 true)
       (vDestOf s2 d y.tag (packFields (elemBits y.tag) (rs.map (·.1))) = some t →
         exec (p.1 d b 0) s = .next (past 2 (flagged (allFlags (rs.map (·.2))) t))) ∧
       (vCanTake s2 d = false → exec (p.1 d b 0) s = .next (s.blockEntry s.curKey .retry)))) ∧
  (∀ (t rm x y z : Nat) (bf : Bool) (g : Int), isLaneFloat t = true → let f := floatFormat t
    let once := fun (op : LaneOp) (v : Int) => v ≠ 0 → laneOp op rm t x y z bf = encodeVal rm f (.fin (decide (v < 0)) v.natAbs g)
    ∀ (nx ny nz : Bool) (mx my mz : Nat) (ex ey ez : Int), decodeFloat f x = .fin nx mx ex → decodeFloat f y = .fin ny my ey →
      (g ≤ ex → g ≤ ey → once .add (unitsOf nx mx ex g + unitsOf ny my ey g) ∧ once .sub (unitsOf nx mx ex g - unitsOf ny my ey g)) ∧
      (g ≤ ex + ey → let p := unitsOf (nx != ny) (mx * my) (ex + ey) g
        once .mul p ∧ (decodeFloat f z = .fin nz mz ez → g ≤ ez →
          once .fma (p + unitsOf nz mz ez g) ∧ once .fms (p - unitsOf nz mz ez g)))) ∧
  (∀ (t rm m : Nat) (neg : Bool) (e h : Int), isLaneFloat t = true → rm < 4 → m ≠ 0 → let f := floatFormat t
    let g : Int := max ((Nat.log2 m : Int) + e - (f.mb : Int)) (1 - (f.bias : Int) - (f.mb : Int))
    h ≤ e → h ≤ g → ∃ q : Nat, roundsTo rm neg (m * 2 ^ (e - h).toNat) (2 ^ (g - h).toNat) q ∧
      let largest : Int := ((2 ^ f.eb - 2 : Nat) : Int) - (f.bias : Int) - (f.mb : Int)
      let r := encodeVal rm f (.fin neg m e)
      let fits := q < 2 ^ (f.mb + 1) ∧ g ≤ largest ∨ g < largest
      (fits → ∃ m' e', decodeFloat f r.1 = .fin neg m' e' ∧ g ≤ e' ∧ m' * 2 ^ (e' - g).toNat = q) ∧
      (¬ fits → r.2.of = true ∧ r.1 = withSign f neg (maxCode f + if rm = 1 ∨ (rm = 2 ∧ neg = true) ∨ (rm = 3 ∧ neg = false) then 0 else 1)))

/-- R50, R107, Table 5-3: integer lanes of n bits are computed modulo 2^n; minimum, maximum and the arithmetic shift read S lanes as signed; an integer
element of a matrix product is the exact sum of its products and the prior element, modulo 2^32. The lanes of an integer tag are computed so, signed under
an S tag, with no flag; the arithmetic shift fills with the top bit of N lanes too (log 77, DEDUCED). -/
def Obligations.IntegerResults : Prop :=
  (∀ (op : LaneOp) (rm t x y d : Nat) (bf : Bool), isIntTag t = true →
    laneOp op rm t x y d bf = (intLane op (elemBits t) (decide (1 ≤ t ∧ t ≤ 4)) x y d, {})) ∧
  (∀ (n x y d : Nat) (sg : Bool), 0 < n → x < 2 ^ n → y < 2 ^ n → d < 2 ^ n →
    let val : Nat → Int := fun v => if sg then Int.bmod v (2 ^ n) else v
    ((intLane .add n sg x y d : Nat) : Int) = ((x : Int) + y) % (2 ^ n : Nat) ∧
    ((intLane .sub n sg x y d : Nat) : Int) = ((x : Int) - y) % (2 ^ n : Nat) ∧
    ((intLane .mul n sg x y d : Nat) : Int) = ((x : Int) * y) % (2 ^ n : Nat) ∧
    ((intLane .fma n sg x y d : Nat) : Int) = ((x : Int) * y + d) % (2 ^ n : Nat) ∧
    ((intLane .fms n sg x y d : Nat) : Int) = ((x : Int) * y - d) % (2 ^ n : Nat) ∧
    ((intLane .neg n sg x y d : Nat) : Int) = (-(y : Int)) % (2 ^ n : Nat) ∧
    val (intLane .min n sg x y d) = min (val x) (val y) ∧ val (intLane .max n sg x y d) = max (val x) (val y) ∧
    intLane .and n sg x y d = x &&& y ∧ intLane .or n sg x y d = x ||| y ∧ intLane .xor n sg x y d = x ^^^ y ∧
    intLane .not n sg x y d = y ^^^ (2 ^ n - 1) ∧ intLane .andn n sg x y d = x &&& (y ^^^ (2 ^ n - 1)) ∧
    intLane .shl n sg x y d = x * 2 ^ y % 2 ^ n ∧ intLane .shr n sg x y d = x / 2 ^ y ∧
    ((intLane .sar n sg x y d : Nat) : Int) = Int.bmod x (2 ^ n) / 2 ^ y % (2 ^ n : Nat) ∧
    ((intLane .abs n sg x y d : Nat) : Int) = (((val y).natAbs : Nat) : Int) % (2 ^ n : Nat)) ∧
  (∀ (rm prior : Nat) (ps : List (Int × Int)), prior < 2 ^ 32 →
    ((matElem rm true (ps.map (fun p => (valOfInt p.1, valOfInt p.2))) prior).1 : Int) =
      ((ps.map (fun p => p.1 * p.2)).sum + prior) % 2 ^ 32 ∧
    (matElem rm true (ps.map (fun p => (valOfInt p.1, valOfInt p.2))) prior).2 = {})

/-- R79: a compare sets bit i of its mask register when lane i is active and the relation holds there, and clears every other bit; a d field that names
no M register is an illegal operand at position 0. Equal is equal codes; N lanes compare unsigned and S lanes signed; float lanes compare by the key
of R57, under which a code with the sign bit set lies below every one without, and among those the larger code is the lesser. -/
def Obligations.CompareResults : Prop :=
  (∀ (s s1 s2 : State) (d a b mk : Nat) (x y : VVal), running s 1 = true → isM d = true → vSource s a = true →
    vSourceOf s a = some (x, s1) → isLaneTag x.tag = true →
    ∀ p ∈ compareForms, bReads s s1 (p.2.2 b) x.tag = some (y, s2) → y.tag = x.tag → maskOk s2 mk = true → mFree s2 (d - 56) = true →
      ∃ r : Word, exec (p.1 d a b mk) s = .next (past 4 (setM s2 (d - 56) r)) ∧
        ∀ i < 64, r.getLsbD i = (decide (i < lanesOf x.tag) && active s2 mk i &&
          relHolds p.2.1 x.tag (laneAt (elemBits x.tag) x.val i) (laneAt (elemBits x.tag) y.val i))) ∧
  (∀ (s : State) (d a b mk : Nat), running s 1 = true → s.curEntry.state = .active → handled s → isM d = false →
    ∀ p ∈ compareForms, ∃ n, n % 8 = 0 ∧ exec (p.1 d a b mk) s = .next (entered s 0x02 n s.curEntry.ip)) ∧
  (∀ tag x y : Nat, isLaneTag tag = true → let n := elemBits tag
    x < 2 ^ n → y < 2 ^ n →
    let top := fun (v : Nat) => 2 ^ (n - 1) ≤ v
    let lt : Prop :=
      if isNTag tag then x < y
      else if isSTag tag then Int.bmod x (2 ^ n) < Int.bmod y (2 ^ n)
      else (top x ∧ ¬ top y) ∨ (¬ top x ∧ ¬ top y ∧ x < y) ∨ (top x ∧ top y ∧ y < x)
    (relHolds .eq tag x y = true ↔ x = y) ∧ (relHolds .lt tag x y = true ↔ lt) ∧ (relHolds .le tag x y = true ↔ lt ∨ x = y))

/-- R77, R81, R78: VSEL takes each lane from a or b by a bit of its selector, VPERM takes lane b[i] mod n of a. -/
def Obligations.SelectResults : Prop :=
  ∀ (s s1 s2 t : State) (d a b mk : Nat) (x y : VVal), running s 1 = true → vDest s d = true → vSource s a = true →
    vSourceOf s a = some (x, s1) → isLane15 x.tag = true →
    ((∀ p ∈ [((.vsel : Nat → Nat → Nat → Nat → Instr), BSrc.field), (.vselRel, .rel)],
      bReads s s1 (p.2 b) x.tag = some (y, s2) → y.tag = x.tag → mOk s2 mk = true →
      vDestOf s2 d x.tag (packFields (elemBits x.tag) ((List.range (lanesOf x.tag)).map (fun i =>
        if (mVal s2 mk).getLsbD i then lane15 x.tag x.val i else lane15 x.tag y.val i))) = some t →
      exec (p.1 d a b mk) s = .next (past 4 t)) ∧
     (∀ p ∈ [((.vperm : Nat → Nat → Nat → Nat → Instr), BSrc.field), (.vpermRel, .rel)],
      bReads s s1 (p.2 b) x.tag = some (y, s2) → y.tag = tN8 → maskOk s2 mk = true →
      vLanesTo s2 d x.tag (elemBits x.tag / 8) ((List.range (lanesOf x.tag)).map (fun i =>
        if active s2 mk i then some (lane15 x.tag x.val (laneAt 8 y.val i % lanesOf x.tag)) else none)) = some t →
      exec (p.1 d a b mk) s = .next (past 4 t)))

/-- R80, R86, R87: VDOT gives lane 0 of d the sum of the products of the active lanes, VRED folds the active lanes into a word, VNZS finds the
first active lane from b up that is not zero.
The model's own choices and readings in it: log 75, 76. -/
def Obligations.ReductionResults : Prop :=
  ∀ (s s1 : State) (d a b mk : Nat) (x : VVal), running s 1 = true → vSource s a = true → vSourceOf s a = some (x, s1) →
    (∀ (s2 t : State) (y : VVal), vDest s d = true → isLaneTag x.tag = true → y.tag = x.tag → maskOk s2 mk = true →
      let n := elemBits x.tag
      let ps := ((List.range (lanesOf x.tag)).filter (active s2 mk)).map (fun i => (laneAt n x.val i, laneAt n y.val i))
      let r : Nat × FFlags :=
        if isIntTag x.tag then ((ps.map (fun p => p.1 * p.2)).sum % 2 ^ n, {})
        else chunkSum (stRM s2.curEntry.st) (floatFormat x.tag)
          (ps.map (fun p => (decodeFloat (floatFormat x.tag) p.1, decodeFloat (floatFormat x.tag) p.2))) []
      vDestOf s2 d x.tag r.1 = some t →
      ∀ p ∈ [((.vdot : Nat → Nat → Nat → Nat → Instr), BSrc.field), (.vdotRel, .rel)], bReads s s1 (p.2 b) x.tag = some (y, s2) →
        exec (p.1 d a b mk) s = .next (past 4 (flagged r.2 t))) ∧
    (wDest s d = true → b < 6 → laneAllowed (reduceOp b) x.tag = true → maskOk s1 mk = true → canTake s1 d = true →
      let ls := ((List.range (lanesOf x.tag)).filter (active s1 mk)).map (laneAt (elemBits x.tag) x.val)
      ∃ t, match reduceLanes (reduceOp b) (stRM s1.curEntry.st) x.tag ls with
        | none => dest s1 d 0 = some t ∧ exec (.vred d a b mk) s = .next (past 4 t)
        | some r => dest s1 d (laneToW x.tag r.1) = some t ∧ exec (.vred d a b mk) s = .next (past 4 (flagged r.2 t))) ∧
    (∀ (s2 : State) (y : Word), wDest s d = true → wSource s b = true → source s1 b = some (y, s2) → isLaneTag x.tag = true →
      maskOk s2 mk = true → canTake s2 d = true →
      ∃ r t, dest s2 d (BitVec.ofNat 64 r) = some t ∧ exec (.vnzs d a b mk) s = .next (past 4 t) ∧ r ≤ lanesOf x.tag ∧
        (let hit : Nat → Prop := fun i => y.toNat ≤ i ∧ active s2 mk i = true ∧ laneZero x.tag (laneAt (elemBits x.tag) x.val i) = false
         (∀ i < r, ¬ hit i) ∧ (r < lanesOf x.tag → hit r)))

/-- R82: VBCAST fills the active lanes with the low bits of a word, VEXT reads one active lane as a word and 0 elsewhere, VINS writes one lane
of a register that keeps its tag. -/
def Obligations.LaneMoves : Prop :=
  ∀ (s s1 t : State) (d a b mk : Nat) (x : Word), running s 1 = true →
    (vDest s d = true → wSource s a = true → source s a = some (x, s1) → isLane15 b = true → maskOk s1 mk = true →
      vLanesTo s1 d b (elemBits b / 8) ((List.range (lanesOf b)).map (fun i =>
        if active s1 mk i then some (lowLane b x) else none)) = some t →
      exec (.vbcast d a b mk) s = .next (past 4 t)) ∧
    (vDest s d = true → isLane15 a = true → kOk s b = true → maskOk s mk = true →
      vLanesTo s d a (elemBits a / 8) ((List.range (lanesOf a)).map (fun i =>
        if active s mk i then some (lowLane a (kWord s b)) else none)) = some t →
      exec (.vbcastK d a b mk) s = .next (past 4 t)) ∧
    (∀ (s2 : State) (v : VVal), wDest s d = true → vSource s a = true → vSourceOf s a = some (v, s1) → wSource s b = true →
      source s1 b = some (x, s2) → isLane15 v.tag = true → maskOk s2 mk = true → canTake s2 d = true →
      ∃ t, dest s2 d (if x.toNat < lanesOf v.tag ∧ active s2 mk x.toNat = true then laneToW v.tag (lane15 v.tag v.val x.toNat) else 0) = some t ∧
        exec (.vext d a b mk) s = .next (past 4 t)) ∧
    (∀ (s2 s3 : State) (y : Word) (z : VVal), isV d = true → wSource s a = true → source s a = some (x, s1) → wSource s b = true →
      source s1 b = some (y, s2) → vRead s2 (d - 16) = some (z, s3) → isLane15 z.tag = true → maskOk s3 mk = true → vFree s3 (d - 16) = true →
      let n := elemBits z.tag / 8
      exec (.vins d a b mk) s = .next (past 4 (if x.toNat < lanesOf z.tag ∧ active s3 mk x.toNat = true then
        setReg s3 (0x80 + 64 * (d - 16) + n * x.toNat) n (lowLane z.tag y) else s3)))

/-- R83, R78, R84, R85: VMOV copies 64 bytes, or the active lanes under a lane tag, between fields or with one of them relative, V[Wn+k]; VABS,
VNEG and VSQRT work lane by lane; VCVT converts elements under the tags of Table 4-1; VTAG gives the same bytes another tag.
The model's own choices and readings in it: log 69, 75. -/
def Obligations.UnaryVectorResults : Prop :=
  -- what VMOV of `x` to field `d` leaves
  let moved := fun (s : State) (d mk : Nat) (x : VVal) (t : State) =>
    (mk = 0 ∧ isVTag x.tag = true ∧ vDestOf s d x.tag x.val = some t) ∨
    (mk ≠ 0 ∧ isLane15 x.tag = true ∧ mOk s mk = true ∧ vLanesTo s d x.tag (elemBits x.tag / 8)
      ((List.range (lanesOf x.tag)).map (fun i => if active s mk i then some (lane15 x.tag x.val i) else none)) = some t)
  (∀ (s s1 t : State) (d a mk n : Nat) (x : VVal), running s 1 = true → vDest s d = true → relReg s a = some n → vRead s n = some (x, s1) →
    moved s1 d mk x t → exec (.vmovRelA d a mk) s = .next (past 4 t)) ∧
  ∀ (s s1 t : State) (d a b mk n : Nat) (x : VVal), running s 1 = true → vSource s a = true → vSourceOf s a = some (x, s1) →
    (vDest s d = true → moved s1 d mk x t → exec (.vmov d a mk) s = .next (past 4 t)) ∧
    (relReg s d = some n → n < 16 → moved s1 (16 + n) mk x t → exec (.vmovRelD d a mk) s = .next (past 4 t)) ∧
    (vDest s d = true → maskOk s1 mk = true →
      ∀ p ∈ [((.vabs : Nat → Nat → Nat → Instr), isLaneTag, fun v => laneOp .abs (stRM s1.curEntry.st) x.tag 0 v 0 false),
             (.vneg, isLaneTag, fun v => laneOp .neg (stRM s1.curEntry.st) x.tag 0 v 0 false),
             (.vsqrt, isLaneFloat, fun v => sqrtFloat (stRM s1.curEntry.st) (floatFormat x.tag) (decodeFloat (floatFormat x.tag) v))],
        p.2.1 x.tag = true →
        (let ls := (List.range (lanesOf x.tag)).map (fun i =>
            if active s1 mk i then some (p.2.2 (laneAt (elemBits x.tag) x.val i)) else none)
         vLanesTo s1 d x.tag (elemBits x.tag / 8) (ls.map (·.map (·.1))) = some t →
         exec (p.1 d a mk) s = .next (past 4 (flagged (flagsOf ls) t)))) ∧
    (vDest s d = true → isVTag b = true → isVTag x.tag = true →
      (vDestOf s1 d b x.val = some t → exec (.vtag d a b mk) s = .next (past 4 t)) ∧
      (maskOk s1 mk = true →
        let r := writeElems (stRM s1.curEntry.st) b ((List.range (min (elemsOf x.tag) (elemsOf b))).map (fun i =>
          if active s1 mk i then some (elementVal x.tag x.val i) else none))
        vDestOf s1 d b r.1 = some t → exec (.vcvt d a b mk) s = .next (past 4 (flagged r.2 t))))

/-- R89, R37: the mask instructions. MMOV moves between M registers and word operands.
The model's own choices and readings in it: log 69. -/
def Obligations.MaskResults : Prop :=
  ∀ (s s1 : State) (d a b : Nat) (x : Word), running s 1 = true →
    (isM d = true → isM a = true → mOk s (a - 56) = true → mFree s (d - 56) = true →
      exec (.mnot d a) s = .next (past 4 (setM s (d - 56) (~~~(mVal s (a - 56))))) ∧
      (isM b = true → mOk s (b - 56) = true →
        exec (.mand d a b) s = .next (past 4 (setM s (d - 56) (mVal s (a - 56) &&& mVal s (b - 56)))) ∧
        exec (.mor d a b) s = .next (past 4 (setM s (d - 56) (mVal s (a - 56) ||| mVal s (b - 56)))) ∧
        exec (.mxor d a b) s = .next (past 4 (setM s (d - 56) (mVal s (a - 56) ^^^ mVal s (b - 56)))))) ∧
    (isM d = true ∨ wDest s d = true → isM a = true ∨ wSource s a = true → source s a = some (x, s1) → canTake s1 d = true →
      ∃ t, dest s1 d x = some t ∧ exec (.mmov d a) s = .next (past 4 t))

/-! ### Local memory -/

/-- R90, R20, R21: a load takes its bytes little-endian from W[base] + displacement × size, zero- or sign-extended. Its own window shows K7 as the
role, the other windows read as zero. -/
def Obligations.LoadResults : Prop :=
  ∀ (s : State) (d b i : Nat), running s 0 = true → wOk s b = true → wFree s d = true →
    ∀ p ∈ [((.ldB : Nat → Nat → Nat → Instr), 1, false), (.ldH, 2, false), (.ldW, 4, false), (.ldD, 8, false), (.ldSb, 1, true),
           (.ldSh, 2, true), (.ldSw, 4, true)],
      0 ≤ localAddr s b i p.2.1 → localAddr s b i p.2.1 < 0x200000 → localAddr s b i p.2.1 % (p.2.1 : Int) = 0 →
      loadOk s (localAddr s b i p.2.1).toNat p.2.1 = true →
      ∃ v < 256 ^ p.2.1, (∀ j < p.2.1, v / 256 ^ j % 256 = loadByte s ((localAddr s b i p.2.1).toNat + j)) ∧
        exec (p.1 d b i) s = .next (past 4 (setW s d
          (if p.2.2 then BitVec.ofInt 64 (Int.bmod v (256 ^ p.2.1)) else BitVec.ofNat 64 v)))

/-- R90, R223: a store puts the low bytes of W[d] at W[base] + displacement × size, at or above 0x2000, where no READY or DRAINING tile entry
holds the line. -/
def Obligations.StoreResults : Prop :=
  ∀ (s : State) (d b i : Nat), running s 0 = true → wOk s b = true → wOk s d = true →
    ∀ p ∈ [((.stB : Nat → Nat → Nat → Instr), 1), (.stH, 2), (.stW, 4), (.stD, 8)],
      0x2000 ≤ localAddr s b i p.2 → localAddr s b i p.2 < 0x200000 → localAddr s b i p.2 % (p.2 : Int) = 0 →
      s.tileHeld s.node (localAddr s b i p.2).toNat p.2 = false →
      exec (p.1 d b i) s = .next (past 4 (s.poke (0x200000 * s.node + (localAddr s b i p.2).toNat) p.2 (wVal s d).toNat))

/-- R91: LDV loads 64 aligned bytes and the tag t into V[v]; STV stores a V register whose tag is t. -/
def Obligations.VectorMemory : Prop :=
  ∀ (s s1 : State) (v b tg i : Nat) (x : VVal), running s 1 = true → wOk s b = true → isVTag tg = true → v < 16 →
    localAddr s b i 64 < 0x200000 → localAddr s b i 64 % 64 = 0 →
    (0 ≤ localAddr s b i 64 → loadOk s (localAddr s b i 64).toNat 64 = true → vFree s v = true →
      ∃ n < 256 ^ 64, (∀ j < 64, n / 256 ^ j % 256 = loadByte s ((localAddr s b i 64).toNat + j)) ∧
        exec (.ldv v b tg i) s = .next (past 4 (setTag (setReg s (0x80 + 64 * v) 64 n) v tg))) ∧
    (0x2000 ≤ localAddr s b i 64 → vRead s v = some (x, s1) → x.tag = tg →
      s1.tileHeld s1.node (localAddr s b i 64).toNat 64 = false →
      exec (.stv v b tg i) s = .next (past 4 (s1.poke (0x200000 * s.node + (localAddr s b i 64).toNat) 64 x.val)))

/-! ### The matrix array -/

/-- R100, R104, R105: TSET checks a descriptor and writes it with its tag; AALLOC takes the lowest free banks of the grant, zeroed, under the
next generation; AFREE frees a run and its handle; AZERO zeroes one.
The model's own choices and readings in it: log 78. -/
def Obligations.RunResults : Prop :=
  ∀ (s : State) (z t k d : Nat), running s 2 = true →
    (k ≠ 255 → kOk s k = true → kOk s (k + 1) = true → d = (kWord s (k + 1)).toNat * 2 ^ 64 + (kWord s k).toNat →
      tileAccepted (tileDesc d (fld d 24 5)) → regFree s (0x4C0 + 16 * t) 16 = true → regFree s 0x560 16 = true →
      exec (.tset t k) s = .next (past 4 (setTag (setReg s (0x4C0 + 16 * t) 16 d) (16 + t) (fld d 24 5)))) ∧
    (∀ (r : Slot) (b c : Nat), zOk s z = true → zFree s z = true → s.liveRun (regVal s (0x540 + 4 * z) 4) = none → kOk s k = true → s.curSlot? = some r →
      c = (kWord s k).toNat → 0 < c → r.bank0 ≤ b → b + c ≤ r.bank0 + fld r.space 20 8 → banksFree s b c →
      (∀ b', r.bank0 ≤ b' → b' < b → ¬ banksFree s b' c) →
      exec (.aalloc z k) s = .next (past 4 (setZ (((s.zeroRun s.node b c).setRun s.node b ⟨c, r.gen, 0, s.curKey, s.curEntry.wp⟩).modSlot s.node
        s.curEntry.slot (fun r => { r with gen := if r.gen = 255 then 1 else r.gen + 1 })) z (r.gen * 2 ^ 16 + c * 2 ^ 8 + b)))) ∧
    (∀ (first : Nat) (r : Run), names s z first r → arrayClear s first →
      (zFree s z = true → exec (.afree z) s = .next (past 4 (setZ { s with runs := mdel s.runs (128 * s.node + first) } z 0))) ∧
      exec (.azero z) s = .next (past 4 ((s.zeroRun s.node first r.count).setRun s.node first { r with afmt := 0 })))

/-- R106 to R109: MMA adds the product of F and P to the rows of its run, MMAZ to zero; each row takes the poison of what it read; the array, once
it is free and no instruction has waited longer for it, holds the instruction, and IP moves on. While the array holds another, the instruction waits.
The model's own choices and readings in it: log 16, 18, 88. -/
def Obligations.MatrixProduct : Prop :=
  ∀ (s : State) (z f p e first : Nat) (r : Run) (df dp : TileD), running s 2 = true → names s z first r → 4 ≤ r.count →
    readyTile s f 0 df → readyTile s p 1 dp → e ≤ 1 → isMatInt df.tag = (e == 1) → isMatInt dp.tag = (e == 1) →
    let acc := if e = 1 then tS32 else tF32
    ((∃ j, mget? s.arrays s.node = some j) → (r.afmt = 0 ∨ r.afmt = acc → exec (.mma z f p e) s = .next (s.blockEntry s.curKey .array)) ∧
      exec (.mmaz z f p e) s = .next (s.blockEntry s.curKey .array)) ∧
    (mget? s.arrays s.node = none → s.arrayTurn s.curKey = true →
    ∀ q ∈ [((.mma : Nat → Nat → Nat → Nat → Instr), false), (.mmaz, true)], (q.2 = false → r.afmt = 0 ∨ r.afmt = acc) →
      let kk := min df.cols dp.rows + 1
      let rows := (List.range kk).map (s.planeRow s.node dp (dp.cols + 1))
      let prior := fun row => if q.2 then 0 else s.accRow s.node first row
      let new := fun row => matRow (stRM s.curEntry.st) (e == 1) (dp.cols + 1) (s.fullRow s.node df row kk) rows (prior row)
      ∃ u : State, u = { s with accMem := u.accMem, accPoison := u.accPoison } ∧
        exec (q.1 z f p e) s = .next (past 4 (flagged (allFlags ((List.range (df.rows + 1)).map (fun row => (new row).2)))
          (((u.setRun s.node first { r with afmt := acc }).enterArray first [df, dp] none).later (.arrayRetire s.node)))) ∧
        (∀ row < 32, u.accRow s.node first row = (if row ≤ df.rows then (new row).1 else prior row) ∧
          u.accBad s.node first row = ((!q.2 && s.accBad s.node first row) ||
            (decide (row ≤ df.rows) && (s.fullRowBad s.node df row kk || s.planeBad s.node dp kk)))) ∧
        (∀ a, outside a (accAddr s.node first 0) 0x2000 → accByte u a = accByte s a))

/-- R112, R113: ASTORE writes a run to memory, ALOAD reads one, AMOVV copies 64 bytes of a run to a V register.
The model's own choices and readings in it: log 18. -/
def Obligations.RunMoves : Prop :=
  ∀ (s : State) (z x w v first : Nat) (r : Run), running s 2 = true → names s z first r → arrayClear s first → wOk s w = true →
    let ea := (wVal s w).toNat
    let fmt := if x = 1 then tS32 else tF32
    (0x2000 ≤ ea → ea % 128 = 0 → ea + 2048 * r.count ≤ 0x200000 → r.afmt = 0 ∨ r.afmt = fmt →
      (∀ row < 8 * r.count, s.accBad s.node first row = false) → s.tileHeld s.node ea (2048 * r.count) = false →
      exec (.astore z x w) s = .next (past 4 (s.poke (0x200000 * s.node + ea) (2048 * r.count)
        (loadN zeroFill s.accMem (accAddr s.node first 0) (2048 * r.count))))) ∧
    (ea % 128 = 0 → ea + 2048 * r.count ≤ 0x200000 → s.hasEmpty (0x200000 * s.node + ea) (2048 * r.count) = false →
      ∃ t, exec (.aload z x w) s = .next t ∧
        (∀ i < 2048 * r.count, accByte t (accAddr s.node first 0 + i) = loadByte s (ea + i)) ∧
        (∀ a, outside a (accAddr s.node first 0) (2048 * r.count) → accByte t a = accByte s a) ∧
        t = { past 4 (s.setRun s.node first { r with afmt := fmt }) with accMem := t.accMem, accPoison := t.accPoison }) ∧
    (v < 16 → vFree s v = true → (wVal s w).toNat < 32 * r.count → r.afmt ≠ 0 → s.accBad s.node first ((wVal s w).toNat / 4) = false →
      exec (.amovv z v w) s = .next (past 4 (setTag (setReg s (0x80 + 64 * v) 64
        (fld (s.accRow s.node first ((wVal s w).toNat / 4)) (512 * ((wVal s w).toNat % 4)) 512)) v r.afmt)))

/-- R110, R137, R222, Table 7-8: a matrix instruction that retires frees the array, and its tile entries lose a consumer; a WALK with no row to step retires:
W0 holds the counts of the rows by status and poison, and IP moves on. R120, R124, R125, R128: a step that finds one row ACTIVE, its node, matrix and
children near, commits the row's record: at a leaf the row becomes DONE with the node's id, and its accumulator row the products of its input
with the matrix, each rounded once; at an inner node without CHAIN the row goes to the child that the decision picks, a level deeper, with the choice
in PATH; at a null pointer it faults. PSN joins the poison of what was read. Then WALK goes on, WSTEP retires, and a faulted row traps where traps
are on.
A read of another vat waits for the handler's own stores there, and is of this time where it has no granule of the phase there (R231, log 97).
The model's own choices and readings in it: log 14, 18, 89, 90, 92, 97. -/
def Obligations.ArrayRetirement : Prop :=
  (∀ (s : State) (node : Nat) (j : ArrayJob), mget? s.arrays node = some j → j.walk = none →
    exec (.arrayRetire node) s =
      .next (j.tiles.foldl (fun s e => s.releaseTile node e) { s with arrays := mdel s.arrays node })) ∧
  (∀ (s : State) (node : Nat) (j : ArrayJob) (w : WalkJob), mget? s.arrays node = some j → j.walk = some w → w.single = false → w.set = none →
    let p := tileDesc w.p 0x15
    let base := 0x200000 * node + p.base
    (∀ row ≤ p.rows, let x := s.peek (base + 16 * row) 16
      fld x 58 2 = 0 → w.lim ≤ fld x 49 6 ∧ fld x 49 6 ≤ 31) →
    (s.walkHeld node j = false → exec (.walkStepCommit node) s = .next (walkEnds s node j (walkCounts s base (p.rows + 1)))) ∧
    (s.walkHeld node j = true →
      exec (.walkStepCommit node) s = .next ((s.modWalk node (fun w => { w with stepped := true })).later (.walkStepCommit node)))) ∧
  (∀ (s : State) (node row rec : Nat) (j : ArrayJob) (w : WalkJob), mget? s.arrays node = some j → j.walk = some w → w.stepped = false →
    s.stepRows node w = [(row, rec)] →
    let f := tileDesc w.f w.ftag
    let int := isMatInt w.ftag
    let rm := stRM (s.entry j.ent).st
    let a := 0x200000 * node + ((tileDesc w.p 0x15).base + 16 * row)
    let q := fld rec 0 49
    (q = 0 → exec (.walkStepCommit node) s = .next (walkGoes (rowCommit s a (setFld (setFld rec 58 2 3) 60 4 1) j.ent {}) node j w [] row 1)) ∧
    (∀ (hw : List Nat) (hdrs : List (Nat × Option (List Nat))) (na ma ca : Nat) (r : Run) (u0 : State), w.log = [] → nearPointer q na 64 128 →
      s.run? node j.run = some r →
      (s.cachedHeader node q = some hw ∧ hdrs = [] ∧ u0 = s ∨
       s.cachedHeader node q = none ∧ readable s na 64 = true ∧ s.wayPaused node (na / 0x200000) = false ∧ walkFresh s j.ent node na 64 ∧
        u0 = walkSees s j.ent node na ∧
        hw = (List.range 8).map (fun i => s.peek (na + 8 * i) 8) ∧ hdrs = [(q, some hw)]) →
      let h := nodeOfWords hw
      headerBad h int = false → fld rec 49 6 < 31 → bitAt rec 56 = true ∨ h.din = f.cols + 1 →
      nearPointer h.mptr ma (planeSize h.mfmt) 128 → s.hasEmpty ma (planeSize h.mfmt) = false → s.wayPaused node (ma / 0x200000) = false →
      walkFresh s j.ent node ma (planeSize h.mfmt) →
      let u1 := walkSees u0 j.ent node ma
      let x : List Val × Bool :=
        if bitAt rec 56 then ((List.range h.din).map (fun k => let v := laneAt 32 (s.accRow node j.run row) k
            if int then valOfInt (Int.bmod v (2 ^ 32)) else decodeFloat (floatFormat tF32) v), s.accBad node j.run row)
        else (s.fullRow node f row h.din, s.fullRowBad node f row h.din)
      let m : TileD := ⟨ma % 0x200000, 0, 0, 1, h.mfmt, 0, false, 0, true⟩
      let rows := (List.range h.din).map (s.planeRow (ma / 0x200000) m h.dout)
      let rs := (List.range h.dout).map (fun c => round32 rm int (x.1.zip (rows.map (fun r => r.getD c (.fin false 0 0)))))
      let fl := allFlags (rs.map (·.2))
      let psn := bitAt rec 57 || x.2 || s.planeBad (ma / 0x200000) m h.din
      let rec1 := setFld rec 57 1 psn.toNat
      (h.kind = 1 → exec (.walkStepCommit node) s = .next (walkGoes
        (((((u1.poke a 16 (setFld (setFld rec1 58 2 1) 0 49 h.nodeid)).setAccRow node j.run row (packFields 32 (rs.map (·.1) ++
          List.replicate (64 - h.dout) 0))).setAccBad node j.run row psn).setRun node j.run { r with afmt := if int then tS32 else tF32 }).modEntry
            j.ent (fun e => { e with st := e.st ||| flagBits fl })) node j w hdrs row 0)) ∧
      (h.kind = 0 → h.mode = 0 → nearPointer h.ctab ca (8 * h.kch) 8 → s.hasEmpty ca (8 * h.kch) = false → s.wayPaused node (ca / 0x200000) = false →
        walkFresh s j.ent node ca (8 * h.kch) →
        ∀ c < h.kch, decide3 int h (rs.map (·.1)) = some c → s.poisoned (ca + 8 * c) 8 = none →
        let q' := s.peek (ca + 8 * c) 8
        q' ≠ 0 → pointerOk q' 64 128 = true → exec (.walkStepCommit node) s = .next (walkGoes
          (rowCommit (walkSees u1 j.ent node ca) a (setFld (setFld (setFld (setFld rec1 0 49 q') 49 6 (fld rec 49 6 + 1)) 64 64 (fld rec 64 64 * 16 + c)) 56 1 0) j.ent fl)
          node j w hdrs row 0)))) ∧
  (∀ (h : WalkNode) (v : List Nat), let el := fun k => Int.bmod (v.getD k 0) (2 ^ 32)
    (h.rule ≠ 1 → decide3 true h v = some (if el 0 < (if h.rule = 0 then 0 else Int.bmod h.thresh (2 ^ 32)) then 0 else 1)) ∧
    (h.rule = 1 → 0 < h.kch → h.kch ≤ v.length → ∃ i < h.kch, decide3 true h v = some i ∧ ∀ k < h.kch, el k ≤ el i ∧ (k < i → el k < el i)))

/-- R114: ACHAIN of a chain of one vat only moves IP; every vat but the last asks its successor for a reservation, the first at once and the others with a
partial in their inbox, and with the grant sends its run and waits for its acceptance. A vat that is not the first adds the partial in its
inbox to its run before that, the last one to go on: each element is the rounded F32 sum, or the sum modulo 2^32, of the partial's and its own; a
row takes the partial's poison; the flags of the sums are raised; the inbox is empty and may be granted anew. A request waits at its successor, which
grants the oldest while its inbox is empty and unreserved; a partial enters the inbox, and the ACHAIN that sent it retires.
The model's own choices and readings in it: log 6, 81. -/
def Obligations.ChainResults : Prop :=
  (∀ (s : State) (z w first lo hi me : Nat) (r : Run), running s 2 = true → names s z first r → arrayClear s first → r.count ≤ 16 →
    wOk s w = true → kOk s 2 = true → kOk s 3 = true → kOk s 4 = true → kOk s 5 = true →
    lo = fld (wVal s w).toNat 0 16 → hi = fld (wVal s w).toNat 16 16 → me = (kWord s 2).toNat → lo ≤ me → me ≤ hi →
    hi < (kWord s 3).toNat * (kWord s 4).toNat →
    let k3 := (kWord s 3).toNat
    let k5 := (kWord s 5).toNat
    let req : ChainReq := ⟨s.cur.ck, s.cur.ent, vatAt (fld k5 0 6 + (me + 1) % k3) (fld k5 6 5 + (me + 1) / k3), s.curLid⟩
    (lo = hi → exec (.achain z w) s = .next (past 4 s)) ∧
    let asks := Host.Outcome.next (φ := Fault) (ρ := Refusal)
      (((s.modEntry s.curKey (fun e => { e with asked := true })).later (.chainReserveRequest req)).blockEntry s.curKey .chainGrant)
    let sends := fun (u : State) (r : Run) => Host.Outcome.next (φ := Fault) (ρ := Refusal)
      (((u.modEntry s.curKey (fun e => { e with asked := false, grant := false })).later
        (.chainPartialArrival req (u.partialOf s.node first r))).blockEntry s.curKey .chainSent)
    (lo = me → me < hi → s.curEntry.grant = false → s.curEntry.asked = false → exec (.achain z w) s = asks) ∧
    (lo = me → me < hi → s.curEntry.grant = true → exec (.achain z w) s = sends s r) ∧
    (lo < me → ∀ (sl : Slot) (q : Partial), s.curSlot? = some sl → sl.inbox = some q → q.count = r.count → q.elems.length = 512 * r.count →
      (q.afmt = 0 ∨ r.afmt = 0 ∨ q.afmt = r.afmt) →
      let fmt := if r.afmt = 0 then q.afmt else r.afmt
      let own := fun n => laneAt 32 (s.accRow s.node first (n / 64)) (n % 64)
      let sum := fun n => if fmt = tF32 then
          chunkSum (stRM s.curEntry.st) (floatFormat tF32) [] [decodeFloat (floatFormat tF32) (q.elems.getD n 0), decodeFloat (floatFormat tF32) (own n)]
        else ((q.elems.getD n 0 + own n) % 2 ^ 32, {})
      (me < hi → s.curEntry.grant = false → s.curEntry.asked = false → exec (.achain z w) s = asks) ∧
      ∃ acc : State, acc = { s with accMem := acc.accMem, accPoison := acc.accPoison } ∧
        (∀ n < 512 * r.count, laneAt 32 (acc.accRow s.node first (n / 64)) (n % 64) = (sum n).1 % 2 ^ 32) ∧
        (∀ row < 8 * r.count, acc.accBad s.node first row = (s.accBad s.node first row || q.poison.getD row false)) ∧
        (∀ a, outside a (accAddr s.node first 0) (2048 * r.count) → accByte acc a = accByte s a) ∧
        (let u := flagged (allFlags ((List.range (512 * r.count)).map (fun n => (sum n).2)))
          (((acc.setRun s.node first { r with afmt := fmt }).modSlot s.node s.curEntry.slot (fun x => { x with inbox := none })).grantChain
            s.node s.curEntry.slot)
         (me = hi → exec (.achain z w) s = .next (past 4 u)) ∧
         (me < hi → s.curEntry.grant = true → exec (.achain z w) s = sends u { r with afmt := fmt })))) ∧
  (∀ (s : State) (c : ChainReq) (p : Partial) (sl : Nat) (r : Slot), s.slotOfLid c.dst c.lid = some (sl, r) →
    s.slot? c.dst sl = some r →
    (r.inbox = none → r.reserved = none → r.asking = [] → exec (.chainReserveRequest c) s =
      .next { s with slots := mset s.slots (4 * c.dst + sl) { r with reserved := some c }, agenda := s.agenda ++ [.chainGrant c] }) ∧
    (r.inbox ≠ none ∨ r.reserved ≠ none → exec (.chainReserveRequest c) s =
      .next { s with slots := mset s.slots (4 * c.dst + sl) { r with asking := r.asking ++ [c] } }) ∧
    exec (.chainGrant c) s = .next (s.modEntry (32 * c.src + c.ent) (fun e => { e with asked := false, grant := true })) ∧
    ((s.entry (32 * c.src + c.ent)).wait = .chainSent → exec (.chainPartialArrival c p) s =
      .next (({ s with slots := mset s.slots (4 * c.dst + sl) { r with inbox := some p, reserved := none } }).modEntry (32 * c.src + c.ent)
        (fun e => { e with state := .active, wait := .none, ip := (e.ip + 4) % 0x200000 }))))

/-! ### The tree walk -/

/-- R136, R137, R101: WALK and WSTEP hold the array with their tiles, and the handler waits for the walk.
The model's own choices and readings in it: log 16, 18. -/
def Obligations.WalkEnters : Prop :=
  ∀ (s : State) (z f p e k first : Nat) (r : Run) (df dp : TileD), running s 3 = true → names s z first r → 4 ≤ r.count →
    readyTile s f 0 df → readyTile s p 2 dp → dp.rows = df.rows →
    (r.afmt = 0 ∨ r.afmt = if isMatInt df.tag then tS32 else tF32) → mget? s.arrays s.node = none → s.arrayTurn s.curKey = true →
    let enter := fun (lim : Nat) (single : Bool) => Host.Outcome.next (φ := Fault) (ρ := Refusal)
      (((s.enterArray first [df, dp] (some ⟨regVal s (0x4C0 + 16 * f) 16, df.tag, regVal s (0x4C0 + 16 * p) 16, lim, e == 1, single, [], .none, none, [], false⟩)).later
        (.walkStepCommit s.node)).blockEntry s.curKey .walk)
    exec (.wstep z f p e) s = enter 32 true ∧
    (kOk s k = true → exec (.walk z f p e k) s = enter (min (kWord s k).toNat 32) false)

/-- R133, R138, R139: WINIT gives every record of a progress tile its reset value under a root, WRES reads a record, or takes the poison trap where
its PSN is 1, WFIX makes a faulted row ACTIVE again, WCNT counts the rows of a status; poison marks of the record words themselves raise no trap.
The model's own choices and readings in it: log 15, 92. -/
def Obligations.ProgressRecords : Prop :=
  ∀ (s : State) (p a b : Nat) (d : TileD), running s 3 = true → readyTile s p 2 d → wOk s a = true →
    let base := 0x200000 * s.node + d.base
    let row := (wVal s a).toNat
    let rcd := s.peek (base + 16 * row) 16
    ((wVal s a).toNat < 2 ^ 49 → exec (.winit p a) s =
      .next (past 4 (s.poke base (16 * (d.rows + 1)) (packFields 128 (List.replicate (d.rows + 1) row))))) ∧
    (row ≤ d.rows → s.hasEmpty (base + 16 * row) 16 = false →
      (b < 15 → bitAt rcd 57 = false → wFree s b = true → wFree s (b + 1) = true → exec (.wres p b a) s =
        .next (past 4 (setW (setW s b (BitVec.ofNat 64 rcd)) (b + 1) (BitVec.ofNat 64 (rcd / 2 ^ 64))))) ∧
      (b < 15 → bitAt rcd 57 = true → wFree s b = true → wFree s (b + 1) = true → handled s →
        exec (.wres p b a) s = .next (entered s 0x09 (2 * 2 ^ 21 + row) s.curEntry.ip)) ∧
      exec (.wfix p a) s = .next (past 4 (if fld rcd 58 2 = 3 then s.poke (base + 16 * row) 16 (setFld (setFld rcd 58 2 0) 60 4 0) else s))) ∧
    (b ≤ 3 → s.hasEmpty base (16 * (d.rows + 1)) = false → ∀ c : Nat, wFree s c = true → exec (.wcnt p b c) s =
      .next (past 4 (setW s c (BitVec.ofNat 64 ((List.range (d.rows + 1)).filter (fun i => fld (s.peek (base + 16 * i) 16) 58 2 == b)).length))))

/-! ### Messages and handlers -/

/-- R155, R156, R158: SEND, SENDR and REPLY send their words to the core and channel that the destination word names, hold an outstanding
slot, and go on. SENDR puts a tag for the reply in front. REPLY goes to the core that its tag names; where its rectangle has accepted a SENDR of its own vats with
that tag and not answered it, the reply answers that, and goes to the vat that sent it, wherever that is now (the model's reading, log 98).
The model's own choices and readings in it: log 6, 98, 102. -/
def Obligations.SendResults : Prop :=
  ∀ (s s1 : State) (d a b n ck : Nat) (x : Word), running s 0 = true → wSource s a = true → source s a = some (x, s1) →
    destCore s1.node (isService s1.node) x.toNat = some ck → b + n < 16 → (∀ i ≤ n, wOk s1 (b + i) = true) → slotFree s1 = true →
    let c := fld x.toNat 20 4
    let sent := fun (t : State) (ck : Nat) (ws : List Word) (kind ret owed : Nat) => past 4 (t.later
      (.messageAccept ⟨s1.cur.ck, ck, c, x, ws, kind, ret, s1.curLid, s1.oids, owed⟩))
    let t := slotTaken true s1
    let tag := 16 * ck + c
    let asked := fun (p : Nat × Slot) => p.2.lid == s1.curLid && p.2.owes tag != 0
    (s1.refusalChan ≠ 0 → x.getLsbD 30 = false → exec (.send a b n) s = .next (sent t ck (wList s1 b (n + 1)) 0 s1.refusalChan 0)) ∧
    (s1.refusalChan ≠ 0 → x.getLsbD 30 = true → x.getLsbD 31 = false →
      ((∀ p ∈ s1.slots, asked p = false) → exec (.reply a b n) s = .next (sent t ck (wList s1 b (n + 1)) 2 s1.refusalChan 0)) ∧
      (∀ k r, s1.slots.find? asked = some (k, r) → exec (.reply a b n) s =
        .next (sent (t.modSlot (k / 4) (k % 4) (fun y => y.setOwes tag (r.owes tag - 1))) (4 * (k / 4) + ck % 4) (wList s1 b (n + 1)) 2
          s1.refusalChan (tag + 1)))) ∧
    (chanField s d = true → x.getLsbD 30 = false → s.node < 2048 →
      exec (.sendr d a b n) s = .next (sent t ck (Claims.replyTag s1 (d - 40) :: wList s1 b (n + 1)) 1 (d - 40) 0))

/-- R150, R159 to R161: a message for a channel of a resident rectangle with room enters whole and frees its slot; otherwise its refusal goes back,
with the first of NOCHAN, AWAY and FULL that applies; a refusal enters its sender's channel, as does every other item that is never refused, and frees
the slot then. Words that a blocked instruction has popped keep their room. A SENDR that its own rectangle accepts is noted as one to be answered,
and a refused REPLY leaves it so (the model's structure, log 98).
The model's own choices and readings in it: log 6, 98, 103. -/
def Obligations.MessageDelivery : Prop :=
  ∀ (s : State) (m : Message), s.waiting m.dst m.chan = [] → nodeOf m.dst < 2048 →
    let refused := fun (code : Nat) => exec (.messageAccept m) s = .next ((s.unanswered m).later (.refusalArrival m code))
    let counts := fun (node tag : Nat) => ∀ j q, s.slotOfLid node m.lid = some (j, q) →
      s.modSlot node j (fun x => x.setOwes tag (x.owes tag + 1)) = if m.kind = 1 then s.noteTag m else s.unanswered m
    (s.chanOwner m.dst m.chan = none → refused 2) ∧
    (∀ i r, s.chanOwner m.dst m.chan = some (i, r) →
      let used := (s.box m.dst m.chan).length + s.chanHeld m.dst m.chan
      (r.stopped = true → refused 3) ∧
      (r.stopped = false → 16 < used + m.words.length → refused 1) ∧
      (r.stopped = false → used + m.words.length ≤ 16 → exec (.messageAccept m) s =
        .next (((s.noteTag m).setBox m.dst m.chan (s.box m.dst m.chan ++ inBox false m.words)).freeOut m.src m.oid)) ∧
      (m.kind ≠ 1 ∨ m.lid ≠ r.lid → s.noteTag m = s) ∧
      (m.kind = 1 → m.lid = r.lid → counts (nodeOf m.src) (16 * m.src + m.ret))) ∧
    (m.owed = 0 → s.unanswered m = s) ∧ (m.kind ≠ 1 → m.owed ≠ 0 → counts (nodeOf m.dst) (m.owed - 1)) ∧
    (∀ code, roomFor s m.src m.ret (m.words.length + 2) → exec (.refusalArrival m code) s =
      .next ((({ s with waits := mset s.waits (16 * m.src + m.ret) [] } : State).setBox m.src m.ret (s.box m.src m.ret ++
        inBox false (BitVec.ofNat 64 (code + m.chan * 2 ^ 4 + m.words.length * 2 ^ 8 + m.kind * 2 ^ 12) :: m.dword :: m.words))).freeOut
        m.src m.oid)) ∧
    (∀ (ck c : Nat) (it : WaitItem) (rest : List WaitItem), s.waiting ck c = it :: rest → it.oid = none →
      (s.box ck c).length + s.chanHeld ck c + it.words.length ≤ 16 → exec (.neverRefusedEntry ck c) s =
      .next ((s.setBox ck c (s.box ck c ++ inBox it.acq it.words)).setWaiting ck c rest))

/-- R163 to R165: BIND, UNBIND, HMASK and HPRIO set fields of the handler entry with a logical number; PEEK counts a mailbox; DROP removes its
oldest message. On a service core, whose entries belong to no rectangle, UNBIND changes nothing and the others are an illegal operand (the model's
reading, log 99, with the INFO of log 49); DROP removes a completion record too and begins no new phase then (the model's choice, log 115).
The model's own choices and readings in it: log 49, 99, 115. -/
def Obligations.HandlerControls : Prop :=
  ∀ (s s1 s2 : State) (d a b e : Nat) (x y : Word), running s 0 = true →
    let ck := s.cur.ck
    (chanField s d = true → s.node < 2048 → exec (.unbind d) s = .next (past 4 { s with entries := s.entries.map (fun p =>
      if p.1 / 32 = ck then (p.1, { p.2 with chans := setFld p.2.chans (d - 40) 1 0 }) else p) })) ∧
    (2048 ≤ s.node → (chanField s d = true → exec (.unbind d) s = .next (past 4 s)) ∧
      (handled s → wSource s a = true → wSource s b = true → source s a = some (x, s1) → (∃ y s2, source s1 b = some (y, s2)) →
        (chanField s d = true → exec (.bind d a) s = .next (entered s 0x02 (a % 64 * 8 + 1) s.curEntry.ip)) ∧
        exec (.hmask a b) s = .next (entered s 0x02 (a % 64 * 8 + 1) s.curEntry.ip) ∧
        exec (.hprio a b) s = .next (entered s 0x02 (a % 64 * 8 + 1) s.curEntry.ip))) ∧
    (chanField s a = true → exec (.drop a) s = .next (past 4 (s.setBox ck (a - 40) ((s.box ck (a - 40)).drop
      (headLength (s.box ck (a - 40)))))) ∧
      (wDest s d = true → canTake s d = true → ∃ t, exec (.peek d a) s = .next (past 4 t) ∧
        dest s d (BitVec.ofNat 64 ((s.box ck (a - 40)).length + headLength (s.box ck (a - 40)) * 2 ^ 8 +
          match s.boundEntry ck (a - 40) with
          | some (_, h) => 2 ^ 16 + h.lhn * 2 ^ 17
          | none => 0)) = some t)) ∧
    (wSource s a = true → source s a = some (x, s1) →
      (chanField s d = true → s1.entryOfLhn x.toNat = some e → exec (.bind d a) s =
        .next (past 4 ((s1.unbindChan (d - 40)).modEntry (32 * ck + e) (fun h => { h with chans := setFld h.chans (d - 40) 1 1 })))) ∧
      (wSource s b = true → source s1 b = some (y, s2) → s2.entryOfLhn x.toNat = some e →
        exec (.hmask a b) s = .next (past 4 (s2.modEntry (32 * ck + e) (fun h => { h with msk := y.getLsbD 0 }))) ∧
        (y.toNat ≤ 7 → exec (.hprio a b) s = .next (past 4 (s2.modEntry (32 * ck + e) (fun h => { h with prio := y.toNat }))))))

/-- R153, R154, R166, R18, R23: YIELD steps behind the other candidates of its key; EXIT ends an activation that holds no run, and gives up its chain
reservation and mirror slots; a RUNNABLE entry starts with null tags and handles, ST zero, and WP and IP from its entry, the rest of its workspace
as it was; one with a .mirror list becomes the mirror owner with its words in the slots, in order. It does not start while a READY or DRAINING tile
holds the registers it clears (R223).
The model's own choices and readings in it: log 6, 8, 74, 87, 94. -/
def Obligations.HandlerTurns : Prop :=
  ∀ (s : State) (ck ent : Nat),
    (running s 0 = true → (∃ P : List Nat, exec .yield s = .next (past 4 (s.modEntry s.curKey (fun e => { e with yld := true, pset := P }))) ∧
      ∀ i, i ∈ P ↔ i ≠ s.cur.ent ∧ ∃ e, (i, e) ∈ s.entriesOf s.cur.ck ∧ s.isCand s.cur.ck e = true ∧
        s.issueKey s.cur.ck e = s.issueKey s.cur.ck s.curEntry)) ∧
    (running s 0 = true → (∀ p ∈ s.arrays, p.2.ent ≠ s.curKey) → (∀ p ∈ s.runs, p.2.owner ≠ s.curKey) →
      exec .exit s = .next (((s.dropChain s.curKey).modEntry s.curKey (fun e =>
        { e with state := .idle, wait := .none, st := 0, wp := 0, ip := 0, asked := false, grant := false })).releaseMirrors
        (s.curKey / 32) (s.curKey % 32)) ∧
      (s.curEntry.asked = false → s.curEntry.grant = false → s.dropChain s.curKey = s)) ∧
    (s.startHeld ck (s.entry (32 * ck + ent)) = true → exec (.activationStart ck ent) s = .next s) ∧
    (s.entryState ck (s.entry (32 * ck + ent)) = .runnable → s.startHeld ck (s.entry (32 * ck + ent)) = false →
      ∃ t, exec (.activationStart ck ent) s = .next t ∧
      (t.entry (32 * ck + ent)).state = .active ∧ (t.entry (32 * ck + ent)).lnch = false ∧ (t.entry (32 * ck + ent)).st = 0 ∧
      (t.entry (32 * ck + ent)).wp = (s.entry (32 * ck + ent)).ws ∧ (t.entry (32 * ck + ent)).ip = (s.entry (32 * ck + ent)).entry ∧
      (let z := 0x200000 * ((32 * ck + ent) / 32 / 4) + (s.entry (32 * ck + ent)).ws + 0x540
       t.peek z 48 = 0 ∧ (∀ a, outside a z 48 → spByte t a = spByte s a)) ∧
      (∀ k, k ≠ 32 * ck + ent → t.entry k = s.entry k) ∧
      (let ws := (s.entry (32 * ck + ent)).mirrors
       let core := (32 * ck + ent) / 32
       t.core core = if ws = [] then s.core core else
         { s.core core with owner := some ((32 * ck + ent) % 32), mir := (List.range ws.length).zip ws }) ∧
      t = { s with mem := t.mem, poison := t.poison, dirty := t.dirty, entries := t.entries, cores := t.cores })

/-! ### Launches -/

/-- R167, R168: LAUNCH reads its request and constants, checks them, gives the rectangle the next free launch id, and sends a reserve to each
of its vats. It takes no outstanding slot, and a service core counts its launches with its home vat and has no slot as a launcher (the model's choices,
log 100).
The model's own choices and readings in it: log 6, 67, 100. -/
def Obligations.LaunchIssues : Prop :=
  ∀ (s s1 : State) (d a n : Nat) (x : Word), running s 0 = true → chanField s d = true → wSource s a = true → source s a = some (x, s1) →
    let ea := x.toNat
    ea % 8 = 0 → 0x2000 ≤ ea → ea + 40 ≤ 0x200000 → readable s1 (0x200000 * s1.node + ea) 40 = true →
    n = 5 + 2 * fld (s1.peek (0x200000 * s1.node + ea) 8) 25 6 → ea + 8 * n ≤ 0x200000 → readable s1 (0x200000 * s1.node + ea) (8 * n) = true →
    let koff := fld (s1.peek (0x200000 * s1.node + ea + 32) 8) 0 21
    (koff = 0 ∨ (koff % 8 = 0 ∧ 0x2000 ≤ koff ∧ koff + 1920 ≤ 0x200000 ∧ readable s1 (0x200000 * s1.node + koff) 1920 = true)) →
    requestOk (wordsAt s1 ea n) = true →
    let home := homeVat s1.node
    let id := s1.pickLid (home * 2 ^ 20) 0xFFFFF s1.lidFuel (s1.vat home).ctr
    exec (.launch d a) s = .next (past 4 ((s1.modVat home (fun v => { v with ctr := id.2 })).startLaunch
      ⟨id.1, some s1.cur.ck, wordsAt s1 ea n, if koff = 0 then List.replicate 240 0 else wordsAt s1 koff 240, s1.myEndto (d - 40),
        if s1.node < 2048 then some (s1.curLid, (s1.curSlot?.map (·.lvn)).getD 0) else none, 0, [], []⟩))

/-- R169 to R172, Table 9-10: a vat that passes the reserve checks holds the request's resources and answers with code 0, one that fails them answers with
the code of the first that fails, and for HTAB and CHAN its lowest core; the last of the answers decides the launch; a vat commits once no READY or
DRAINING tile holds the registers it writes: it takes its lowest free slot with the request's resources, the lowest run of banks, generation 1 and EH 0, writes
the identity words and constants into the slot's window, fills the cores' lowest free handler entries, one per record, with logical numbers in order,
and clears the workspaces' null registers and the semaphores of SEMS; a launch that every vat has committed has a
resident rectangle, and its launcher a START word; a rejected one has no reservation left, and its launcher the code of the refusing vat with the lowest
logical number; a quiet rectangle ends, its slots are free, and its launcher gets END; one that is not quiet stays, and so does one whose IMAGE is under
way. A word for a launcher goes to the host, to the channel that ENDTO names, or is held while its rectangle is not resident or is being imaged.
The model's own choices and readings in it: log 6, 57, 67, 87, 100. -/
def Obligations.LaunchSteps : Prop :=
  (∀ (s : State) (l : Launch) (node : Nat), s.launches.find? (fun x => x.lid == l.lid) = some l →
    let shape := l.req.getD 0 0
    let ox := fld shape 0 6
    let oy := fld shape 6 5
    let nodes := rectNodes shape ox oy
    let gone := fun (u : State) => u.launches.filter (fun x => x.lid != l.lid)
    let w := fun (i : Nat) => l.req.getD i 0
    let has := fun (i lo n : Nat) (h : List Nat × Nat) => fld (h.1.getD i 0) lo n
    (let hs := s.holders node
     let code := s.reserveCode node l.req
     let space := ∃ h ∈ hs, fld (w 1) 0 10 < has 1 0 10 h + has 1 10 10 h ∧ has 1 0 10 h < fld (w 1) 0 10 + fld (w 1) 10 10
     let htab := fun (c : Nat) => 32 - ((s.entriesOf (4 * node + c)).filter (fun p => p.2.v)).length -
       ((s.vat node).resv.map (fun r => (recordsOf r.req c).length)).sum < (recordsOf l.req c).length
     let chan := fun (c : Nat) => ∃ h ∈ hs, has 2 (16 * c) 16 h &&& fld (w 2) (16 * c) 16 ≠ 0
     let abank := fld (w 1) 20 8 ≠ 0 ∧ ∀ b, ¬ bankRun hs (fld (w 1) 20 8) b
     let mq := 512 < (hs.map (has 1 28 10)).sum + fld (w 1) 28 10
     let sem := ∃ h ∈ hs, has 3 16 16 h &&& fld (w 3) 16 16 ≠ 0
     (∀ h, h ∈ hs ↔ (∃ p ∈ s.slots, p.1 / 4 = node ∧ h = ([p.2.shape, p.2.space, p.2.chans, p.2.rfcs], p.2.bank0)) ∨
       ∃ r ∈ (s.vat node).resv, h = (r.req, r.bank0)) ∧
     (4 ≤ hs.length → code = (1, 0)) ∧
     (hs.length < 4 → (space → code = (2, 0)) ∧
       (¬ space → (∀ c < 3, htab c → (∀ c' < c, ¬ htab c') → code = (3, c)) ∧
         ((∀ c < 3, ¬ htab c) → (∀ c < 3, chan c → (∀ c' < c, ¬ chan c') → code = (4, c)) ∧
           ((∀ c < 3, ¬ chan c) → (abank → code = (5, 0)) ∧ (¬ abank → (mq → code = (6, 0)) ∧
             (¬ mq → (sem → code = (9, 0)) ∧ (¬ sem → code = (0, 0))))))))) ∧
    (∀ code core, s.reserveCode node l.req = (code, core) →
      exec (.launchReserve node l.lid) s = .next ((if code = 0 then s.modVat node (fun v => { v with resv := v.resv ++
        [⟨l.lid, l.req, (freeBanks (s.holders node) (fld (l.req.getD 1 0) 20 8)).getD 0⟩] }) else s).answerLaunch l
        (lvnOf shape ox oy node, code, core))) ∧
    (let u := s.commitVat node l
     (∃ sl bank, sl < 4 ∧ (∀ i < sl, s.slot? node i ≠ none) ∧ ((∃ i < 4, s.slot? node i = none) → s.slot? node sl = none) ∧
        u.slots = mset s.slots (4 * node + sl)
          { lid := l.lid, lvn := lvnOf shape ox oy node, ox := ox, oy := oy, shape := shape, space := w 1, chans := w 2, rfcs := w 3,
            bank0 := bank, gen := 1, hwm := fld (w 1) 28 10 } ∧
        (∀ b, bankRun ((s.dropResv node l.lid).holders node) (fld (w 1) 20 8) b →
          bank ≤ b ∧ bankRun ((s.dropResv node l.lid).holders node) (fld (w 1) 20 8) bank) ∧
        u = { s with mem := u.mem, poison := u.poison, dirty := u.dirty, slots := u.slots, entries := u.entries, cores := u.cores, sems := u.sems,
                     vats := u.vats } ∧
        (let window := 0x200000 * node + 0x800 * sl
         let cleared := fun (r : Nat × Nat) => 0x200000 * node + (2048 * fld r.1 54 10 + 0x540)
         let words := [node % 64, node / 64, lvnOf shape ox oy node, 2 ^ fld shape 16 3, 2 ^ fld shape 19 3, oy * 64 + ox, l.lid, 0, 0, 0, 0, 0, 0, 0, 0, 0] ++
           l.consts
         (requestOk l.req = true → workspacesPlaced s → ∀ k < 256, u.peek (window + 8 * k) 8 = words.getD k 0 % 2 ^ 64) ∧
         (∀ r ∈ reqRecords l.req, u.peek (cleared r) 64 = 0) ∧
         (∀ a, outside a window 2048 → (∀ r ∈ reqRecords l.req, outside a (cleared r) 64) → spByte u a = spByte s a)) ∧
        (∀ c < 3, let ck := 4 * node + c
          let free := (List.range 32).filter (fun e => !(s.entry (32 * ck + e)).v)
          (∀ i (r : Nat × Nat) (e : Nat), (recordsOf l.req c)[i]? = some r → free[i]? = some e → u.entry (32 * ck + e) =
            { v := true, ws := 2048 * fld r.1 54 10, slot := sl, prio := fld r.1 49 3, msk := r.1.testBit 48, lnch := r.1.testBit 47, vregs := fld r.1 42 5,
              lhn := i, entry := 2 * fld r.1 1 20, chans := fld r.2 0 16, seq := (s.entry (32 * ck + e)).seq, phase := (s.entry (32 * ck + e)).phase,
              mirrors := s.mirrorsOf ck (2 * fld r.1 1 20) }) ∧
          (∀ e < 32, (∀ i < (recordsOf l.req c).length, free[i]? ≠ some e) → u.entry (32 * ck + e) = s.entry (32 * ck + e)) ∧
          mget (u.core ck).eh sl 0 = 0) ∧
        (∀ k, k < 32 * (4 * node) ∨ 32 * (4 * node + 3) ≤ k → u.entry k = s.entry k) ∧
        (∀ i < 16, u.semCount node i = if (w 3).testBit (16 + i) then 0 else s.semCount node i)) ∧
     (s.commitWaits node l = true → exec (.launchCommit node l.lid) s = .next (s.later (.launchCommit node l.lid))) ∧
     (s.commitWaits node l = false → l.commits.length + 1 < shapeSize shape → exec (.launchCommit node l.lid) s = .next { u with
        launches := u.launches.map (fun x => if x.lid = l.lid then { l with commits := l.commits ++ [node] } else x) }) ∧
     (s.commitWaits node l = false → l.commits.length + 1 = shapeSize shape → exec (.launchCommit node l.lid) s = .next ((State.deliver { u with
        launches := gone u, rects := u.rects ++ [⟨l.lid, shape, ox, oy, l.endto, l.auth, l.hostSeq⟩] } l.endto
          (BitVec.ofNat 64 (l.lid * 2 ^ 32))).later (.rectangleEnd l.lid)))) ∧
    ((∃ a ∈ l.answers, a.2.1 ≠ 0) → ∃ a ∈ l.answers, a.2.1 ≠ 0 ∧ (∀ b ∈ l.answers, b.2.1 ≠ 0 → a.1 ≤ b.1) ∧
      ∃ u : State, u = { s with launches := gone s, vats := u.vats } ∧ (∀ n ∈ nodes, ∀ r ∈ (u.vat n).resv, r.lid ≠ l.lid) ∧
        (let t := u.deliver l.endto (BitVec.ofNat 64 (a.2.1 + a.2.2 * 2 ^ 8 + a.1 * 2 ^ 16 + l.lid * 2 ^ 32))
         exec (.launchReject l.lid) s = .next (if l.endto = 0 then t.completeFrame l.hostSeq else t)))) ∧
  (∀ (s : State) (lid : Nat) (r : Rect), s.rects.find? (fun x => x.lid == lid) = some r →
    let imaged := ∃ j ∈ s.images, j.lid = lid ∧ j.active = true
    (s.quiet lid = false ∨ imaged → exec (.rectangleEnd lid) s = .next (s.later (.rectangleEnd lid))) ∧
    (let u := s.freeRect r
     (∀ x ∈ u.rects, x.lid ≠ lid) ∧
     (∀ n ∈ rectNodes r.shape r.ox r.oy, ∀ sl q, s.slotOfLid n lid = some (sl, q) → u.slot? n sl = none) ∧
     (s.quiet lid = true → ¬ imaged → let t := (u.release .package (fun w => w.lid == lid)).deliver r.endto (BitVec.ofNat 64 (0x10 + lid * 2 ^ 32))
      exec (.rectangleEnd lid) s = .next (if r.endto = 0 then t.completeFrame r.hostSeq else t)))) ∧
  (∀ (s : State) (endto : Nat) (w : Word),
    s.deliver 0 w = s.sendFrame (if w.toNat % 2 ^ 8 = 0x10 then 0x82 else 0x81) 8 w.toNat ∧
    (0 < endto → endto / 2 ^ 8 % 4 = 3 →
      s.deliver endto w = s.post (4 * (2048 + endto / 2 ^ 16 % 2 ^ 6) + 3) (endto % 2 ^ 4) { words := [w] }) ∧
    (0 < endto → endto / 2 ^ 8 % 4 ≠ 3 →
      let home := s.slots.find? (fun p => p.2.lid == endto / 2 ^ 32 % 2 ^ 32 && p.2.lvn == endto / 2 ^ 16 % 2 ^ 11)
      (∀ k r, home = some (k, r) → s.imageBegun (k / 4) r.lid = false →
        s.deliver endto w = s.post (4 * (k / 4) + endto / 2 ^ 8 % 4) (endto % 2 ^ 4) { words := [w] }) ∧
      (home = none → s.deliver endto w = { s with held := s.held ++ [⟨endto, w⟩] })))

/-! ### The Mordant queue -/

/-- R179, R186 to R189: MQFOLD sends a fold request; MQBIND and MQCFG set a class of the slot, or its HWM; MQDRAIN performs phase 1 with its mask;
MQSTAT counts the records of a class or of the queue. That the cycle of MQDRAIN begins with it is the model's reading (log 20).
The model's own choices and readings in it: log 6, 20. -/
def Obligations.MordantInstructions : Prop :=
  ∀ (s s1 s2 : State) (d a b : Nat) (x y : Word), running s 4 = true → wSource s a = true → source s a = some (x, s1) →
    (∀ (v : VVal) (tg : Word) (s3 : State) (ck : Nat), wSource s d = true → source s1 d = some (tg, s2) → vSource s2 b = true →
      vSourceOf s2 b = some (v, s3) → targetCore s2.node tg.toNat = some ck → s2.refusalChan ≠ 0 →
      x.toNat < 2 ^ 59 → fld x.toNat 52 4 < 10 → fld x.toNat 56 2 < 2 →
      (fld x.toNat 56 2 = 1 → isIntTag (if fld x.toNat 52 4 = 9 then 8 else v.tag) = true) →
      opAccepts (fld x.toNat 52 4) v.tag = true → slotFree s3 = true →
      exec (.mqfold d a b) s = .next (past 4 ((slotTaken true s3 true).later (.foldRequestArrival
        ⟨s3.cur.ck, ck, s3.curLid, tg, x, v.val, v.tag, s3.refusalChan, s3.oids⟩)))) ∧
    (wSource s b = true → source s1 b = some (y, s2) →
      (x.toNat ≤ 15 → y = 0 ∨ s2.ownsChan y.toNat = true → exec (.mqbind a b) s = .next (past 4 (s2.modCurSlot (fun r =>
        { r with classes := mset r.classes x.toNat { r.cls x.toNat with ch := y.toNat } })))) ∧
      (x.toNat ≤ 15 → y.toNat % 2 ^ 16 = 0 → exec (.mqcfg a b) s = .next (past 4 (s2.modCurSlot (fun r =>
        let c := r.cls x.toNat
        { r with classes := mset r.classes x.toNat { c with rval := fld y.toNat 48 16, ath := fld y.toNat 32 16, fth := fld y.toNat 16 16 } })))) ∧
      (∀ r, x = 16 → s2.curSlot? = some r → 1 ≤ y.toNat → y.toNat ≤ fld r.space 28 10 →
        exec (.mqcfg a b) s = .next (past 4 (s2.modCurSlot (fun r => { r with hwm := y.toNat }))))) ∧
    (x.toNat < 2 ^ 16 → exec (.mqdrain a) s = .next (past 4 ((((s1.phaseThree s1.node s1.curEntry.slot).phaseOne s1.node s1.curEntry.slot
      x.toNat).openCycle s1.node s1.curEntry.slot [s1.cur.ck]).queueEvents s1.node s1.curEntry.slot))) ∧
    (d < 16 → wFree s1 d = true → x.toNat ≤ 16 → ∀ r, s1.curSlot? = some r →
      let count := fun (f : MqRec → Bool) => (s1.mqs.filter (fun p => p.1 / 512 == s1.node && p.2.slot == s1.curEntry.slot && f p.2)).length
      let mine := fun (st : MqState) (q : MqRec) => fld q.header.toNat 48 4 == x.toNat && q.state == st
      exec (.mqstat d a) s = .next (past 4 (setW s1 d (BitVec.ofNat 64 (
        if x = 16 then fld r.space 28 10 + count (fun _ => true) * 2 ^ 16 + r.hwm * 2 ^ 32
        else count (mine .waiting) + count (mine .dispatching) * 2 ^ 16 + (r.cls x.toNat).ch * 2 ^ 32)))))

/-- R176, R178, Table 10-3: the combining operators on lanes: a sum modulo the lane size, a saturated sum, the lesser and the greater, and the logical
operations, floats ordered by the key of R57; ADD.X adds XS numbers exactly up to their limit; ARGMIN keeps of each pair of value and id the one with
the lesser value, and of equal values the lesser id; COUNT counts. The overflow column: a lane sum out of range, a lane saturated, an XS sum over
the limit, a count that wraps; +INF and −INF give NaN and NV. -/
def Obligations.CombineLanes : Prop :=
  (∀ (tag a b i : Nat), isLaneTag tag = true → i < lanesOf tag →
    let w := elemBits tag
    let x := laneAt w a i
    let y := laneAt w b i
    laneAt w (combine 0 tag a b).1 i = (x + y) % 2 ^ w ∧
    (isNTag tag = true → laneAt w (combine 1 tag a b).1 i = min (x + y) (2 ^ w - 1)) ∧
    (isNTag tag = true → laneAt w (combine 3 tag a b).1 i = min x y ∧ laneAt w (combine 4 tag a b).1 i = max x y) ∧
    (isSTag tag = true → Int.bmod (laneAt w (combine 3 tag a b).1 i) (2 ^ w) = min (Int.bmod x (2 ^ w)) (Int.bmod y (2 ^ w)) ∧
      Int.bmod (laneAt w (combine 4 tag a b).1 i) (2 ^ w) = max (Int.bmod x (2 ^ w)) (Int.bmod y (2 ^ w))) ∧
    laneAt w (combine 5 tag a b).1 i = Nat.land x y ∧ laneAt w (combine 6 tag a b).1 i = Nat.lor x y ∧
    laneAt w (combine 7 tag a b).1 i = Nat.xor x y ∧
    (isLaneFloat tag = true →
      laneAt w (combine 3 tag a b).1 i = (if relHolds .lt tag y x = true then y else x) ∧
      laneAt w (combine 4 tag a b).1 i = (if relHolds .lt tag x y = true then y else x))) ∧
  (∀ (tag a b : Nat), let w := elemBits tag
    ((combine 9 tag a b).1 = (a % 2 ^ 64 + 1) % 2 ^ 64 ∧ ((combine 9 tag a b).2.1 = true ↔ a % 2 ^ 64 = 2 ^ 64 - 1)) ∧
    (isNTag tag = true → ((combine 0 tag a b).2.1 = true ↔ ∃ i < lanesOf tag, 2 ^ w ≤ laneAt w a i + laneAt w b i) ∧
      ((combine 1 tag a b).2.1 = true ↔ ∃ i < lanesOf tag, 2 ^ w ≤ laneAt w a i + laneAt w b i)) ∧
    (isSTag tag = true → ((combine 0 tag a b).2.1 = true ↔ ∃ i < lanesOf tag, let v := Int.bmod (laneAt w a i) (2 ^ w) + Int.bmod (laneAt w b i) (2 ^ w)
      v < -(2 ^ (w - 1) : Int) ∨ (2 ^ (w - 1) : Int) ≤ v)) ∧
    (∀ op ∈ [3, 4, 5, 6, 7, 8], (combine op tag a b).2 = (false, false)) ∧
    (tag = tS32 ∨ tag = tN32 ∨ tag = tF32 → ∀ i < 8, let x := laneAt 64 a i
      let y := laneAt 64 b i
      let vx := x % 2 ^ 32
      let vy := y % 2 ^ 32
      laneAt 64 (combine 8 tag a b).1 i = (if relHolds .lt tag vy vx = true ∨ (vx = vy ∧ y / 2 ^ 32 < x / 2 ^ 32) then y else x)) ∧
    -- XS codes of 320 bits: the greatest is +INF, its negation −INF, the least NaN
    (let inf : Int := 2 ^ 319 - 1
     let x := Int.bmod a (2 ^ 320)
     let y := Int.bmod b (2 ^ 320)
     a < 2 ^ 320 → b < 2 ^ 320 →
      (-inf < x → x < inf → -inf < y → y < inf →
        (combine 2 tag a b) = ((max (-inf) (min inf (x + y)) % 2 ^ 320).toNat, decide (x + y ≤ -inf ∨ inf ≤ x + y), false)) ∧
      (x = inf → y = -inf → (combine 2 tag a b) = (2 ^ 319, false, true)) ∧
      (x < -inf → (combine 2 tag a b) = (2 ^ 319, false, false)) ∧
      (x = inf → -inf < y → (combine 2 tag a b) = ((inf : Int).toNat, false, false))))

/-- R178, R180 to R183: a fold for a slot without entries is refused with reason 3, one from another vat for a stopped slot with reason 4; with no
record of its key waiting it becomes a record of the queue, and is refused with reason 1 when none is free. With one, it is refused with reason 2
(CLASH) where operator, RK, CHK or tag differ; else it combines with it and marks the state word; under CHK a sum that overflows sends the waiting
record on its way (SPLIT) and becomes a new one, or is refused when none is free. The refusal enters its sender's channel with its eleven words.
The model's own choices and readings in it: log 6, 10, 103, 110. -/
def Obligations.FoldArrivals : Prop :=
  ∀ (s : State) (f : FoldReq), let node := nodeOf f.dst
    (s.slotOfLid node f.lid = none → exec (.foldRequestArrival f) s = .next (s.later (.foldRefusalArrival f 3))) ∧
    (∀ i r, s.slotOfLid node f.lid = some (i, r) →
      (fld r.space 28 10 = 0 → exec (.foldRequestArrival f) s = .next (s.later (.foldRefusalArrival f 3))) ∧
      (fld r.space 28 10 ≠ 0 → r.stopped = true → nodeOf f.src ≠ node →
        exec (.foldRequestArrival f) s = .next (s.later (.foldRefusalArrival f 4))) ∧
      (fld r.space 28 10 ≠ 0 → r.stopped = false ∨ nodeOf f.src = node →
        let mine := fun (q : MqRec) => q.state = .waiting ∧ hdrKey q.header = hdrKey f.header ∧ hdrClass q.header = hdrClass f.header
        let full := fld r.space 28 10 ≤ (s.recsOf node i).length
        let refused := fun (rsn : Nat) => exec (.foldRequestArrival f) s = .next (s.later (.foldRefusalArrival f rsn))
        let done := fun (t : State) => exec (.foldRequestArrival f) s = .next ((t.queueEvents node i).freeOut f.src f.oid)
        ((∀ p ∈ s.recsOf node i, ¬ mine p.2) → (¬ full → done (s.insertRec node i f)) ∧ (full → refused 1)) ∧
        (∀ k m, (k, m) ∈ s.recsOf node i → mine m → (∀ p ∈ s.recsOf node i, mine p.2 → p = (k, m)) →
          let op := hdrOp m.header
          let clash := hdrOp f.header ≠ op ∨ hdrRk f.header ≠ hdrRk m.header ∨ hdrChk f.header ≠ hdrChk m.header ∨ (op ≠ 9 ∧ f.tag ≠ m.tag)
          let v := combine op m.tag m.payload f.payload
          (clash → refused 2) ∧
          (¬ clash → hdrChk m.header = true → v.2.1 = true → (¬ full → done ((s.dispatchRec k 6).insertRec node i f)) ∧ (full → refused 1)) ∧
          (¬ clash → hdrChk m.header = false ∨ v.2.1 = false → done { s with mqs := mset s.mqs k { m with
            payload := v.1, folds := min (m.folds + 1) 0xFFFF, ovf := m.ovf || (v.2.1 && (op == 0 || op == 9)),
            sat := m.sat || (v.2.1 && op == 1), of := m.of || (v.2.1 && op == 2), nv := m.nv || v.2.2 } })))) ∧
    (∀ rsn, roomFor s f.src f.ret 11 → exec (.foldRefusalArrival f rsn) s =
      .next ((({ s with waits := mset s.waits (16 * f.src + f.ret) [] } : State).setBox f.src f.ret (s.box f.src f.ret ++
        inBox false (foldRefusalWords f rsn))).freeOut f.src f.oid))

/-- R174, R182, R184, R185, R191, Table 10-2: a queue with records begins its next cycle with phase 3 of the one at hand and then phase 1. Phase 1 marks, of the
WAITING records oldest first, none of a class without a channel, under RK EQ those whose lane 0 equals RVAL (reason 1), under other rules, while the
channel is idle and no older record of the class has gone by COUNT or AGE, those with FTH folds (2) or of age ATH (3), those of the drain mask (4);
then, of the others with a channel, the oldest beyond HWM (5); none while the slot is stopped. Phase 3 moves a record with its ten words to its class's
channel when there is room, and ends the cycle; a tick ages the waiting records of slots that are not stopped. Which folds share a cycle, and the notes of
it, are the model's structure (log 108). The premise that the table lists its entries in order holds through every step of the queue.
The model's own choices and readings in it: log 20, 21, 108. -/
def Obligations.QueueCycle : Prop :=
  (∀ (s : State) (node slot : Nat) (r : Slot), s.slot? node slot = some r →
    (let p := (s.phaseThree node slot).phaseOne node slot 0
     (s.recsOf node slot = [] → exec (.mqDispatch node slot) s = .next s) ∧
     (s.recsOf node slot ≠ [] → exec (.mqDispatch node slot) s = .next ((p.modSlot node slot (fun r =>
       { r with cycle := [], mark := p.oids, closed := false })).queueEvents node slot)) ∧
     (∀ f i, s.slotOfLid node f.lid = some (slot, i) → fld i.space 28 10 ≠ 0 → nodeOf f.dst = node → nodeOf f.src ≠ node → s.recsOf node slot ≠ [] →
       (s.cycleOf (.foldRequestArrival f)).mqs = if r.closed = true ∨ f.src ∈ r.cycle ∨ r.mark ≤ f.oid then p.mqs else s.mqs)) ∧
    (∀ mask : Nat, let t := s.phaseOne node slot mask
      let ws := s.waitingRecs node slot
      let cls := fun (q : MqRec) => r.cls (fld q.header.toNat 48 4)
      (r.stopped = true → t = s) ∧
      (r.stopped = false → (s.mqs.map (·.1)).Pairwise (· < ·) → ∃ d : Nat → Nat,
        (∀ i k q, ws[i]? = some (k, q) →
          let c := cls q
          let idle := (s.box (4 * node + 2) c.ch).isEmpty && (s.waiting (4 * node + 2) c.ch).isEmpty &&
            (match s.boundEntry (4 * node + 2) c.ch with
              | some (_, e) => s.entryState (4 * node + 2) e == .idle
              | none => true)
          let turn := idle && (ws.take i).all (fun p => fld p.2.header.toNat 48 4 != fld q.header.toNat 48 4 || (d p.1 != 2 && d p.1 != 3))
          let eq := decide (fld q.header.toNat 56 2 = 1)
          d k = if c.ch = 0 then 0
            else if eq && decide (((q.payload % 2 ^ elemBits q.tag : Nat) : Int) = Int.bmod c.rval (2 ^ 16) % (2 ^ elemBits q.tag : Nat)) then 1
            else if !eq && turn && decide (c.fth ≠ 0 ∧ c.fth ≤ q.folds) then 2
            else if !eq && turn && decide (c.ath ≠ 0 ∧ c.ath ≤ q.age) then 3
            else if mask.testBit (fld q.header.toNat 48 4) then 4 else 0) ∧
        (let left := ws.filter (fun p => d p.1 == 0 && (cls p.2).ch != 0)
         let why := fun (k : Nat) => if d k ≠ 0 then d k else if k ∈ (left.take (left.length - r.hwm)).map (·.1) then 5 else 0
         t = { s with mqs := t.mqs } ∧ ∀ k, mget? t.mqs k = (mget? s.mqs k).map (fun q =>
           if k ∈ ws.map (·.1) ∧ why k ≠ 0 then { q with state := .dispatching, reason := why k } else q)))) ∧
    (∀ k q, let ch := (r.cls (hdrClass q.header)).ch
      s.dispatchingRecs node slot = [(k, q)] → ch ≠ 0 → r.stopped = false → roomFor s (4 * node + 2) ch 10 →
      exec (.dispatchDelivery node slot) s = .next (((({ s with mqs := mdel s.mqs k } : State).setBox (4 * node + 2) ch
        (s.box (4 * node + 2) ch ++ inBox false (recordWords q))).modSlot node slot (fun r => { r with closed := true })).queueEvents node slot)) ∧
    (let u := (List.range 4).foldl (fun s i => s.newCycle node i) s
     ∃ t, exec (.ageTick node) s = .next t ∧ t = { u with mqs := t.mqs, agenda := t.agenda } ∧
      ∀ k q, mget? u.mqs k = some q → mget? t.mqs k = some
        (if k / 512 = node ∧ q.state = .waiting ∧ ((u.slot? node q.slot).map (·.stopped)).getD false = false then
          { q with age := min (q.age + 1) 0xFFFF } else q))) ∧
  (∀ (s t : State) (node slot : Nat) (f : FoldReq), (s.mqs.map (·.1)).Pairwise (· < ·) → ((s.cycleOf (.foldRequestArrival f)).mqs.map (·.1)).Pairwise (· < ·) ∧
    (∀ i ∈ [.mqDispatch node slot, .dispatchDelivery node slot, .ageTick node, .foldRequestArrival f], exec i s = .next t → (t.mqs.map (·.1)).Pairwise (· < ·)))

/-! ### Near and far memory -/

/-- R201, R203: RLD and RST of the executing vat read and write its scratchpad; of another they send a request, for whose reply RLD waits; the entry
keeps the word that a queue or channel operand of RLD popped.
The model's own choices and readings in it: log 6, 19, 103. -/
def Obligations.NearAccess : Prop :=
  ∀ (s s1 : State) (d a b : Nat) (x : Word), running s 5 = true → wSource s a = true → source s a = some (x, s1) → x.toNat < 2 ^ 32 →
    x.toNat % 8 = 0 → s1.node < 2048 →
    let off := x.toNat % 0x200000
    let node := fld x.toNat 21 5 * 64 + fld x.toNat 26 6
    let addr := 0x200000 * node + off
    (d < 16 → node = s1.node → loadOk s1 off 8 = true → wFree s1 d = true → ∃ v < 256 ^ 8,
      (∀ j < 8, v / 256 ^ j % 256 = loadByte s1 (off + j)) ∧
      exec (.rld d a) s = .next (past 4 (setW s1 d (BitVec.ofNat 64 v)))) ∧
    (d < 16 → node ≠ s1.node → slotFree s1 = true → exec (.rld d a) s = .next (waitsReply s a s1.oids ((slotTaken false s1).later
      (.nearReadRequest ⟨s1.cur.ck, s1.cur.ent, .read, addr, 0, 0, d, s1.curLid, s1.oids⟩)))) ∧
    (a < 16 → s.poppedBy a = []) ∧
    (∀ e r, 32 ≤ a → a < 40 → takeEntry s.curEntry.slot (s.queue s.node (a - 32)) = some (e, r) → s.poppedBy a = [.queue (a - 32) e]) ∧
    (∀ w r, 40 ≤ a → s.box s.cur.ck (a - 40) = w :: r → s.poppedBy a = if a < 56 then [.chan (a - 40) w] else []) ∧
    (b < 16 → wOk s1 b = true → 0x2000 ≤ off →
      (node = s1.node → s1.tileHeld s1.node off 8 = false → exec (.rst a b) s = .next (past 4 (s1.poke addr 8 (wVal s1 b).toNat))) ∧
      (node ≠ s1.node → slotFree s1 = true → exec (.rst a b) s = .next (past 4 (((slotTaken false s1).dropGranules s1.curKey false (addr / 64)
        1).later (.nearStoreArrival ⟨s1.cur.ck, s1.cur.ent, .write, addr, wVal s1 b, 0, 0, s1.curLid, s1.oids⟩)))))

/-- R203, R206, R207, R217, R218, R223, R28: a near read of a full line answers its word and poison, and fixes its 64-byte granule for the phase; a near
store writes; a near atomic computes and writes its word and answers the old one, and modifies no poisoned word; each waits at an empty line or a held
tile; the reply writes the destination, once no READY or DRAINING tile holds it, and retires the instruction, or takes the poison trap, the popped word
of its address back at the head. What the entry notes of its accesses is the model's own structure (log 97).
The model's own choices and readings in it: log 12, 19, 73, 97, 103. -/
def Obligations.NearEvents : Prop :=
  ∀ (s : State) (r : NearReq) (data : Nat), r.addr % 8 = 0 →
    let k := 32 * r.src + r.ent
    (s.hasEmpty r.addr 8 = true → exec (.nearReadRequest r) s = .next (s.later (.nearReadRequest r)) ∧
      exec (.nearAtomicArrival r) s = .next (s.later (.nearAtomicArrival r))) ∧
    (s.hasEmpty r.addr 8 = false → 0x2000 ≤ r.addr % 0x200000 → s.granule k (s.entry k).phase false (r.addr / 64) = none →
      exec (.nearReadRequest r) s = .next (((s.noteGranule k ⟨(s.entry k).phase, false, r.addr / 64,
        s.peek (r.addr / 64 * 64) 64, marksIn s.poison (r.addr / 64 * 64 / 8) 8⟩).nearSeen k (r.addr / 0x200000)).later
          (.nearReadReply r (s.peek r.addr 8) (s.poisoned r.addr 8).isSome))) ∧
    (s.tileHeld (r.addr / 0x200000) (r.addr % 0x200000) 8 = true → exec (.nearStoreArrival r) s = .next (s.later (.nearStoreArrival r)) ∧
      exec (.nearAtomicArrival r) s = .next (s.later (.nearAtomicArrival r))) ∧
    (s.tileHeld (r.addr / 0x200000) (r.addr % 0x200000) 8 = false →
      let u := s.nearSeen k (r.addr / 0x200000)
      exec (.nearStoreArrival r) s = .next (((s.poke r.addr 8 r.data.toNat).nearSeen k (r.addr / 0x200000)).freeOut r.src r.oid) ∧
      (∀ w, s.hasEmpty r.addr 8 = false → s.poisoned r.addr 8 = some w → exec (.nearAtomicArrival r) s =
        .next (u.later (.nearReadReply r 0 true))) ∧
      (s.hasEmpty r.addr 8 = false → s.poisoned r.addr 8 = none → exec (.nearAtomicArrival r) s =
        .next ((match atomicWord r.op (BitVec.ofNat 64 (s.peek r.addr 8)) r.cmp r.data with
          | some v => u.poke r.addr 8 v.toNat
          | none => u).later (.nearReadReply r (s.peek r.addr 8) false))) ∧
      u = s.modEntry k (fun e => { e with nearAt := mset e.nearAt (r.addr / 0x200000) (s.turn + 1) })) ∧
    ((s.entry k).state = .blocked → (s.entry k).wait = .reply r.oid →
      (s.regsHeld k (8 * r.reg) 8 = true → exec (.nearReadReply r data false) s = .next (s.later (.nearReadReply r data false))) ∧
      (s.regsHeld k (8 * r.reg) 8 = false → exec (.nearReadReply r data false) s = .next (retired k
        ((s.freeOut r.src r.oid).poke (0x200000 * (k / 32 / 4) + ((s.entry k).wp + 8 * r.reg)) 8 data))) ∧
      exec (.nearReadReply r data true) s = .next (((s.freeOut r.src r.oid).putBack k).takeTrap k 0x09
        ((if r.op = .read then 0 else 3) * 2 ^ 21 + r.addr % 2 ^ 21) false)) ∧
    (((s.entry k).taken = [] → s.putBack k = s) ∧
      (∀ c w, (s.entry k).taken = [.chan c w] → s.putBack k = s.setBox (k / 32) c (w :: s.box (k / 32) c)) ∧
      ∀ q e, (s.entry k).taken = [.queue q e] → s.putBack k = s.setQueue (k / 32 / 4) q (e :: s.queue (k / 32 / 4) q))

/-- R209, R212 to R214: a far access whose page translates takes an outstanding slot and sends its request; RDF and WRF go on, LDF and STF wait for
the reply, and the entry keeps the word that their address operand popped. The snapshots of R231 are the model's own structure: a write ends what the
phase has fixed of its granules (log 19, DEDUCED; log 97).
The model's own choices and readings in it: log 6, 19, 33, 66, 97, 103. -/
def Obligations.FarRequests : Prop :=
  ∀ (s s1 s2 : State) (d a b pa k : Nat) (x w : Word), running s 5 = true → wSource s a = true → source s a = some (x, s1) → farForm x →
    let vat := homeVat s.node
    let c := w.toNat % 16
    let size := w.toNat / 2 ^ 8 % 4
    (wSource s b = true → source s1 b = some (w, s2) → farRequest w.toNat → c ≠ 0 → s2.ownsChan c = true → x.toNat % farBytes w.toNat = 0 →
      s2.lookup vat x.toNat accRead = .physical pa k → slotFree s2 = true → exec (.rdf a b) s =
      .next (past 4 ((farLeaves s2 k pa (farBytes w.toNat) false).later (.farMemoryAccess
        (farReqOf s2 .read x pa (farBytes w.toNat) 0 0 (.chan c (w.toNat / 2 ^ 16 % 2 ^ 16) size)))))) ∧
    (∀ (v : VVal) (s3 : State), wSource s d = true → source s1 d = some (w, s2) → farRequest w.toNat → c = 0 ∨ s2.ownsChan c = true →
      x.toNat % farBytes w.toNat = 0 →
      ((size = 0 ∧ b < 16 ∧ wOk s2 b = true ∧ v = ⟨tN8, (wVal s2 b).toNat⟩ ∧ s3 = s2) ∨
       (size = 1 ∧ b < 15 ∧ wOk s2 b = true ∧ wOk s2 (b + 1) = true ∧ v = ⟨tN8, (wVal s2 b).toNat + 2 ^ 64 * (wVal s2 (b + 1)).toNat⟩ ∧ s3 = s2) ∨
       (size = 2 ∧ vSource s b = true ∧ vSourceOf s2 b = some (v, s3) ∧ isVTag v.tag = true)) →
      s3.lookup vat x.toNat accWrite = .physical pa k → slotFree s3 = true → exec (.wrf d a b) s =
      .next (past 4 ((farLeaves s3 k pa (farBytes w.toNat) true).later (.farMemoryAccess
        (farReqOf s3 .write x pa (farBytes w.toNat) v.val 0 (.chan c (w.toNat / 2 ^ 16 % 2 ^ 16) size)))))) ∧
    (wDest s d = true ∨ vDest s d = true → (let n := if isV d ∨ isVQueue d then 64 else 8
      x.toNat % n = 0 → s1.lookup vat x.toNat accRead = .physical pa k → (isQueue d = true → s1.hasRoom s1.node (d - 32) = true) →
      slotFree s1 = true → exec (.ldf d a) s = .next (waitsReply s a s1.oids ((farLeaves s1 k pa n false).later (.farMemoryAccess
        (farReqOf s1 .read x pa n 0 0 (.load d))))))) ∧
    (∀ (v : VVal) (n : Nat),
      ((wSource s b = true ∧ n = 8 ∧ ∃ y, source s1 b = some (y, s2) ∧ v = ⟨tN8, y.toNat⟩) ∨
       (vSource s b = true ∧ n = 64 ∧ vSourceOf s1 b = some (v, s2) ∧ isVTag v.tag = true)) → x.toNat % n = 0 →
      s2.lookup vat x.toNat accWrite = .physical pa k → slotFree s2 = true → exec (.stf a b) s =
      .next (waitsReply s a s2.oids ((farLeaves s2 k pa n true).later (.farMemoryAccess (farReqOf s2 .write x pa n v.val 0 .store)))))

/-- R216 to R219: CAS and the AMOs, near or far, send an atomic request with their operands and wait for its reply, the word that their address operand
popped kept. That the request ends what the phase has fixed of its granules is the model's own structure (log 19, DEDUCED; log 97), as it does for
a CAS that then fails (log 113).
The model's own choices and readings in it: log 6, 19, 33, 66, 97, 103, 113. -/
def Obligations.AtomicRequests : Prop :=
  ∀ (s s1 : State) (d a b pa k : Nat) (x : Word), running s 5 = true → wSource s a = true → source s a = some (x, s1) → d < 16 → b < 16 →
    wOk s1 b = true → x.toNat % 8 = 0 → slotFree s1 = true →
    ∀ p ∈ atomics, (p.2 = .cas → wOk s1 d = true) →
      let cmp : Word := if p.2 = .cas then wVal s1 d else 0
      let addr := 0x200000 * (fld x.toNat 21 5 * 64 + fld x.toNat 26 6) + x.toNat % 0x200000
      (x.toNat < 2 ^ 32 → 0x2000 ≤ x.toNat % 0x200000 → exec (p.1 d a b) s =
        .next (waitsReply s a s1.oids (((slotTaken false s1).dropGranules s1.curKey false (addr / 64) 1).later (.nearAtomicArrival
          ⟨s1.cur.ck, s1.cur.ent, p.2, addr, wVal s1 b, cmp, d, s1.curLid, s1.oids⟩)))) ∧
      (x.getLsbD 63 = true → x ≠ BitVec.allOnes 64 → (∀ i, 57 ≤ i → i < 63 → x.getLsbD i = x.getLsbD 56) →
        s1.lookup (homeVat s.node) x.toNat accAtomic = .physical pa k → exec (p.1 d a b) s =
        .next (waitsReply s a s1.oids ((farLeaves s1 k pa 8 true).later
          (.farAtomicService (farReqOf s1 p.2 x pa 8 (wVal s1 b).toNat cmp.toNat (.atomic d))))))

/-- R208, R211, R212, R214, R215, R217, R219, R223: far memory performs a write, a read, 16 bytes at a time, or an atomic, and replies; where there is no
memory a write is dropped, and the reply has STATUS NOMEM; the reply enters the channel of its request, or writes a W register, a V register with its tag, or a queue, once no READY or
DRAINING tile holds the register, and retires the instruction, or is a far-access or poison trap. That a write ends what reads in flight have fixed of its
granules, that a granule already fixed answers a read, and what the entry notes of its reads and writes, is the model's own structure (log 19, DEDUCED;
log 97).
The model's own choices and readings in it: log 13, 19, 73, 97, 103. -/
def Obligations.FarEvents : Prop :=
  ∀ (s : State) (r : FarReq) (data status : Nat),
    let k := 32 * r.src + r.ent
    (s.noMem r.pa = true → exec (.farAtomicService r) s = .next (s.later (.farReplyArrival r 2 0)) ∧
      (r.op = .read → exec (.farMemoryAccess r) s = .next (s.later (.farReplyArrival r 2 0))) ∧
      (r.op = .write → (∀ tag size, r.replyTo = .chan 0 tag size → exec (.farMemoryAccess r) s = .next (s.freeOut r.src r.oid)) ∧
        ((∀ tag size, r.replyTo ≠ .chan 0 tag size) → exec (.farMemoryAccess r) s = .next (s.later (.farReplyArrival r 2 0))))) ∧
    (s.noMem r.pa = false → r.op = .write → r.pos < r.size →
      let n := min 16 (r.size - r.pos)
      let done : State := fixedEnds (s.farPoke (r.pa + r.pos) n (r.data / 256 ^ r.pos % 256 ^ n)) r (r.pa + r.pos) n
      let rest : FarReq := { r with pos := r.pos + n }
      (r.pos + n < r.size → exec (.farMemoryAccess r) s = .next { done with agenda := .farMemoryAccess rest :: done.agenda }) ∧
      (r.pos + n = r.size → (∀ tag size, r.replyTo = .chan 0 tag size → exec (.farMemoryAccess r) s = .next (done.freeOut r.src r.oid)) ∧
        ((∀ tag size, r.replyTo ≠ .chan 0 tag size) → exec (.farMemoryAccess r) s = .next (done.later (.farReplyArrival rest 0 0))))) ∧
    (∀ (g : Granule) (t : State), s.noMem r.pa = false → r.op = .read → r.pos < r.size → (r.pa + r.pos) % 16 = 0 →
      r.size - r.pos = 8 ∨ (r.size - r.pos) % 16 = 0 →
      ((s.granule k r.phase true ((r.pa + r.pos) / 16) = none ∧ g = farNow s r.phase (r.pa + r.pos) ∧ t = (s.noteGranule k g).modEntry k (fun e => { e with
          readAt := mset e.readAt ((r.pa + r.pos) / 16) (s.turn + 1) })) ∨
        (s.granule k r.phase true ((r.pa + r.pos) / 16) = some g ∧ t = s)) →
      let n := min 16 (r.size - r.pos)
      let rest : FarReq := { r with
        pos := r.pos + n
        got := r.got + g.data % 256 ^ n * 256 ^ r.pos
        bad := r.bad || (g.marks.contains 0 || (n == 16 && g.marks.contains 1)) }
      (rest.pos < r.size → exec (.farMemoryAccess r) s = .next { t with agenda := .farMemoryAccess rest :: t.agenda }) ∧
      (rest.pos = r.size → exec (.farMemoryAccess r) s = .next (t.later (.farReplyArrival rest (if rest.bad then 1 else 0) rest.got)))) ∧
    (s.noMem r.pa = false → s.farBad r.pa 8 = true → ∃ t : State, exec (.farAtomicService r) s = .next (t.later (.farReplyArrival r 1 0)) ∧
      t = { s with atomics := t.atomics }) ∧
    (s.noMem r.pa = false → s.farBad r.pa 8 = false → ∃ t, exec (.farAtomicService r) s = .next t ∧
      t.agenda = s.agenda ++ [.farReplyArrival r 0 (s.farPeek r.pa 8)] ∧
      t.far = (match atomicWord r.op (BitVec.ofNat 64 (s.farPeek r.pa 8)) (BitVec.ofNat 64 r.cmp) (BitVec.ofNat 64 r.data) with
        | some v => (s.farPoke r.pa 8 v.toNat).far
        | none => s.far)) ∧
    ((s.entry k).state = .blocked → (s.entry k).wait = .reply r.oid → (∀ c tag size, r.replyTo ≠ .chan c tag size) →
      let u := s.freeOut r.src r.oid
      let base := 0x200000 * (k / 32 / 4) + (s.entry k).wp
      (status = 2 → exec (.farReplyArrival r status data) s = .next ((u.putBack k).takeTrap k 0x0B 2 false)) ∧
      (status = 1 → exec (.farReplyArrival r status data) s = .next ((u.putBack k).takeTrap k 0x09 (3 * 2 ^ 21 + r.va % 2 ^ 21) false)) ∧
      (status = 0 → ∀ d, r.replyTo = .atomic d ∨ (r.replyTo = .load d ∧ d < 16) →
        (s.regsHeld k (8 * d) 8 = true → exec (.farReplyArrival r status data) s = .next (s.later (.farReplyArrival r status data))) ∧
        (s.regsHeld k (8 * d) 8 = false → exec (.farReplyArrival r status data) s = .next (retired k (u.poke (base + 8 * d) 8 data)))) ∧
      (status = 0 → ∀ d < 16, r.replyTo = .load (16 + d) → s.regsHeld k (0x80 + 64 * d) 64 = false → s.regsHeld k 0x560 16 = false →
        exec (.farReplyArrival r status data) s = .next (retired k (let v := u.poke (base + 0x80 + 64 * d) 64 data
          v.poke (base + 0x560) 16 (setFld (v.peek (base + 0x560) 16) (5 * d) 5 tN8)))) ∧
      (status = 0 → ∀ q < 8, r.replyTo = .load (32 + q) → exec (.farReplyArrival r status data) s = .next (retired k
        (u.setQueue (k / 32 / 4) q (u.queue (k / 32 / 4) q ++ [⟨(s.entry k).slot, if q < 6 then 0 else tN8, data⟩])))) ∧
      (status = 0 → r.replyTo = .store → exec (.farReplyArrival r status data) s = .next (retired k u))) ∧
    (∀ c tag size, r.replyTo = .chan c tag size → roomFor s r.src c (if r.op = .write then 1 else 1 + r.size / 8) →
      exec (.farReplyArrival r status data) s = .next ((({ s with waits := mset s.waits (16 * r.src + c) [] } : State).setBox r.src c
        (s.box r.src c ++ inBox false (BitVec.ofNat 64 (status * 2 ^ 4 + size * 2 ^ 8 + (if r.op = .write then 1 else 0) * 2 ^ 12 + tag * 2 ^ 16) ::
          (if r.op = .write then [] else (List.range (r.size / 8)).map (fun i => BitVec.ofNat 64 (fld data (64 * i) 64)))))).freeOut r.src r.oid))

/-! ### Phases, tiles, semaphores -/

/-- R232 to R235: PHASE arrives in its group, with a release of its scope, and waits; the arrival that fills the oldest generation makes its departure due,
which ends each waiting PHASE as an acquire; FENCE, once the handler's writes are performed, is a release of its scope and begins a new phase of the
handler's remote reads. An earlier value of a far granule that such a release covers is no longer found by a reader in its reach whose last acquire comes
after it (R231 PHASE; the values kept are the model's structure, log 97). The number of the generation is kept modulo 256 (log 65).
The model's own choices and readings in it: log 22, 23, 65, 97. -/
def Obligations.PhaseAndFence : Prop :=
  ∀ (s s1 : State) (a scope : Nat) (x : Word), running s 0 = true → scope ≤ 5 →
    (drained s → exec (.fence scope) s = .next (past 4 ((s.releaseScope scope 0).newPhase s.curKey))) ∧
    (wSource s a = true → source s a = some (x, s1) → x.toNat < 2 ^ 24 → x.toNat / 2 ^ 7 % 2 ^ 8 = 0 → x.toNat % 2 ^ 7 ≤ 95 →
      (x.getLsbD 15 = true → scope = 1 ∧ ∃ r, s1.curSlot? = some r ∧ x.toNat / 2 ^ 16 % 16 ≤ fld r.shape 16 3 ∧
        x.toNat / 2 ^ 20 % 16 ≤ fld r.shape 19 3) → drained s1 →
      let g := s1.phaseGroup scope x.toNat
      let q := s1.phaseRec g
      let p : PhaseGroup := { q with arr := q.arr ++ [(s1.node, x.toNat % 2 ^ 16, s1.curKey)] }
      ((openArrivals (arrivalsOf q s1.node).length (arrivalsOf q s1.node)).head?.map (·.2.1)).getD (x.toNat % 2 ^ 16) = x.toNat % 2 ^ 16 →
      exec (.phase a scope) s = .next ((if generationFull p then ((s1.releaseScope scope x.toNat).setPhaseRec p).later (.phaseDeparture g)
        else (s1.releaseScope scope x.toNat).setPhaseRec p).blockEntry s.curKey (.phase g))) ∧
    (∀ g, (generationFull (s.phaseRec g) = false → exec (.phaseDeparture g) s = .next s) ∧
      (generationFull (s.phaseRec g) = true → ∃ t, exec (.phaseDeparture g) s = .next t ∧ (t.phaseRec g).gen = ((s.phaseRec g).gen + 1) % 256 ∧
        (∀ b ∈ (splitGeneration (s.phaseRec g)).1, (s.entry b.2.2).state = .blocked → (s.entry b.2.2).wait = .phase g →
          (t.entry b.2.2).state = .active ∧ (t.entry b.2.2).ip = ((s.entry b.2.2).ip + 4) % 0x200000 ∧
          (t.entry b.2.2).phase = (s.entry b.2.2).phase + 1) ∧
        t = { s with entries := t.entries, phases := t.phases, agenda := t.agenda })) ∧
    (∀ (reach : Reach) (mine : Writer → Bool), ∀ c ∈ s.stale, c.writers.any mine = true →
      { c with bars := c.bars ++ [⟨(s.release reach mine).rels, reach⟩] } ∈ (s.release reach mine).stale) ∧
    (∀ k n c, s.stale[n]? = some c → (∃ b ∈ c.bars, b.rel ≤ (s.entry k).relAt ∧ b.reach.serves (k / 32 / 4) = true) → s.recallCopy k n = s)

/-- R224, R225, R253: TSTATE reads an entry that no other slot uses, zero of one that another uses and on a service core (log 96, DEDUCED); TWAIT
goes on in a state that its mask names and waits in others; LFILL makes lines full, LEMPTY makes empty those that no READY or DRAINING entry covers; SEMP takes a count that no handler waits for and begins a new phase, or waits;
SEMV adds a count up to 65,535; SEMR reads count and waiters.
The model's own choices and readings in it: log 9, 96. -/
def Obligations.TilesAndSemaphores : Prop :=
  (∀ (s s1 s2 : State) (d a b : Nat) (x y : Word), running s 0 = true → wSource s a = true → source s a = some (x, s1) →
    (d < 16 → wFree s1 d = true → x.toNat < 64 → let t := s1.tile s1.node x.toNat
      exec (.tstate d a) s = .next (past 4 (setW s1 d (BitVec.ofNat 64 (if s1.node < 2048 ∧ (t.v = true → t.slot = s1.curEntry.slot) then
        t.uleft * 2 ^ 36 + stateCode t.state * 2 ^ 34 + t.cons * 2 ^ 28 + t.pend else 0))))) ∧
    (wSource s b = true → source s1 b = some (y, s2) → s2.node < 2048 →
      (let t := s2.tile s2.node x.toNat
       x.toNat < 64 → t.v = true → t.slot = s2.curEntry.slot → 0 < y.toNat → y.toNat < 16 →
        (y.getLsbD (stateCode t.state) = true → exec (.twait a b) s = .next (past 4 s2)) ∧
        (y.getLsbD (stateCode t.state) = false → exec (.twait a b) s = .next (s.blockEntry s.curKey .retry))) ∧
      (x.toNat % 128 = 0 → y.toNat % 128 = 0 → 0 < y.toNat → 0x2000 ≤ x.toNat → y.toNat + x.toNat ≤ 0x200000 →
        let lo := 0x200000 * s2.node + x.toNat
        (exec (.lfill a b) s = .next (past 4 (s2.lfill s2.node s2.curEntry.slot x.toNat y.toNat)) ∧
          (s2.lfill s2.node s2.curEntry.slot x.toNat y.toNat).hasEmpty lo y.toNat = false) ∧
        (exec (.lempty a b) s = .next (past 4 (s2.lempty s2.node x.toNat y.toNat)) ∧
          ∀ i < y.toNat / 128, s2.tileHeld s2.node (x.toNat + 128 * i) 128 = false →
            (s2.lempty s2.node x.toNat y.toNat).hasEmpty (lo + 128 * i) 128 = true)))) ∧
  (∀ (s s1 : State) (d a i : Nat) (x : Word), running s 0 = true → wSource s a = true → source s a = some (x, s1) → x.toNat = i →
    s1.ownsSem i = true →
    (s1.curEntry.wait = .none → (s1.semWaiters i).length < s1.semCount s1.node i → exec (.semp a) s =
      .next (past 4 (((s1.setSem s1.node i (s1.semCount s1.node i - 1)).modEntry s1.curKey (fun e => { e with wait := .none })).newPhase
        s1.curKey))) ∧
    (s1.semCount s1.node i = 0 → exec (.semp a) s = .next (s.blockEntry s.curKey (.sem i))) ∧
    exec (.semv a) s = .next (past 4 (s1.setSem s1.node i (min (s1.semCount s1.node i + 1) 65535))) ∧
    (d < 16 → wFree s1 d = true → exec (.semr d a) s = .next (past 4 (setW s1 d (BitVec.ofNat 64 (s1.semCount s1.node i +
      ((s1.semWaiters i).filter (fun p => p.2.state == .blocked)).length * 2 ^ 16))))))

/-! ### Engines -/

/-- R254 to R256, R259, R261, R263, R265, R266, R268, R276, R277: a start that passes its checks captures its operands in the lowest free command slot, or in
its stream unit, and makes its first events due, ACQ's release step first; GLZ reads of its weight table what the rule says it reads; STRMOFF ends a stream
of any slot; ENGQ reports a command that waits on a translation entry being drained as STATE 1, one that waits on a line, entry or receiver as 2; GEND
releases the oldest stage line with its words as they stand.
The model's own choices and readings in it: log 24, 25, 97. -/
def Obligations.EngineStarts : Prop :=
  ∀ (s s1 s2 s3 : State) (d a b i : Nat) (x c y : Word), wSource s a = true → source s a = some (x, s1) →
    (running s 6 = true → wSource s b = true → source s1 b = some (c, s2) → wSource s d = true → source s2 d = some (y, s3) →
      freeSlotOf s3 i → acquires s3 c → let n := c.toNat / 2 ^ 40
      (goodControl s3 c 16 0xFFFFF0 true → n % 16 = 0 → engineRange x 16 n → engineRange y 16 n → exec (.xfer d a b) s =
        .next (past 4 (started (acquired s3 c) i { kind := .xfer, lid := 0, ent := 0, ctl := c, src := x, dst := y, limit := n }
          [.xferUnit s3.node i]))) ∧
      (let w0 := s3.peek (0x200000 * s3.node + y.toNat) 8
       let w1 := s3.peek (0x200000 * s3.node + y.toNat + 8) 8
       let q : Cmd := { kind := .gath, lid := 0, ent := 0, ctl := c, src := x, dst := 0, args := [w0, w1], limit := n }
       goodControl s3 c 1 0xFFFFFF true → engineRange x 8 (8 * n) → 0x2000 ≤ y.toNat → y.toNat < 0x200000 → y.toNat % 16 = 0 →
        readable s3 (0x200000 * s3.node + y.toNat) 16 = true → gathDescOk w0 w1 n = true → addrOk w0 = true →
        (gathKch w1 = 0 ∨ (s3.ownsChan (gathKch w1) = true ∧ (s3.boundEntry s3.cur.ck (gathKch w1)).isSome = true)) →
        exec (.gath d a b) s = .next (past 4 ((started (acquired s3 c) i q [.gatherStage s3.node i, .gatherElementIssue s3.node i]).emptyFree
          (0x200000 * s3.node + gathDest w1) (n * gathSize w1)))) ∧
      (∀ r, s3.curSlot? = some r → goodControl s3 c 64 0xFFFFC0 true → n % 64 = 0 → mcastOk x.toNat n r = true → engineRange y 16 n →
        let ns := mcastNodes x.toNat
        let q : Cmd := { kind := .mcast, lid := 0, ent := 0, ctl := c, src := y, dst := x, limit := n / 64, recv := ns.map (fun v => (v, 0)) }
        exec (.mcast d a b) s = .next (past 4 (started (acquired s3 c) i q (ns.map (fun v => .mcastUnit s3.node i v)))))) ∧
    (running s 6 = true → 28 ≤ d → d < 32 →
      (let off := 0x200000 * s1.node + x.toNat
       let desc := (List.range 4).map (fun j => s1.peek (off + 8 * j) 8)
       let hnd := fun (h : Nat) => (s1.entriesOf (4 * s1.node + 2)).any (fun p => p.2.v && p.2.slot == s1.curEntry.slot && p.2.lhn == h)
       let unit := fun (t : State) (ctl : Option Word) => Host.Outcome.next (φ := Fault) (ρ := Refusal) (past 4 ((t.setStrm t.node (d - 28)
        { lid := t.curLid, slot := t.curEntry.slot, desc := desc, ctl := ctl, relAt := relCount t (ctl.getD 0) }).later (.streamFetch t.node (d - 28))))
       s1.strm? s1.node (d - 28) = none → 0x2000 ≤ x.toNat → x.toNat < 0x200000 → x.toNat % 32 = 0 → readable s1 off 32 = true →
       strmDescOk desc hnd = true → addrOk (desc.getD 0 0) = true → desc.getD 0 0 % 64 = 0 →
       exec (.strm d a) s = unit s1 none ∧
       (b < 16 → source s1 b = some (c, s2) → goodControl s1 c 0 0 false → acquires s1 c → exec (.strmx d a b) s = unit (acquired s1 c) (some c))) ∧
      (s.strm? s.node (d - 28) = none → exec (.strmoff d) s = .next (past 4 s)) ∧
      ∀ u, s.strm? s.node (d - 28) = some u → ∃ t, exec (.strmoff d) s = .next t ∧ t.strm? s.node (d - 28) = none ∧
        t = past 4 ((s.releaseAll u.tiles).streamOff s.node (d - 28) { u with tiles := [] }) ∧
        (u.ctl ≠ none → t.agenda.getLast? = some (.engineCompletion s.node (d - 20)))) ∧
    (running s 6 = true → d < 16 → wFree s1 d = true →
      (let mine := s1.cmds.filter (fun p => p.1 / 8 == s1.node && p.2.lid == s1.curLid && ctlTag p.2.ctl.toNat == x.toNat % 2 ^ 16)
       (mine = [] → exec (.engq d a) s = .next (past 4 (setW s1 d 0))) ∧
       (∀ k q, mine = [(k, q)] → q.wait = .none → exec (.engq d a) s = .next (past 4 (setW s1 d (BitVec.ofNat 64 (2 ^ 63 + kindCode q.kind * 2 ^ 60 +
         s1.cmdState s1.node (k % 8) q * 2 ^ 58 + k % 8 * 2 ^ 55 + q.status * 2 ^ 48 + q.done % 2 ^ 48)))) ∧
        (s1.pauses = [] → s1.cmdState s1.node (k % 8) q =
          if s1.cmdStuck s1.node (k % 8) q = false then 0 else if s1.undrained.cmdStuck s1.node (k % 8) q = false then 1 else 2))) ∧
      (∀ l, s.heldStages = [l] → ∀ q, s.cmd? s.node l.2.1 = some q → exec .gend s = .next (past 4 (s.setCmd s.node l.2.1
        { q with stage := q.stage.map (fun m => if m.first == l.2.2 then { m with
          free := true
          words := let at' := stageAddr s.node q (m.first / 16)
            if s.hasEmpty at' (8 * m.count) then [] else (List.range m.count).map (fun j => s.peek (at' + 8 * j) 8) } else m) })))) ∧
    (running s 7 = true → wSource s d = true → source s1 d = some (y, s2) → goodControl s2 x 0 0 false → acquires s2 x → freeSlotOf s2 i →
      let at' := 0x200000 * s2.node + y.toNat
      0x2000 ≤ y.toNat → y.toNat + 80 ≤ 0x200000 → y.toNat % 16 = 0 → readable s2 at' 72 = true →
      let ws := (List.range 9).map (fun j => s2.peek (at' + 8 * j) 8)
      let g := ws.getD 8 0
      let n := tableCount (glzDir g) (glzDim g)
      let tabAt := 0x200000 * s2.node + glzWoff g
      -- the words of a table that hold its 3^(DIM+1) weights
      let m := (2 * 3 ^ (glzDim g + 1) + 7) / 8
      let tab := s2.peek tabAt 8 :: (List.replicate 7 0 ++ (List.range n).flatMap (fun p => (List.range 8).map (fun j =>
        if j < m then s2.peek (tabAt + 64 + 64 * p + 8 * j) 8 else 0)))
      blockOk ws = true → woffOk g = true → readable s2 tabAt 8 = true → (∀ p < n, readable s2 (tabAt + 64 + 64 * p) (8 * m) = true) →
      weightsOk tab n (glzDim g) = true → gridsMeet (gridAt ws 0) (gridAt ws 4) (glzDim g) = false →
      (∀ q ∈ [gridAt ws 0, gridAt ws 4], gridNearOk q (glzDim g) = true ∧ addrOk q.w0 = true ∧ gridAligned q (glzDim g) = true) →
      s2.tileHeld s2.node (y.toNat + 72) 8 = false →
      let q : Cmd :=
        { kind := .glz, lid := 0, ent := 0, ctl := x, src := BitVec.ofNat 64 (gridAt ws 0).w0, dst := BitVec.ofNat 64 (gridAt ws 4).w0,
          args := ws ++ [y.toNat] ++ tab, limit := gridN (gridAt ws 4) 0 * gridN (gridAt ws 4) 1 * gridN (gridAt ws 4) 2 }
      exec (.glz d a) s = .next (past 4 (started ((acquired s2 x).poke (at' + 72) 8 0) i q [.glzPoint s2.node i])))

/-- R257, R259, R261 to R264, R267: the units of a copy, near and far, tracked and not, of a multicast, a gather and a stream: what they write is what they
read, but for RES bits of registers, every other byte stays, F is set where the last byte of a line is written, and the next event is due; a copy reads its
source and writes a unit in steps of their own (log 25); a destination that a READY or DRAINING entry covers is waited for, one that a FILLING entry
covers is credited, a READY source is consumed. What a command and a stream
note of the turn of their step is the model's own structure, and so is the bound on the elements of a gather in flight (log 65, 97).
The model's own choices and readings in it: log 25, 26, 27, 65, 86, 97, 112. -/
def Obligations.EngineUnits : Prop :=
  ∀ (s : State) (node i src dst : Nat) (c : Cmd), works s node i c →
    (c.kind = .xfer → c.closing = false → c.tiles = [] → c.pos < c.limit → c.pos % 16 = 0 → c.limit % 16 = 0 →
      c.src.toNat < 2 ^ 32 ∨ c.src.getLsbD 63 = true → c.dst.toNat < 2 ^ 32 ∨ c.dst.getLsbD 63 = true →
      let n := copyUnit c
      -- the source is read as far as the next unit reaches, in units of 16 bytes
      (c.flight = [] →
        (nearAt c.src src c.limit → src % 16 = 0 → readable s (src + c.pos) (min 128 (c.limit - c.pos)) = true →
          (untracked s (src + c.pos) (min 128 (c.limit - c.pos)) → ∃ fl : List (Nat × Nat), n ≤ 16 * fl.length ∧
            (∀ j < fl.length, fl[j]? = some (c.pos + 16 * j, s.peek (src + (c.pos + 16 * j)) 16)) ∧
            exec (.xferUnit node i) s = .next ((s.setCmd node i { c with flight := fl, readAt := s.turn + 1 }).later (.xferUnit node i))) ∧
          (∀ e r, s.tilesMeeting ((src + c.pos) / 0x200000) ((src + c.pos) % 0x200000) 16 = [(e, r)] → s.tile ((src + c.pos) / 0x200000) e = r →
            r.state ≠ .ready → exec (.xferUnit node i) s = .next (s.later (.xferUnit node i))) ∧
          (∀ e r, let v := (src + c.pos) / 0x200000
            (∀ j < c.limit - c.pos, s.tilesMeeting v ((src + c.pos) % 0x200000 + j) 1 = [(e, r)]) → e < 64 → s.tile v e = r → r.state = .ready →
            r.cons < 63 → ∃ t, exec (.xferUnit node i) s = .next t ∧ t.mem = s.mem ∧
            t.tile v e = (s.consumeTile v e).tile v e ∧ (t.cmd? node i).map (fun c => (c.pos, c.tiles)) = some (c.pos, [64 * v + e]))) ∧
        (∀ va pa k, n = 16 → c.src.getLsbD 63 = true → engAt c.src.toNat c.pos = some (true, va) → va % 16 = 0 → s.lookup node va accRead = .physical pa k →
          s.noMem pa = false → s.farBad pa 16 = false → (∀ g ∈ c.found, g.num ≠ pa / 16) → ∃ t, exec (.xferUnit node i) s = .next t ∧
          t.mem = s.mem ∧ t.far = s.far ∧ t.agenda = s.agenda ++ [.xferUnit node i] ∧
          (t.cmd? node i).map (fun c => (c.pos, c.done, c.status, c.flight)) = some (c.pos, c.done, c.status, [(c.pos, s.farPeek pa 16)]))) ∧
      -- a unit that is read whole is written
      (∀ us more, c.flight = us ++ more → 16 * us.length = n → (∀ p ∈ us, p.2 < 2 ^ 128) →
        let v := packFields 128 (us.map (·.2))
        let next : Event := if c.pos + n < c.limit then .xferUnit node i else .engineCompletion node i
        (nearAt c.dst dst c.limit → dst % 16 = 0 →
          (untracked s (dst + c.pos) n → ∃ t, exec (.xferUnit node i) s = .next t ∧
            t.peek (dst + c.pos) n = s.unreserved (dst + c.pos) n v ∧
            (∀ b, outside b (dst + c.pos) n → spByte t b = spByte s b) ∧ t.poisoned (dst + c.pos) n = none ∧
            ((dst + c.pos + n) % 128 = 0 ∨ c.pos + n = c.limit → t.hasEmpty (dst + c.pos) n = false) ∧
            (t.cmd? node i).map (fun c => (c.pos, c.done, c.status, c.flight)) = some (c.pos + n, c.pos + n, c.status, more) ∧
            t.agenda = s.agenda ++ [next]) ∧
          (s.tileHeld ((dst + c.pos) / 0x200000) ((dst + c.pos) % 0x200000) n = true →
            exec (.xferUnit node i) s = .next (s.later (.xferUnit node i))) ∧
          ∀ e r, s.tilesMeeting ((dst + c.pos) / 0x200000) ((dst + c.pos) % 0x200000) n = [(e, r)] → r.state = .filling → n < r.pend → e < 64 →
            s.tile ((dst + c.pos) / 0x200000) e = r → c.ctl.getLsbD 39 = false → ∃ t, exec (.xferUnit node i) s = .next t ∧
            t.tile ((dst + c.pos) / 0x200000) e = { r with pend := r.pend - n } ∧ t.agenda = s.agenda ++ [next] ∧
            t.peek (dst + c.pos) n = s.unreserved (dst + c.pos) n v) ∧
        (∀ va pa k, c.dst.getLsbD 63 = true → engAt c.dst.toNat c.pos = some (true, va) → s.lookup node va accWrite = .physical pa k →
          s.noMem pa = false → s.readPending pa 16 s.oids = false → ∃ t, exec (.xferUnit node i) s = .next t ∧ t.farPeek pa 16 = v ∧ t.mem = s.mem ∧
          (∀ b, outside b pa 16 → farByte t b = farByte s b) ∧
          (t.cmd? node i).map (fun c => (c.pos, c.done, c.status, c.flight)) = some (c.pos + 16, c.pos + 16, c.status, more) ∧
          t.agenda = s.agenda ++ [next]))) ∧
    (∀ u x r, c.recv.find? (fun p => p.1 == x) = some (x, u) → u = c.pos → u < c.limit → u < leastUnits c.recv + 4 → c.flight = [] →
      c.tiles = [] → nearAt c.src src (64 * c.limit) → ready s (src + 64 * u) 64 → s.slotOfLid x c.lid = some r →
      dst = 0x200000 * x + c.dst.toNat % 0x200000 + 64 * u → untracked s dst 64 → ∃ t, exec (.mcastUnit node i x) s = .next t ∧
      t.peek dst 64 = s.unreserved dst 64 (s.peek (src + 64 * u) 64) ∧ (∀ b, outside b dst 64 → spByte t b = spByte s b) ∧
      (t.agenda = s.agenda ++ [.mcastUnit node i x] ∨ t.agenda = s.agenda ++ [.bufferFreeAcknowledgement node i])) ∧
    (let n := min 16 (c.limit - 16 * c.pos)
     let kch := gathKch (c.args.getD 1 0)
     0 < n → c.stage.length < 4 → (∀ f ∈ c.flight, f.2.testBit 60 = false) → c.tiles = [] → nearAt c.src src (8 * c.limit) →
      ready s (src + 128 * c.pos) (8 * n) → dst = stageAddr node c c.pos → untracked s dst (8 * n) →
      ∃ t, exec (.gatherStage node i) s = .next t ∧ t.peek dst (8 * n) = s.unreserved dst (8 * n) (s.peek (src + 128 * c.pos) (8 * n)) ∧
      (∀ b, outside b dst (8 * n) → spByte t b = spByte s b) ∧
      t.cmd? node i = some { c with pos := c.pos + 1, stage := c.stage ++ [⟨s.turn, 16 * c.pos, n, kch == 0, []⟩], readAt := s.turn + 1 } ∧
      (kch = 0 → t.agenda = s.agenda ++ [.gatherStage node i]) ∧
      (kch ≠ 0 → t.agenda = s.agenda ++ [.neverRefusedEntry (4 * node) kch, .gatherStage node i] ∧ t.waiting (4 * node) kch =
        s.waiting (4 * node) kch ++ [{ words := [BitVec.ofNat 64 (dst % 0x200000), BitVec.ofNat 64 (16 * c.pos + n * 2 ^ 32)] }])) ∧
    (let e := c.issued
     let a := stageAddr node c (e / 16) + 8 * (e % 16)
     let n := gathSize (c.args.getD 1 0)
     ∀ l x, e < c.limit → c.flight.length < 256 → (∀ f ∈ c.flight, f.2.testBit 60 = false) → c.stage.find? (fun l => l.first ≤ e && e < l.first + l.count) = some l → l.free = true → c.tiles = [] →
      (l.words[e - l.first]? = some x ∨ (l.words[e - l.first]? = none ∧ ready s a 8 ∧ x = s.peek a 8)) →
      (x = 2 ^ 64 - 1 → dst = 0x200000 * node + gathDest (c.args.getD 1 0) + n * e → s.tileHeld (dst / 0x200000) (dst % 0x200000) n = false →
        ∃ t, exec (.gatherElementIssue node i) s = .next t ∧ t.mem = s.mem ∧
        (t.cmd? node i).map (fun c => (c.issued, c.done)) = some (e + 1, c.done + 1)) ∧
      (x ≠ 2 ^ 64 - 1 → nearAt (BitVec.ofNat 64 (gathBase c)) src (n * (x + 1)) → gathBase c < 2 ^ 64 → 0 < n →
        let q : Cmd := { c with issued := e + 1, flight := c.flight ++ [(e, 2 ^ 57 + (src + x * n))] }
        exec (.gatherElementIssue node i) s = .next (((s.setCmd node i { freeStages q with readAt := s.turn + 1 }).later (.gatherElementLand node i e)).later
          (.gatherElementIssue node i)))) ∧
    (∀ e, let n := gathSize (c.args.getD 1 0)
     dst = 0x200000 * node + gathDest (c.args.getD 1 0) + n * e → untracked s dst n → (∀ f ∈ c.flight, f.2.testBit 60 = true → e ≤ f.1) →
     (c.flight.find? (fun f => f.1 == e) = some (e, 2 ^ 57 + src) → c.tiles = [] → src < 2 ^ 32 → src % 0x200000 + n ≤ 0x200000 → ready s src n →
      ∃ t, exec (.gatherElementLand node i e) s = .next t ∧ t.peek dst n = s.unreserved dst n (s.peek src n) ∧
      (∀ b, outside b dst n → spByte t b = spByte s b) ∧ (t.cmd? node i).map (·.done) = some (c.done + 1)) ∧
     (∀ last, c.flight.find? (fun f => f.1 == e) = some (e, 2 ^ 59 + last) → last < 2 ^ 32 →
      ∃ t, exec (.gatherElementLand node i e) s = .next t ∧ t.peek dst n = 0 ∧ (∀ b, outside b dst n → spByte t b = spByte s b) ∧
      (t.cmd? node i).map (·.done) = some c.done ∧ (e + 1 < last → t.agenda = s.agenda ++ [.gatherElementLand node i (e + 1)]))) ∧
    (∀ u (x : Strm), s.strm? node u = some x → x.ended = false → x.pos < stripCount x → x.fetched.length < 4 → x.wait = .none → x.tiles = [] →
      (∀ p, s.slotOfLid node x.lid = some p → p.2.stopped = false) → engAt (x.desc.getD 0 0) (stripOffset x.desc x.pos) = some (false, src) →
      src % 0x200000 + 64 ≤ 0x200000 → ready s src 64 → let y : Strm := { x with pos := x.pos + 1, fetched := x.fetched ++ [s.peek src 64], readAt := s.turn + 1 }
      exec (.streamFetch node u) s = .next ((s.setStrm node u y).later (.streamFetch node u)))

/-- R255, R256, R259, R278 to R282: a completion, after REL's release step, frees the command's slot and posts its record where CK says, to a channel, as a
semaphore count, and with a fault to RFT; a multicast's acknowledgement and a Glaze command's result word make the completion due. A Glaze command adds to
the sum of the first point of its unit that is not whole the terms of its next source unit, exactly; the source units of a point hold each term of its
stencil once; when all points are summed it writes the unit: each point's sum, with its old value under PROLONG.ADD, rounded once, and no other byte.
The model's own choices and readings in it: log 25, 31, 75, 85, 86, 97. -/
def Obligations.EngineEnds : Prop :=
  ∀ (s : State) (node i : Nat) (c : Cmd), s.cmd? node i = some c →
    (let record := BitVec.ofNat 64 (c.done * 2 ^ 32 + ctlTag c.ctl.toNat * 2 ^ 16 + kindCode c.kind * 2 ^ 8 + c.status)
     let item : WaitItem := { words := [record], acq := true }
     let freed : State := { s with cmds := mdel s.cmds (8 * node + i), agenda := s.agenda.filter (fun ev => !ofCmd node i ev) }
     let scope := c.ctl.toNat / 2 ^ 7 % 8
     let gone : State := if c.ctl.getLsbD 6 then
       freed.release (scopeReach scope node (scopeGroup node ((s.slotOfLid node c.lid).map Prod.snd) scope 0)) (· == c.writer node i) else freed
     let ct := c.ctl.toNat % 16
     i < 8 → c.tiles = [] →
      (c.ctl.toNat / 2 ^ 4 % 4 = 2 → exec (.engineCompletion node i) s = .next (gone.post (4 * node) ct item)) ∧
      (c.ctl.toNat / 2 ^ 4 % 4 = 1 → c.status = 0 → exec (.engineCompletion node i) s = .next (gone.semUp node ct)) ∧
      (c.ctl.toNat / 2 ^ 4 % 4 = 0 → c.status = 0 → exec (.engineCompletion node i) s = .next gone) ∧
      (c.ctl.toNat / 2 ^ 4 % 4 = 0 → c.status ≠ 0 → ∀ k r, s.slotOfLid node c.lid = some (k, r) → fld r.rfcs 0 4 ≠ 0 →
        exec (.engineCompletion node i) s = .next (gone.post (4 * node) (fld r.rfcs 0 4) item))) ∧
    exec (.bufferFreeAcknowledgement node i) s = .next (s.later (.engineCompletion node i)) ∧
    (works s node i c → c.closing = false → c.tiles = [] →
      let g := glzWord c
      let src := glzSrc c
      let dst := glzDst c
      let dim := glzDim g
      let es := gridEs dst
      let q := nextUnit dst dim c.limit c.limit c.pos
      let pts := unitPoints dst dim q
      (c.limit ≤ q → let a := 0x200000 * node + (glzOff c + 72)
        untracked s a 8 → ∃ t, exec (.glzPoint node i) s = .next t ∧ t.peek a 8 = s.unreserved a 8 ((c.done * 2 ^ 32 + c.flags) % 2 ^ 64) ∧
          (∀ b, outside b a 8 → spByte t b = spByte s b) ∧ t.agenda = s.agenda ++ [.engineCompletion node i]) ∧
      (∀ p, (glzUnits c p).flatten.Perm (pointTerms src dst g (glzTab c) p)) ∧
      (∀ p (at' : Nat × Nat × Nat → Nat), q < c.limit → pts.find? (fun p => !glzSummed c p) = some p →
        let n := (c.work.part p).1
        let terms := (glzUnits c p).getD n []
        (∀ m ∈ terms, engAt src.w0 (pointOffset src dim m.1) = some (false, at' m.1) ∧ ready s (at' m.1 / 8 * 8) 8) →
        let value := fun (m : (Nat × Nat × Nat) × Int) => glzTerm
          (elemVal (gridFmt src) (fld (s.peek (at' m.1 / 8 * 8) 8) (8 * (at' m.1 % 8)) (8 * gridEs src))) m.2 (fld ((glzTab c).getD 0 0) 0 5)
        exec (.glzPoint node i) s = .next ((s.setCmd node i { c with
          pos := q
          work := { c.work with parts := mset c.work.parts p (n + 1, terms.foldl (fun a m => glzAdd a (value m)) (c.work.part p).2) }
          readAt := s.turn + 1 }).later (.glzPoint node i))) ∧
      (∀ a outs f st, q < c.limit → (∀ p ∈ pts, glzSummed c p = true) → c.work.old = none → gridAligned dst dim = true →
        engAt dst.w0 (unitStart dst dim q - gridBase dst) = some (false, a) → a % 64 = 0 → untracked s a 64 → s.resBits a 64 = 0 →
        (glzDir g = 2 → readable s a 64 = true) →
        glzOuts dst g (unitStart dst dim q) (if glzDir g = 2 then s.peek a 64 else 0, []) (pts.map (fun p => (p, (c.work.part p).2))) = (outs, f, st) →
        (outs.map (·.1)).Nodup → ∃ t, exec (.glzPoint node i) s = .next t ∧
          (∀ o ∈ outs, t.peek (a + o.1) es = o.2.1 % 256 ^ es ∧ (o.2.2 = true → (t.poisoned (a + o.1) es).isSome = true)) ∧
          (∀ b, (∀ o ∈ outs, outside b (a + o.1) es) → spByte t b = spByte s b) ∧
          (t.cmd? node i).map (fun c => (c.pos, c.done, c.flags, c.status, c.work)) =
            some (q + 1, c.done + pts.length, Nat.lor c.flags (flagBits f).toNat, max c.status st, { parts := c.work.parts.filter (fun x => !pts.contains x.1) }) ∧
          t.agenda = s.agenda ++ [.glzPoint node i])) ∧
    (∀ (dst : Grid) (g q : Nat) (start : Int) (old : Nat) (a : GlzSum),
      let b := (pointByte dst (glzDim g) q - start).toNat
      let x := if glzDir g = 2 then glzAdd a (xsOfVal (elemVal (gridFmt dst) (fld old (8 * b) (8 * gridEs dst)))) else a
      let r := encodeVal (glzRm g) (floatFormat (gridFmt dst)) (valOfXs x.acc)
      glzOuts dst g start (old, []) [(q, a)] = ([(b, r.1, x.bad)], (r.2.or { nv := x.nv }).or {}, x.st)) ∧
    (∀ (a : GlzSum) (x : Int), (glzAdd a x).acc = (xsAdd a.acc x).1 ∧ (glzAdd a x).nv = (a.nv || (xsAdd a.acc x).2.nv))

/-! ### Shaping -/

/-- R269 to R271: PLANE writes bit j of the code of element (k, c) at bit c of plane word (j, k), zero beyond the rows it reads, and the block
headers of a lake format; UNPLANE is its inverse; LKENC and LKDEC code blocks of sixteen elements.
The model's own choices and readings in it: log 30. -/
def Obligations.ShapingResults : Prop :=
  ∀ (s s1 s2 s3 : State) (d a b : Nat) (x w y : Word), running s 8 = true → wSource s a = true → source s a = some (x, s1) →
    wSource s b = true → source s1 b = some (w, s2) → wSource s d = true → source s2 d = some (y, s3) →
    let ta := w.toNat % 32
    let tb := w.toNat / 2 ^ 8 % 32
    let n := w.toNat / 2 ^ 16
    let src := 0x200000 * s3.node + x.toNat
    let dst := 0x200000 * s3.node + y.toNat
    -- the ranges of `sn` and `dn` bytes, aligned to `sa` and `da`
    let ranges := fun (sn sa dn da : Nat) => w.toNat < 2 ^ 32 ∧ w.toNat / 2 ^ 5 % 8 = 0 ∧ w.toNat / 2 ^ 13 % 8 = 0 ∧ 1 ≤ n ∧
      0x2000 ≤ x.toNat ∧ x.toNat + sn ≤ 0x200000 ∧ 0x2000 ≤ y.toNat ∧ y.toNat + dn ≤ 0x200000 ∧
      (y.toNat + dn ≤ x.toNat ∨ x.toNat + sn ≤ y.toNat) ∧ x.toNat % sa = 0 ∧ y.toNat % da = 0 ∧ readable s3 src sn = true ∧
      s3.tileHeld s3.node y.toNat dn = false
    let row := packedRow ta
    (isMatTag ta = true → tb = 0 → n ≤ 64 →
      (ranges (n * row) 64 (planeSize ta) 128 → ∃ v, exec (.plane d a b) s = .next (past 4 (s3.poke dst (planeSize ta) v)) ∧
        ∀ k < 64, (∀ j < planeBits ta, ∀ c < 64, fld v (64 * (64 * j + k) + c) 1 =
            if k < n then fld (rowCode ta (s3.peek (src + row * k) row) c) j 1 else 0) ∧
          (isLakeTag ta = true → fld v (64 * (64 * planeBits ta + k)) 64 =
            if k < n then rowHeaders ta (s3.peek (src + row * k) row) else 0)) ∧
      (ranges (planeSize ta) 128 (n * row) 64 → ∃ v, exec (.unplane d a b) s = .next (past 4 (s3.poke dst (n * row) v)) ∧
        ∀ k < n, (∀ j < planeBits ta, ∀ c < 64, fld (rowCode ta (fld v (8 * row * k) (8 * row)) c) j 1 =
            fld (s3.peek src (planeSize ta)) (64 * (64 * j + k) + c) 1) ∧
          (isLakeTag ta = true → rowHeaders ta (fld v (8 * row * k) (8 * row)) =
            fld (s3.peek src (planeSize ta)) (64 * (64 * planeBits ta + k)) 64))) ∧
    (isLakeTag ta = true → isLaneFloat tb = true → let es := elemBits tb / 8
      let rm := stRM s3.curEntry.st
      (ranges (n * (16 * es)) 64 (n * lakeBytes ta) 2 →
        let blk := fun i => lakeEncode rm (lakeN ta) ((List.range 16).map (fun j => elemVal tb (s3.peek (src + es * (16 * i + j)) es)))
        ∃ v, exec (.lkenc d a b) s = .next (past 4 (flagged (allFlags ((List.range n).map (fun i => (blk i).2)))
          (s3.poke dst (n * lakeBytes ta) v))) ∧ ∀ i < n, fld v (8 * lakeBytes ta * i) (8 * lakeBytes ta) = (blk i).1) ∧
      (ranges (n * lakeBytes ta) 2 (n * (16 * es)) 64 →
        let el := fun i => (lakeDecode (lakeN ta) (s3.peek (src + lakeBytes ta * i) (lakeBytes ta))).map (valToElem rm tb)
        ∃ v, exec (.lkdec d a b) s = .next (past 4 (flagged (allFlags (((List.range n).flatMap el).map Prod.snd))
          (s3.poke dst (n * (16 * es)) v))) ∧ ∀ i < n, ∀ j < 16, fld v (8 * es * (16 * i + j)) (8 * es) = ((el i).getD j (0, {})).1))

/-! ### System registers -/

/-- R44, R305, R250: SRR reads a register into W[r], the saved, status and feature registers, the handler table and DBG among them; reading the
fault-address queue pops it. SRW writes ST and EH but for their reserved and read-only fields, and leaves read-only registers.
The model's own choices and readings in it: log 51. -/
def Obligations.SystemRegisters : Prop :=
  ∀ (s : State) (r : Nat), running s 0 = true → r < 16 →
    (wFree s r = true → ∀ p ∈ [(0x000, s.curEntry.wp), (0x001, s.curEntry.ip), (0x002, s.curEntry.st.toNat), (0x003, (eh s).toNat), (0x010, (feat0 s.cur.ck).toNat),
        (0x400, (s.core s.cur.ck).hob.toNat * 2 ^ 17 + ((s.core s.cur.ck).hlt && !s.finishing s.cur.ck).toNat * 2 ^ 16 + (s.core s.cur.ck).ent * 2 ^ 8)],
      exec (.srr r p.1) s = .next (past 4 (setW s r (BitVec.ofNat 64 p.2)))) ∧
    (wFree s r = true → ∀ h < 32, let e := s.entry (32 * s.cur.ck + h)
      exec (.srr r (0x101 + 2 * h)) s = .next (past 4 (setW s r (BitVec.ofNat 64
        (if e.v = true ∧ e.slot = s.curEntry.slot then e.chans else 0))))) ∧
    (s.node = 2048 + 2 * clusterOf s.node + 1 → let q := mget s.faqs (clusterOf s.node) {}
      let put : Faq → State := fun q => { s with faqs := mset s.faqs (clusterOf s.node) q }
      (wFree s r = true → ∀ i ∈ [Instr.faultQueuePop r, Instr.srr r 0x300],
        exec i s = .next (past 4 (setW (put { q with items := q.items.tail }) r (BitVec.ofNat 64 (q.items.headD 0))))) ∧
      (wFree s r = true → exec (.srr r 0x301) s = .next (past 4 (setW s r (BitVec.ofNat 64 (q.ovf.toNat * 2 ^ 63 + q.items.length))))) ∧
      (wOk s r = true → ∀ i ∈ [Instr.faultQueueClearOvf r, Instr.srw r 0x301],
        exec i s = .next (past 4 (put { q with ovf := q.ovf && !(wVal s r).getLsbD 63 })))) ∧
    (wOk s r = true → let v := wVal s r
      exec (.srw r 2) s = .next (past 4 (s.modEntry s.curKey (fun e => { e with st := v &&& 0xFFFFFFFFFF00BF03#64 }))) ∧
      ((v &&& 0xFFC00001001FFFFE#64).getLsbD 32 = false ∨ 4 ≤ v.toNat / 2 ^ 54 → exec (.srw r 3) s = .next (past 4 (s.modCore s.cur.ck (fun c =>
        { c with eh := mset c.eh s.curEntry.slot (v &&& 0xFFC00001001FFFFE#64) })))) ∧
      (∀ n, 0x10 ≤ n ∧ n ≤ 0x13 ∨ 0x100 ≤ n ∧ n < 0x140 ∨ n = 0x400 ∨ n = 0x500 → exec (.srw r n) s = .next (past 4 s)))

/-- R220, R221, R327, R330, R358: writes that control a unit: a tile-table entry written, in use or not, and armed, a fabric send started, a matching entry armed and
disarmed, a lane retrained and repaired; each event of the table acts as the SRW that it is a form of.
The model's own choices and readings in it: log 6, 24, 34, 47. -/
def Obligations.UnitControls : Prop :=
  ∀ (s : State) (r e : Nat), running s 0 = true → r < 16 → wOk s r = true → let v := (wVal s r).toNat
    (e < 64 → s.node < 2048 → let t := s.tile s.node e
      (t.v = false ∨ (t.slot = s.curEntry.slot ∧ t.state = .empty ∧ t.cons = 0) → v / 2 ^ 30 % 2 ^ 18 = 0 → v / 2 ^ 14 % 4 = 0 →
        (2 ^ 63 ≤ v → 64 ≤ v % 2 ^ 14 ∧ v % 2 ^ 14 + v / 2 ^ 16 % 2 ^ 14 + 1 ≤ 16384 ∧
          (v / 2 ^ 60 % 2 = 1 → v / 2 ^ 48 % 2 ^ 8 ≠ 0 ∧ s.ownsSem (v / 2 ^ 56 % 16) = true)) →
        let q : Tile :=
          { v := v / 2 ^ 63 == 1, slot := s.curEntry.slot, rcm := v / 2 ^ 60 % 2 == 1, sem := v / 2 ^ 56 % 16, uses := v / 2 ^ 48 % 2 ^ 8,
            nl := v / 2 ^ 16 % 2 ^ 14, first := v % 2 ^ 14, uleft := v / 2 ^ 48 % 2 ^ 8 }
        ∀ i ∈ [Instr.tileEntryWrite r e, Instr.srw r (0x200 + 2 * e)], exec i s = .next (past 4 (s.setTile s.node e q))) ∧
      ((t.v = true → t.slot = s.curEntry.slot) → t.state = .empty → v < 2 ^ 28 →
        ∀ i ∈ [Instr.tileEntryArm r e, Instr.srw r (0x201 + 2 * e)], exec i s =
          .next (past 4 (s.setTile s.node e { t with state := if v = 0 then .empty else .filling, pend := v })))) ∧
    (e < 128 → s.node < 2048 → s.coreNo = 0 → let m := s.matchOf e
      (s.matchMine m = true → m.state ≠ 2 →
        (v < 2 ^ 63 → ∀ i ∈ [Instr.matchDisarm r e, Instr.srw r (0x803 + 4 * e)], exec i s = .next (past 4 (s.setMatch e
          { m with state := 0, slot := 0, node := 0, lid := 0, tag := v % 2 ^ 16 }))) ∧
        (2 ^ 63 ≤ v → s.armOk m v = true → ∀ i ∈ [Instr.matchArm r e, Instr.srw r (0x803 + 4 * e)], exec i s = .next (past 4 (s.setMatch e
          { m with state := 1, slot := s.curEntry.slot, node := s.node, lid := s.curLid, tag := v % 2 ^ 16, status := 0, wait := .none })))) ∧
      (m.state = 0 → exec (.srw r (0x800 + 4 * e)) s = .next (past 4 (s.setMatch e { m with mtag := wVal s r })))) ∧
    (s.node < 2048 → s.coreNo = 0 → 0x2000 ≤ v → v < 0x200000 → v % 32 = 0 → readable s (0x200000 * s.node + v) 32 = true →
      let word := fun j => s.peek (0x200000 * s.node + v + 8 * j) 8
      let ctl := BitVec.ofNat 64 (word 0)
      let src := BitVec.ofNat 64 (word 1)
      goodControl s ctl 16 0xFFFFF0 false → word 0 / 2 ^ 40 % 16 = 0 → word 2 < 2 ^ 10 → word 2 < s.fabric.count →
      engineRange src 16 (word 0 / 2 ^ 40) → s.fabric.held = [] → acquires s ctl → ∀ k, freeSlotOf s k →
      let q : Cmd :=
        { kind := .fabric, lid := 0, ent := 0, ctl := ctl, src := src, dst := 0, args := [word 3, word 2], limit := word 0 / 2 ^ 40 }
      ∀ i ∈ [Instr.fabricSend r, Instr.srw r 0x700], exec i s = .next (past 4 (started (acquired s ctl) k q [.xferUnit s.node k]))) ∧
    (s.node = 2049 → let l := s.lane s.lsel
      let link := laneLink s.lsel
      laneOk s.lsel = true →
      let used := mget s.spares link 0
      (v = 1 → let t := s.setLane s.lsel { l with state := 1, pend := false }
        ∀ i ∈ [Instr.laneRetrain r, Instr.srw r 0x602], exec i s =
          .next (past 4 (({ t with pauses := setAdd s.pauses link } : State).later (.retrainDone link)))) ∧
      (v = 2 → let t := s.setLane s.lsel { l with spr := true, pend := false }
        ∀ i ∈ [Instr.laneRepair r, Instr.srw r 0x602], exec i s = .next (past 4 (if used < linkSpares link then
          { t with spares := mset s.spares link (used + 1) } else s.setLane s.lsel { l with state := 2, failed := true, pend := false }))))

/-! ### Traps -/

/-- R29, R30, R45 to R47, R303, R304, R306, R307: TRAP, BKPT and an encoding that is no instruction enter the handler of their slot; without a
handler, or in one, the activation ends with its runs freed and its entry masked, and the fault service core gets three words; ERET puts back WP, IP
and ST, once no READY or DRAINING tile holds RES bits of that workspace that must read as zero. That the double trap gives up the chain reservation and
the mirror slots is the model's choice (log 94).
The model's own choices and readings in it: log 9, 49, 86, 93, 94. -/
def Obligations.TrapResults : Prop :=
  ∀ (s : State) (n w nbits : Nat), s.curEntry.state = .active → n < 2 ^ 14 →
    (handled s → running s 0 = true →
      exec (.trap n) s = .next (entered s 0x08 n ((s.curEntry.ip + 4) % 0x200000)) ∧
      ((s.core s.cur.ck).hob = false → exec (.bkpt n) s = .next (entered s 0x07 n ((s.curEntry.ip + 4) % 0x200000))) ∧
      exec (.illegalEncoding nbits w) s = .next (if nbits = 32 ∧ 0x70 ≤ w / 2 % 128 ∧ w / 2 % 128 ≤ 0x7E then
        entered s 0x05 (w / 2 % 128) s.curEntry.ip else entered s 0x01 0 s.curEntry.ip)) ∧
    (handled s → running s 6 = false → exec (.gend) s = .next (entered s 0x05 0x5B s.curEntry.ip)) ∧
    (running s 0 = true → s.cur.ent < 32 → s.inArray s.curKey = false → s.curEntry.st.getLsbD 15 = true ∨ ((eh s).getLsbD 32 = false ∧ s.otherTrap s.curKey = false) →
      ∃ t, exec (.trap n) s = .next t ∧ (t.entry s.curKey).state = .idle ∧ (t.entry s.curKey).msk = true ∧ (t.entry s.curKey).st = 0 ∧
        t.runs = s.runs.filter (fun p => p.2.owner != s.curKey) ∧ t.mem = s.mem ∧ (t.core s.cur.ck).owner ≠ some s.cur.ent ∧
        (let svc := 4 * svcNode (clusterOf s.node) 1 + 3
         t.waiting svc 1 = s.waiting svc 1 ++ [{ words := [BitVec.ofNat 64 (n * 2 ^ 40 + 0x08 * 2 ^ 32 + (s.curEntry.ip + 4) % 0x200000),
           BitVec.ofNat 64 (s.requester s.curKey 0), if s.curEntry.st.getLsbD 15 then 0x10 else 0x11] }] ∧
         t.agenda = (s.dropChain s.curKey).agenda ++ [.neverRefusedEntry svc 1])) ∧
    (running s 0 = true → s.curEntry.st.getLsbD 15 = true → let ws := s.curEntry.st.toNat / 2 ^ 54 * 2048
      let at' := 0x200000 * s.node + ws
      readable s (at' + 0x570) 16 = true →
      (s.cleanWaits s.node ws = true → exec .eret s = .next (s.blockEntry s.curKey .retry)) ∧
      (s.cleanWaits s.node ws = false → exec .eret s = .next ((s.scrub s.node ws).modEntry s.curKey (fun e => { e with
        wp := ws, ip := s.peek (at' + 0x570) 8 / 2 % 2 ^ 20 * 2, st := BitVec.ofNat 64 (s.peek (at' + 0x578) 8) &&& 0xFFFFFFFFFF00BF03#64 }))) ∧
      (s.scrub s.node ws).unclean s.node ws = false ∧ (∀ b, outside b (at' + 0x540) 48 → spByte (s.scrub s.node ws) b = spByte s b) ∧
      (s.unclean s.node ws = false → s.scrub s.node ws = s))

/-- R94, R130, R246, R306, R314: MIRROR takes and releases the core's mirror slots for its entry, which owns them from then on, a release too (log 101,
DEDUCED); BKPT under HOB halts the core behind it; HALT commands a core of the rectangle, which halts, goes on, steps, or sets HOB; at a halt no handler
of the core waits for a fault reply any more, and a walk in the array stops at its step boundary with IP at it.
The model's own choices and readings in it: log 51, 52, 56, 101. -/
def Obligations.CoreControls : Prop :=
  ∀ (s : State) (n r i ck hob : Nat),
    (running s 0 = true → let c := s.core s.cur.ck
      let own : List (Nat × Nat) := if c.owner = some s.cur.ent then c.mir else []
      exec (.mirror n 0 1) s = .next (past 4 (s.modCore s.cur.ck (fun c => { c with owner := some s.cur.ent, mir := mdel own (n % 4) }))) ∧
      (¬ (172 ≤ i ∧ i ≤ 175) → (∀ p ∈ own, p.2 = i → p.1 = n % 4) → exec (.mirror n i 0) s = .next (past 4 (s.modCore s.cur.ck (fun c =>
        { c with owner := some s.cur.ent, mir := mset own (n % 4) i })))) ∧
      (c.hob = true → exec (.bkpt n) s = .next ((past 4 s).haltHandlers s.cur.ck |>.modCore s.cur.ck (fun c => { c with hlt := true }))) ∧
      (r < 16 → wOk s r = true → let w := (wVal s r).toNat
        w < 2 ^ 20 → w / 2 ^ 14 % 4 = 0 → w / 2 ^ 16 % 2 = 0 → w / 2 ^ 12 % 4 ≠ 3 → s.node < 2048 → ∀ q, s.curSlot? = some q →
        w % 2 ^ 11 ∈ rectNodes q.shape q.ox q.oy → let target := 4 * (w % 2 ^ 11) + w / 2 ^ 12 % 4
        ∀ p ∈ [(0, Event.debugHalt target), (1, .debugRelease target), (2, .debugStep target), (3, .debugSetHob target (w / 2 ^ 17 % 2))],
          w / 2 ^ 18 = p.1 → exec (.halt r) s = .next (past 4 (s.later p.2)))) ∧
    exec (.debugHalt ck) s = .next ((s.haltHandlers ck).modCore ck (fun c => { c with hlt := true, step := false })) ∧
    (∀ e < 32, let k := 32 * ck + e
      (∀ va kind, (s.entry k).wait = .fault va kind → (∀ j, mget? s.arrays (ck / 4) = some j → j.ent ≠ k ∨ j.walk = .none) →
        (s.haltHandlers ck).entry k = { s.entry k with seq := ((s.entry k).seq + 1) % 256, wait := .retry }) ∧
      (∀ j w, mget? s.arrays (ck / 4) = some j → j.ent = k → j.walk = some w → (s.entry k).wait = .walk → let t := s.haltHandlers ck
        mget? t.arrays (ck / 4) = .none ∧ (t.entry k).state = .active ∧ (t.entry k).ip = (s.entry k).ip ∧ Event.walkStepCommit (ck / 4) ∉ t.agenda)) ∧
    exec (.debugRelease ck) s = .next (s.modCore ck (fun c => { c with hlt := false, step := false })) ∧
    exec (.debugStep ck) s = .next (s.modCore ck (fun c => { c with step := c.hlt })) ∧
    exec (.debugSetHob ck hob) s = .next (s.modCore ck (fun c => { c with hob := hob == 1 }))

/-! ### Translation -/

/-- R242 to R249: TLBW gives a vat of its cluster a page, which its far accesses then go through; TLBI DRAIN marks the entries of a page or all,
CONFIRM removes them once no access through them, or through one that has been replaced since, is under way; FLTRPL sends a reply, which makes its requester translate again or take the far-access
trap, and which one that waits no more ignores.
The model's own choices and readings in it: log 66, 79. -/
def Obligations.TranslationResults : Prop :=
  ∀ (s : State) (r : Nat), running s 0 = true → r < 15 → wOk s r = true → let w := (wVal s r).toNat
    (s.node = 2048 + 2 * clusterOf s.node → wOk s (r + 1) = true → let f := (wVal s (r + 1)).toNat
      let vat := f / 2 ^ 53
      w / 2 ^ 57 = 0 → w / 2 ^ 5 % 2 ^ 9 = 0 → w % 4 ≠ 3 → f / 2 ^ 52 % 2 = 0 → f % 2 ^ 14 = 0 → pageLowOk w f = true →
      clusterOf vat = clusterOf s.node → (∀ p ∈ s.tlbOf vat, p.2.drain = true → pagesOverlap p.2.page w = false) →
      ∃ t, exec (.tlbw r) s = .next t ∧ (∀ va, va < 2 ^ 57 → va / 2 ^ pageBits (w % 4) = w / 2 ^ pageBits (w % 4) → w / 2 ^ 2 % 4 = 3 → ∃ k,
        t.lookup vat va accRead = .physical (f % 2 ^ 52 / 2 ^ pageBits (w % 4) * 2 ^ pageBits (w % 4) + va % 2 ^ pageBits (w % 4)) k) ∧
        t.mem = s.mem ∧ t.far = s.far ∧ t.curEntry.ip = (s.curEntry.ip + 4) % 0x200000) ∧
    (s.node = 2048 + 2 * clusterOf s.node → w / 2 ^ 57 = 0 → w / 2 ^ 6 % 2 ^ 8 = 0 → w % 4 ≠ 3 →
      exec (.tlbiDrain r) s = .next (past 4 { s with tlb := s.tlb.map (fun p => if clusterOf (p.1 / 64) = clusterOf s.node ∧
        (w / 2 ^ 5 % 2 = 1 ∨ pagesOverlap p.2.page w = true) then (p.1, { p.2 with drain := true }) else p) }) ∧
      (s.drainBusy (clusterOf s.node) = false → exec (.tlbiConfirm r) s = .next (past 4 { s with
        tlb := s.tlb.filter (fun p => !(clusterOf (p.1 / 64) == clusterOf s.node && p.2.drain))
        drained := s.drained.filter (fun p => clusterOf p.1 != clusterOf s.node) })) ∧
      (s.drainBusy (clusterOf s.node) = true → exec (.tlbiConfirm r) s = .next (s.blockEntry s.curKey .retry))) ∧
    (s.node = 2048 + 2 * clusterOf s.node + 1 → requesterOk (clusterOf s.node) w = true →
      exec (.fltrplRetry r) s = .next (past 4 (s.later (.faultReplyArrival w true))) ∧
      exec (.fltrplFail r) s = .next (past 4 (s.later (.faultReplyArrival w false)))) ∧
    (∀ vat core ent q va kind, vat < 2048 → core < 3 → ent < 32 → let k := 32 * (4 * vat + core) + ent
      q = (s.entry k).seq * 2 ^ 24 + kind * 2 ^ 21 + ent * 2 ^ 16 + core * 2 ^ 12 + vat → (s.entry k).seq < 256 → kind < 8 →
      (s.entry k).state = .blocked → (s.entry k).wait = .fault va kind →
      exec (.faultReplyArrival q true) s = .next (s.modEntry k (fun e => { e with seq := (e.seq + 1) % 256, wait := .retry })) ∧
      exec (.faultReplyArrival q false) s = .next ((s.modEntry k (fun e => { e with seq := (e.seq + 1) % 256 })).takeTrap k 0x0B 3 false)) ∧
    (∀ vat core ent q retry, vat < 2048 → core < 3 → ent < 32 → let k := 32 * (4 * vat + core) + ent
      q / 2 ^ 14 % 4 = 0 → q % 2 ^ 11 = vat → q / 2 ^ 12 % 4 = core → q / 2 ^ 16 % 32 = ent → (s.entry k).seq ≠ q / 2 ^ 24 % 256 →
      exec (.faultReplyArrival q retry) s = .next s)

/-! ### Images -/

/-- R308 to R313: IMAGE tells the vats of a rectangle under its issuer's authority to stop; a stop holds the slot, with a blocked instruction
abandoned at its IP. A vat then settles, chooses every unit, writes the header with COMPLETE 0 first, and last the header with COMPLETE 1; where it finds no
memory the image fails. The verdict, a release event, goes to the issuer, and the rectangle goes on or leaves. RESUME reads a header; each vat reads the
pages of its image and answers for it, and the rectangle is restored if none refuses, once no READY or DRAINING tile holds its scratchpad.
The model's own choices and readings in it: log 57, 58, 60, 62, 63, 64, 65. -/
def Obligations.ImageResults : Prop :=
  ∀ (s : State) (r node id : Nat),
    (running s 0 = true → r < 16 → wOk s r = true → let ea := (wVal s r).toNat
      0x2000 ≤ ea → ea + 16 ≤ 0x200000 → ea % 16 = 0 → readable s (0x200000 * s.node + ea) 16 = true →
      let w0 := s.peek (0x200000 * s.node + ea) 8
      let w1 := s.peek (0x200000 * s.node + ea + 8) 8
      let base := w1 / 16 * 16 % 2 ^ 57
      w1 / 2 ^ 4 % 2 ^ 10 = 0 → s.ownsChan (w1 % 16) = true → farForm (BitVec.ofNat 64 w1) →
      (let j : ImageJob :=
         { lid := w0 % 2 ^ 32, keep := w0 / 2 ^ 33 % 2 == 1, incr := w0 / 2 ^ 32 % 2 == 1, base := base, endto := s.myEndto (w1 % 16),
           auth := s.authority }
       w0 < 2 ^ 34 → 2048 ≤ s.node ∨ w0 % 2 ^ 32 ≠ s.curLid → s.activeImage (w0 % 2 ^ 32) = none →
        (∀ q, s.rects.find? (fun q => q.lid == w0 % 2 ^ 32) = some q → j.auth = none ∨ q.auth = j.auth → exec (.image r) s = .next (past 4
          { s with images := s.images ++ [{ j with active := true }]
                   agenda := s.agenda ++ (rectNodes q.shape q.ox q.oy).map (fun n => .imageStop n j.lid) ++
                     (rectNodes q.shape q.ox q.oy).map (fun n => .vatImage n j.lid) })) ∧
        ((s.rects.find? (fun q => q.lid == w0 % 2 ^ 32) = none ∨ ∃ q, s.rects.find? (fun q => q.lid == w0 % 2 ^ 32) = some q ∧ j.auth ≠ none ∧
          q.auth ≠ j.auth) → exec (.image r) s = .next (past 4 (s.deliver j.endto (verdictWord 0x23 0 0 j.lid))))) ∧
      (w0 < 2 ^ 45 → w0 % 2 ^ 34 = 0 → ∀ pa k, s.lookup (homeVat s.node) base accRead = .physical pa k →
        let h := if s.noMem pa || s.farBad pa 256 then 0 else s.farPeek pa 256
        exec (.resume r) s = .next (past 4 ((s.touchTlb k).startResume h (w0 / 2 ^ 34 % 64) (w0 / 2 ^ 40) base (w1 % 16))))) ∧
    (∀ lid sl q, s.slotOfLid node lid = some (sl, q) → ∃ t, exec (.imageStop node lid) s = .next t ∧
      (t.slot? node sl).map (·.stopped) = some true ∧ t.mem = s.mem ∧ t.far = s.far ∧
      ∀ p ∈ s.slotEntries node sl, (s.entry p.1).state = .blocked → (s.entry p.1).wait = .retry →
        (t.entry p.1).state = .active ∧ (t.entry p.1).ip = (s.entry p.1).ip) ∧
    (∀ (j : ImageJob) (q : Rect) (sl : Nat) (z : Slot), s.activeImage j.lid = some j → s.rects.find? (fun x => x.lid == j.lid) = some q →
      s.slotOfLid node j.lid = some (sl, z) → s.slot? node sl = some z → z.lid = j.lid →
      (s.imageReady node j.lid = false → exec (.vatImage node j.lid) s = .next (s.later (.vatImage node j.lid))) ∧
      (s.imageReady node j.lid = true → s.fabricHeld j.lid = true → exec (.vatImage node j.lid) s = .next ((s.liftStop j.lid).endImage j 0x24)) ∧
      (s.imageReady node j.lid = true → s.fabricHeld j.lid = false → j.failed = false →
        let va := (j.base + z.lvn * imageStride z.space) % 2 ^ 57
        let header := fun (complete : Nat) => packFields 64 [0x7D210820 + z.igen % 2 ^ 16 * 2 ^ 32, z.lid + z.lvn * 2 ^ 32, z.shape, z.space,
          z.chans, z.rfcs, q.endto, imageStride z.space, (if z.igen = 1 then 0 else 1) + 2 * complete]
        let left := fun (t : State) => (t.activeImage j.lid).bind (fun i => mget? i.todo node)
        (mget? j.todo node = none → exec (.vatImage node j.lid) s = .next (((s.settle node sl z).setImage
          { j with todo := mset j.todo node [2] }).later (.vatImage node j.lid))) ∧
        (mget? j.todo node = some [2] → j.incr = false → ∃ t os, exec (.vatImage node j.lid) s = .next t ∧ t.far = s.far ∧
          t.agenda = s.agenda ++ [.vatImage node j.lid] ∧ (t.slot? node sl).map (fun r => (r.imaged, r.igen)) = some (true, 1) ∧
          left t = some ([0] ++ os ++ [1]) ∧ (∀ u ∈ s.imageUnits node sl z, u.off ∈ os) ∧ ∀ i < 16 * spLen z.space, 0x20000 + 128 * i ∈ os) ∧
        (∀ pa, s.engFar node va 256 accWrite = .ok pa →
          (s.noMem pa = false → mget? j.todo node = some [1] → ∃ t, exec (.vatImage node j.lid) s = .next t ∧ t.mem = s.mem ∧
            t.farPeek pa 256 = header 1 ∧ (∀ b, outside b pa 256 → farByte t b = farByte s b) ∧ left t = none ∧ t.agenda = s.agenda ++
              (if (setAdd j.done node).length = shapeSize q.shape then [.imageVerdict j.lid] else [])) ∧
          (s.noMem pa = false → ∀ o rest, 2 ≤ o → o < 0x20000 → mget? j.todo node = some (0 :: o :: rest) →
            (∀ n, s.engFar node ((va + o) % 2 ^ 57) n accWrite = .error .wait) → ∃ t, exec (.vatImage node j.lid) s = .next t ∧
            t.farPeek pa 256 = header 0 ∧ (∀ b, outside b pa 256 → farByte t b = farByte s b) ∧ left t = some (o :: rest)) ∧
          (s.noMem pa = true → ∀ o rest, o < 2 → mget? j.todo node = some (o :: rest) → ∃ t, exec (.vatImage node j.lid) s = .next t ∧
            t.far = s.far ∧ (t.activeImage j.lid).map (·.failed) = some true ∧ (t.slot? node sl).map (·.imaged) = some false)))) ∧
    (∀ (j : ImageJob) (q : Rect), s.images = [j] → j.active = true → s.rects.find? (fun x => x.lid == j.lid) = some q →
      let stays : Event → Bool := fun ev => match ev with | .imageStop _ l => l != j.lid | .vatImage _ l => l != j.lid | _ => true
      let sent := fun (u : State) (code : Nat) => Host.Outcome.next (φ := Fault) (ρ := Refusal)
        ((({ u with images := [], agenda := u.agenda.filter stays } : State).deliverHeld j.lid).deliver j.endto (verdictWord code 0 0 j.lid))
      let lifted := fun (u : State) => ({ u with slots := u.slots.map (fun p =>
        if p.2.lid = j.lid then (p.1, { p.2 with stopped := false }) else p) } : State)
      let rel := s.release .package (fun w => w.lid == j.lid)
      (j.failed = true → exec (.imageVerdict j.lid) s = sent (lifted rel) 0x22) ∧
      (j.failed = false → j.keep = true → exec (.imageVerdict j.lid) s = sent (lifted (rel.setAside q true)) 0x20) ∧
      (j.failed = false → j.keep = false → exec (.imageVerdict j.lid) s = sent ((rel.setAside q false).evict q) 0x20 ∧
        ∀ x ∈ ((rel.setAside q false).evict q).rects, x.lid ≠ j.lid)) ∧
    (∀ j, s.resumeJob id = some j → mget j.waits node .none = .none →
      (j.fails.contains node = true → exec (.resumeReserve node id) s = .next (s.answerResume j node (7, 0))) ∧
      (j.fails.contains node = false → ∀ u got, let had := mget j.got node []
        let i : ResumeJob := { j with got := mset j.got node got }
        State.readPages node (j.vaOf node) (j.stride / 0x4000 - had.length) s had = (u, got, none) →
        (i.imageOf node = none → exec (.resumeReserve node id) s = .next (u.answerResume i node (7, 0))) ∧
        (∀ x code, i.imageOf node = some x → u.resumeCode node j.lid x j.shape = code → exec (.resumeReserve node id) s =
          .next ((if code.1 = 0 then u.modVat node (fun v => { v with resv := v.resv ++ [⟨j.lid, resumeReq j.shape x, x.bank0⟩] }) else u).answerResume
            i node code)))) ∧
    (∀ (va n pa : Nat) (got : List (Option (Nat × List Nat))), let a := (va + 0x4000 * got.length) % 2 ^ 57
      s.engFar node a 0x4000 accRead = .ok pa → State.readPages node va (n + 1) s got = State.readPages node va n (s.engTouch node a accRead)
        (got ++ [if s.noMem pa then none else some (s.farPeek pa 0x4000, marksIn s.farPoison (pa / 8) 0x800)])) ∧
    (∀ j, s.resumeJob id = some j →
      let nodes := rectNodes j.shape (shapeX j.shape) (shapeY j.shape)
      (j.answers.filter (fun a => a.2.1 != 0) ≠ [] → ∃ t, exec (.resumeRestore id) s = .next t ∧ t.mem = s.mem ∧ t.slots = s.slots ∧
        t.rects = s.rects ∧ ∀ n ∈ nodes, ∀ v ∈ (t.vat n).resv, v.lid ≠ j.lid) ∧
      (s.restoreWaits id = true → exec (.resumeRestore id) s = .next (s.later (.resumeRestore id))) ∧
      (j.answers.filter (fun a => a.2.1 != 0) = [] → s.restoreWaits id = false → s.lateRefusals j (nodes.map (fun n => (n, j.imageOf n))) = [] →
        ∃ t, exec (.resumeRestore id) s = .next t ∧ .rectangleEnd j.lid ∈ t.agenda ∧ (∃ seq, t.rects = s.rects ++
          [⟨j.lid, j.shape, shapeX j.shape, shapeY j.shape, j.endto, j.auth, seq⟩]) ∧
        ∀ n x, nodes = [n] → j.imageOf n = some x → ∃ sl d g, t.slot? n sl = some { resumedSlot j n x with udirty := d, tags := g }))

/-! ### Fabric, device, host -/

/-- R325, R327, R330, R331: the acknowledgement or failed delivery of a send makes its completion due; a message from an address without a domain is
discarded; another fills the lowest armed entry with its MTAG and length, unit by unit, poisoned words with their marks and STATUS POISON, and its record
goes to DST, a release event, while fewer than 48 records wait for room there (log 65); without one it is acknowledged NOMATCH.
The model's own choices and readings in it: log 25, 33, 34, 65, 86. -/
def Obligations.FabricEvents : Prop :=
  ∀ (s : State) (node i st : Nat) (c : Cmd) (m : FabricMsg),
    (s.cmd? node i = some c → c.kind = .fabric → c.closing = true →
      exec (.fabricAcknowledgement node i st) s = .next ((s.setCmd node i { c with done := if st = 0 then c.limit else 0, status := max c.status st }).later
        (.engineCompletion node i)) ∧
      exec (.fabricDeliveryFailure node i) s = .next ((s.setCmd node i { c with status := max c.status 5 }).later (.engineCompletion node i))) ∧
    (m.src ≠ s.fabric.addr → (∀ p ∈ s.fabric.domains, p.1 ≠ m.src) → exec (.fabricArrival m) s = .next s) ∧
    (m.src = s.fabric.addr ∨ (∃ p ∈ s.fabric.domains, p.1 = m.src) →
      let answered := fun (u : State) (status : Nat) => if m.src = s.fabric.addr then u.later (.fabricAcknowledgement m.node m.cmd status) else u
      (m.at' = none → (∀ e < 128, (s.matchOf e).state = 1 → (s.matchOf e).mtag.toNat = m.mtag → (s.matchOf e).len ≠ m.len) → m.mtag < 2 ^ 64 →
        exec (.fabricArrival m) s = .next (answered s 4)) ∧
      (∀ e x, m.at' = none → e < 128 → x = s.matchOf e → x.state = 1 → x.mtag.toNat = m.mtag → x.len = m.len →
        (∀ k < e, (s.matchOf k).state = 1 → (s.matchOf k).mtag.toNat = m.mtag → (s.matchOf k).len ≠ m.len) →
        exec (.fabricArrival m) s = .next ((s.setMatch e { x with state := 2 }).later (.fabricArrival { m with at' := some (e, 0) }))) ∧
      (∀ e x pos, m.at' = some (e, pos) → x = s.matchOf e → x.state = 2 → x.wait = .none → x.status ≠ 3 →
        (pos < m.len → ∀ dst, engAt x.addr.toNat pos = some (false, dst) → dst % 16 = 0 → untracked s dst 16 →
          s.wayPaused x.node (dst / 0x200000) = false →
          -- a poison mark of a payload word, above the payload's bytes
          let bad := fun (j : Nat) => (m.data / 2 ^ (8 * m.len + pos / 8 + j) % 2 == 1)
          ∃ t, exec (.fabricArrival m) s = .next t ∧ t.peek dst 16 = s.unreserved dst 16 (m.data / 256 ^ pos % 256 ^ 16) ∧
            (∀ b, outside b dst 16 → spByte t b = spByte s b) ∧ t.agenda = s.agenda ++ [.fabricArrival { m with at' := some (e, pos + 16) }] ∧
            t.matchOf e = { x with status := max x.status (if bad 0 || bad 1 then 1 else 0) } ∧
            ∀ j < 2, (t.poisoned (dst + 8 * j) 8).isSome = bad j) ∧
        (m.len ≤ pos → ∀ ck, destCore x.node false x.dst.toNat = some ck → s.recordsWaiting ck < 48 → exec (.fabricArrival m) s =
          .next (answered (((s.release .package (· == .receive e)).setMatch e { x with state := 0, slot := 0, node := 0, lid := 0, status := 0, wait := .none }).post ck
            (fld x.dst.toNat 20 4) { words := [BitVec.ofNat 64 (m.len * 2 ^ 32 + x.tag * 2 ^ 16 + 6 * 2 ^ 8 + x.status)], acq := true }) 0))))

/-- R3, R207, R250, R316, R352 to R360: device reset and a fatal fault leave far memory and no work; boot starts from reset with the records it uses, of each
type the first accepted one with the highest VER, BADPAGE joined, and without an accepted firmware copy stops with its ports down; throttling steps the
islands of a die past the junction limit; an uncorrectable error marks its word, on a link with a failed lane it is fatal; a corrected one only counts, and
past the threshold reports its line; a margin below its threshold is reported once, and a retrained link goes on, its failed lanes still failed. The .mirror lists are part of the program that
is loaded, not of the device (log 87).
The model's own choices and readings in it: log 42, 43, 44, 45, 46, 47, 48, 68, 84, 87. -/
def Obligations.DeviceEvents : Prop :=
  ∀ (s : State) (b : BootRecords) (die temp w line row lane vm hm link : Nat),
    (let stopped : State := { State.reset with
       far := s.far, farPoison := s.farPoison, mirrorLists := s.mirrorLists, moves := s.moves, turn := s.turn, oids := s.oids }
     let accepted := fun (x : Signatures) => x.ecdsa && x.lms
     exec .deviceReset s = .next stopped ∧
     (accepted b.copyA = false → accepted b.copyB = false → exec (.boot b) s = .next stopped) ∧
     (accepted b.copyA = true ∨ accepted b.copyB = true → ∃ t, exec (.boot b) s = .next t ∧ t.far = [] ∧ t.slots = [] ∧ t.host = {} ∧
       (∀ h, usedOf b.records 3 = some (.health h) → t.health = h) ∧ (usedOf b.records 3 = none → t.health = {}) ∧
       (∀ addr ds, usedOf b.records 2 = some (.fabric addr ds) → t.fabric = { up := true, addr := addr, domains := ds }) ∧
       (usedOf b.records 2 = none → t.fabric = {}) ∧
       (∀ f, f ∈ t.badFrames ↔ ∃ r ∈ b.records, ∃ fs, accepted r.signed = true ∧ r.header / 2 ^ 56 % 2 ^ 8 = 4 ∧ r.body = .badpage fs ∧ f ∈ fs) ∧
       (∀ ws mv, usedOf b.records 1 = some (.island ws) → usedOf b.records 6 = some (.ident mv) → ∀ c < 32,
         mget t.islands c {} = islandOf mv (ws.getD c 0))) ∧
     (∀ (rs : List FlashRecord) (type : Nat) (x : RecordBody), usedOf rs type = some x → ∃ i r, rs[i]? = some r ∧ r.body = x ∧
       accepted r.signed = true ∧ r.header / 2 ^ 56 % 2 ^ 8 = type ∧ ∀ (k : Nat) (q : FlashRecord), rs[k]? = some q → accepted q.signed = true →
         q.header / 2 ^ 56 % 2 ^ 8 = type → recordType q.body = type → q.header / 2 ^ 32 % 2 ^ 24 < r.header / 2 ^ 32 % 2 ^ 24 ∨
           (q.header / 2 ^ 32 % 2 ^ 24 = r.header / 2 ^ 32 % 2 ^ 24 ∧ i ≤ k))) ∧
    (∃ t, exec .fatalFault s = .next t ∧ t.far = s.far ∧ t.farPoison = s.farPoison ∧ t.entries = [] ∧ t.slots = [] ∧ t.rects = [] ∧ t.cmds = [] ∧
      t.host.epoch = s.host.epoch + 1 ∧ t.host.ha = s.host.hc ∧ t.host.hc = s.host.hc ∧ t.host.window.map (·.type) = [0x84]) ∧
    exec (.eccError .control) s = exec .fatalFault s ∧
    (∃ t u, exec (.throttleStep ⟨die, temp⟩) s = .next t ∧ exec (.throttleRecover ⟨die, temp⟩) s = .next u ∧ ∀ c < 32, let i := mget s.islands c {}
      mget t.islands c {} = (if c ∈ dieClusters die ∧ s.health.junction < temp then { i with mhz := max 1200 (i.mhz - 100), thr := true } else i) ∧
      mget u.islands c {} = (if c ∈ dieClusters die ∧ temp + 5 ≤ s.health.junction then
        { i with mhz := min i.conf (i.mhz + 100), thr := i.thr && i.mhz + 100 < i.conf } else i)) ∧
    (exec (.eccError (.scratchCorrected w)) s = .next s ∧ exec (.eccError (.accCorrected row)) s = .next s ∧
      exec (.eccError (.acc row)) s = .next { s with accPoison := setAdd s.accPoison row } ∧
      (∃ t, exec (.eccError (.scratch w)) s = .next t ∧ t.poison = setAdd s.poison w ∧ ∀ x, outside x (8 * w) 8 → spByte t x = spByte s x) ∧
      (let failed := fun (l : Nat) => ∃ p ∈ s.lanes, laneLink p.1 = l ∧ p.2.failed = true
       (failed link → exec (.eccError (.link link)) s = exec .fatalFault s) ∧ (¬ failed link → exec (.eccError (.link link)) s = .next s) ∧
       (∀ l, stackLink (8 * w) = some l → failed l → exec (.eccError (.far w)) s = exec .fatalFault s)) ∧
      ((∀ l, stackLink (8 * w) = some l → s.linkFailed l = false) → ∃ t, exec (.eccError (.far w)) s = .next t ∧ t.farPoison = setAdd s.farPoison w ∧
        (∀ x, outside x (8 * w) 8 → farByte t x = farByte s x) ∧
        let q := mget s.faqs (w / 16 % 32) {}
        (q.items.length < 64 → mget t.faqs (w / 16 % 32) {} = { q with items := q.items ++ [2 ^ 63 + w / 16 % 2 ^ 45 * 2 ^ 7] }) ∧
        (64 ≤ q.items.length → mget t.faqs (w / 16 % 32) {} = { q with ovf := true })) ∧
      (mget s.farCount line 0 ≠ s.health.ecc → exec (.eccError (.farCorrected line)) s =
        .next { s with farCount := mset s.farCount line (mget s.farCount line 0 + 1) }) ∧
      (mget s.farCount line 0 = s.health.ecc → ∃ t, exec (.eccError (.farCorrected line)) s = .next t ∧
        t.farCount = mset s.farCount line (s.health.ecc + 1) ∧ t = { s with farCount := t.farCount, faqs := t.faqs } ∧
        ((mget s.faqs (line % 32) {}).items.length < 64 →
          (mget t.faqs (line % 32) {}).items = (mget s.faqs (line % 32) {}).items ++ [2 ^ 63 + 2 ^ 61 + line % 2 ^ 45 * 2 ^ 7])) ∧
      (∀ ps, ∃ t, exec (.scrub ps) s = .next t ∧ t = { s with farCount := t.farCount, faqs := t.faqs }) ∧
      (∀ n, exec (.scrub [(line, n)]) s = .next (let old := mget s.farCount line 0
        let t : State := { s with farCount := mset s.farCount line (old + n) }
        if old ≤ s.health.ecc ∧ s.health.ecc < old + n then t.pushFaq 1 line else t))) ∧
    (laneOk lane = true → lane < 2 ^ 18 → let l := s.lane lane
      let low := vm < s.health.vmarg ∨ hm < s.health.hmarg
      (l.pend = true ∨ ¬ low → exec (.marginMessage lane vm hm) s = .next (s.setLane lane { l with vmarg := vm, hmarg := hm })) ∧
      let t := s.setLane lane { l with vmarg := vm, hmarg := hm, pend := true }
      (l.pend = false → low → exec (.marginMessage lane vm hm) s = .next (t.post (4 * 2049 + 3) 2 { words := [BitVec.ofNat 64 lane, BitVec.ofNat 64
        (2 ^ 63 + l.spr.toNat * 2 ^ 62 + l.state * 2 ^ 60 + vm % 2 ^ 16 * 2 ^ 16 + hm % 2 ^ 16)] }))) ∧
    (let after := s.lanes.map (fun p => if laneLink p.1 = link ∧ p.2.state = 1 then (p.1, { p.2 with
       state := if p.2.failed then 2 else 0 }) else p)
     exec (.retrainDone link) s = .next { s with pauses := s.pauses.filter (· ≠ link), lanes := after })

/-- R223, R328, R334 to R336, R358, R363: a frame out of order is discarded and a repeated one answered with STATE; an accepted one waits its turn: it
starts when those before it have; LOAD writes and fills, once no READY or DRAINING tile entry holds its range, and completes with a SYS release, READ
sends DATA, where no link is paused; a LAUNCH with a bad request is answered BADREQ and a good one starts a launch, SYNC is answered with STATE, PEERS is held until no send or fill is in
progress and then applied; the resending of a device frame stays due while it is unacknowledged. A frame sent again is the frame of that number in the
window: the state does not change with it, and what reaches the wire is no part of the state (log 11, 104).
The model's own choices and readings in it: log 11, 13, 36, 37, 38, 39, 40, 41, 104. -/
def Obligations.HostFrames : Prop :=
  ∀ (s : State) (f : Frame),
    let g : Frame := { f with held := true }
    let queue := fun (u : State) (fs : List Frame) => ({ u with host := { u.host with queued := fs } } : State)
    (∀ p ∈ [((.loadFrame : Frame → Instr), (.loadFrame : Frame → Event), 0x01), (.launchFrame, .launchFrame, 0x02), (.readFrame, .readFrame, 0x03),
        (.peersFrame, .peersFrame, 0x05)],
      (readFrame s f p.2.2 → (s.host.ha + 1 < f.seq → exec (p.1 f) s = .next s) ∧
        (f.seq ≤ s.host.ha → let t : State := { s with host := { s.host with window := s.host.window.filter (fun g => f.ack < g.seq) } }
          exec (p.1 f) s = .next { t with host := { t.host with sent := t.host.sent ++ [stateFrame t] } }) ∧
        (f.seq = s.host.ha + 1 → s.host.queued ≠ [] → s.host.queued.head? ≠ some g →
          exec (p.1 f) s = .next ((queue (taken s f) (s.host.queued ++ [g])).later (p.2.1 g)))) ∧
      (f.held = true → (f ∉ s.host.queued → exec (p.1 f) s = .next s) ∧
        (f ∈ s.host.queued → s.host.queued.head? ≠ some f → exec (p.1 f) s = .next (s.later (p.2.1 f))))) ∧
    (readFrame s f 0x04 → let t : State := { s with host := { s.host with window := s.host.window.filter (fun g => f.ack < g.seq) } }
      exec (.syncFrame f) s = .next { t with host := { t.host with sent := t.host.sent ++ [stateFrame t] } }) ∧
    (let w : Word := BitVec.ofNat 64 (f.payload % 2 ^ 64)
     let n := f.len - 8
     let loaded := fun (u : State) (a : Nat) => ((((u.poke a n (f.payload / 2 ^ 64 % 256 ^ n)).fillLines a n).release .package (· == .host)).completeFrame
       f.seq)
     s.pauses = [] → ∀ a, nearAt w a n →
      (readFrame s f 0x01 → f.seq = s.host.ha + 1 → s.host.queued = [] →
        (s.tileHeld (a / 0x200000) (a % 0x200000) n = true → exec (.loadFrame f) s = .next ((queue (taken s f) [g]).later (.loadFrame g))) ∧
        (s.tileHeld (a / 0x200000) (a % 0x200000) n = false → exec (.loadFrame f) s = .next (loaded (taken s f) a))) ∧
      (∀ rest, f.held = true → s.host.queued = f :: rest →
        (s.tileHeld (a / 0x200000) (a % 0x200000) n = true → exec (.loadFrame f) s = .next (s.later (.loadFrame f))) ∧
        (s.tileHeld (a / 0x200000) (a % 0x200000) n = false → exec (.loadFrame f) s = .next (loaded (queue s rest) a)))) ∧
    (f.seq = s.host.ha + 1 → s.host.queued = [] → let t := taken s f
      (readFrame s f 0x03 → s.pauses = [] → let n := f.payload / 2 ^ 64 % 2 ^ 24
        let w : Word := BitVec.ofNat 64 (f.payload % 2 ^ 64)
        ∀ a, nearAt w a n → exec (.readFrame f) s = .next ((t.sendFrame 0x83 n (t.peek a n)).completeFrame f.seq)) ∧
      (readFrame s f 0x02 → let n := 5 + 2 * reqNh (wordsOf f.payload 5)
        let req := wordsOf f.payload n
        let id := t.pickLid (2 ^ 31) 0x7FFFFFFF t.lidFuel t.host.ctr
        (requestOk req = false → exec (.launchFrame f) s = .next ((t.sendFrame 0x81 8 0x0C).completeFrame f.seq)) ∧
        (requestOk req = true → exec (.launchFrame f) s = .next (({ t with host := { t.host with ctr := id.2 } } : State).startLaunch
          ⟨id.1, none, req, (List.range 240).map (fun i => fld f.payload (64 * (n + i)) 64), 0, none, f.seq, [], []⟩))) ∧
      (readFrame s f 0x05 → let u : State := { t with fabric := { t.fabric with held := t.fabric.held ++ [(f.payload, f.seq)] } }
        exec (.peersFrame f) s = .next (u.later .peersApply))) ∧
    ((∃ p ∈ s.cmds, p.2.kind = .fabric) ∨ (∃ p ∈ s.matching, p.2.state = 2) → exec .peersApply s = .next (s.later .peersApply)) ∧
    ((∀ p ∈ s.cmds, p.2.kind ≠ .fabric) → (∀ p ∈ s.matching, p.2.state ≠ 2) → ∀ p seq r, s.fabric.held = (p, seq) :: r →
      ∃ t, exec .peersApply s = .next t ∧ t.fabric.own = p % 2 ^ 64 ∧ t.fabric.count = p / 2 ^ 64 % 2 ^ 64 ∧ t.fabric.held = r ∧
        ∀ i < 1024, i < t.fabric.count → mget? t.fabric.peers i = some (p / 2 ^ (64 * (2 + i)) % 2 ^ 64)) ∧
    (∀ n, ((∃ g ∈ s.host.window, g.seq = n) → exec (.frameResend n) s = .next (s.later (.frameResend n))) ∧
      ((∀ g ∈ s.host.window, g.seq ≠ n) → exec (.frameResend n) s = .next s))

/-! ### The machine -/

/-- R3, R154, R168, R205, R334, R363: after device reset every scratchpad byte is zero, full and unpoisoned, no handler entry is in use, no vat holds
a slot, no queue, mailbox or command anything, `last` is 31, the launch counters are 1 and EPOCH is 1. -/
def Obligations.ResetValues : Prop :=
  let s := State.reset
  (∀ a n, spByte s a = 0 ∧ s.hasEmpty a n = false ∧ s.poisoned a n = none) ∧
  (∀ k, (s.entry k).v = false ∧ (s.core k).last = 31 ∧ (s.core k).hlt = false ∧ (s.vat k).ctr = 1) ∧
  (∀ n i, s.slot? n i = none ∧ s.queue n i = [] ∧ s.box n i = [] ∧ s.cmd? n i = none ∧ s.strm? n i = none ∧ s.semCount n i = 0 ∧
    (s.tile n i).v = false) ∧
  s.tlb = [] ∧ s.agenda = [] ∧ s.host.epoch = 1 ∧ s.host.ha = 0 ∧ s.host.next = 1 ∧ s.host.ctr = 1 ∧ s.memOk = true

/-- R32, R154, R303, R310: a step whose move is an issue of a core runs the instruction that stands at IP of the entry the core selects, which is in use,
unmasked and ACTIVE, or takes the trap that the entry has waited to take, and then takes that entry out of the yield sets; what it has changed of an imaged
slot sets the dirty bits of its image units. A debugger's step is used up by an instruction that issues. The core first takes its place in the cycles
of its vat's queues, which begin anew where it has acted in them (R184, log 108).
The model's own choices and readings in it: log 4, 8, 63, 93, 108. -/
def Obligations.StepRunsDecoded : Prop :=
  ∀ (s t : State) (ck e : Nat) (ms : List Move) (d : Decoded), s.moves = .issue ck :: ms →
    let s' : State := { s with turn := s.turn + 1, moves := ms }
    s'.onLocalPath (ck / 4) = false → (s'.issueCycle ck).chosen ck = some (e, t) →
    (t.cur = ⟨ck, e⟩ ∧ e < 32 ∧ t.curEntry.state = .active ∧ (s.entry (32 * ck + e)).v = true ∧ (s.entry (32 * ck + e)).msk = false) ∧
    (let ip := t.curEntry.ip
     let h := loadByte t ip + 256 * loadByte t (ip + 1)
     let h' := loadByte t (ip + 2) + 256 * loadByte t (ip + 3)
     ip % 2 = 0 → loadOk t ip 2 = true →
     (h % 2 = 0 ∧ decodeHalf h = .ok d) ∨ (h % 2 = 1 ∧ ip ≠ 0x1FFFFE ∧ loadOk t (ip + 2) 2 = true ∧ decode32 (h + 65536 * h') = .ok d) →
     (∀ c i n, t.curEntry.wait ≠ .trap c i n) →
     step s = (match exec d.toInstr t with
       | .next u => .next (s.noteUnits ((u.prune ck (some e)).stepped ck e))
       | r => r)) ∧
    (∀ c i n, t.curEntry.wait = .trap c i n → step s = .next (s.noteUnits (((t.takeTrap t.curKey c i n).prune ck (some e)).stepped ck e))) ∧
    ((∀ p ∈ s.slots, p.2.imaged = false) → ∀ u, s.noteUnits u = u)

/-- R33, R35, R45, R47, Table 3-12: words written out from the encodings decode to their instructions, and a reserved one is refused. -/
def Obligations.DecodeWords : Prop :=
  -- ADD W1, W2, W3: b 3 at 25:20, a 2 at 19:14, d 1 at 13:8, opcode 0x00, bit 0 set
  decodeTableWord 32 0b000000_000011_000010_000001_0000000_1 = some (.add 1 2 3) ∧
  -- 16-bit SUB W4 − K5: k at 15, b 5 at 14:10, d 4 at 9:5, op4 2, bit 0 clear
  decodeTableWord 16 0b1_00101_00100_0010_0 = some (.sub16 4 5 1) ∧
  -- BNE W1, W2, −2: displacement 0xFFE at 31:20, b 2 at 19:14, a 1 at 13:8, opcode 0x11
  decodeTableWord 32 0b111111111110_000010_000001_0010001_1 = some (.bne 1 2 0xFFE) ∧
  -- VFMA V3 += V1 · V2 under M5: mask at 31:29, sub-op 6 at 28:26
  decodeTableWord 32 0b101_110_010010_010001_010011_0011010_1 = some (.vfma 19 17 18 5) ∧
  -- TRAP 7 and ERET: form S, opcode 0x5E
  decodeTableWord 32 0b0010_00000000000111_000000_1011110_1 = some (.trap 7) ∧
  decodeTableWord 32 0b0101_00000000000000_000000_1011110_1 = some .eret ∧
  decodeTableWord 32 0b000000_000000_000000_000000_1100000_1 = none ∧ decodeTableWord 16 0 = none

/-- R32 to R36, Table 3-12: the decoder reads back every well-formed encoded instruction, with every operand at every value; and a word that it reads is
the one word of its instruction, so no bit of an encoding is dropped. -/
def Obligations.EncodeDecode : Prop :=
  (∀ (i : Instr) (n w : Nat), i.wf = true → encode i = some (n, w) → w < 2 ^ n ∧ decodeTableWord n w = some i) ∧
  (∀ (i : Instr) (n w : Nat), (n = 16 ∧ w % 2 = 0) ∨ (n = 32 ∧ w % 2 = 1) → w < 2 ^ n → decodeTableWord n w = some i →
    encode i = some (n, w) ∧ i.wf = true)

/-- Every step keeps scratchpad, accumulator and far memory in their canonical form, whatever happens in it. -/
def Obligations.MemoryStaysCanonical : Prop := ∀ (s t : State), s.memOk = true → step s = .next t → t.memOk = true

/-- Every step of every state answers a next state: no instruction, no event and no data stops the machine.
The model's own choices and readings in it: log 4. -/
def Obligations.StepAlwaysGoesOn : Prop := ∀ s : State, goesOn s = true

/-! ### Frames -/

/-- R16, R28, R38, R54: scalar, control, mask, lane and load instructions: an instruction that answers a next state has trapped or blocked, or has
changed nothing but its destination with its poison marks and D bits, IP, the queues and channels that its fields name, and, for a lane instruction, flags and streams. -/
def Obligations.RegisterFrames : Prop :=
  ∀ (s : State) (d a b k i mk : Nat), let none := fun _ : Nat => False
    let w := wordBytesOf s d
    let v := vectorBytesOf s d
    (∀ p ∈ twoSources, framed false [d, a, b] w (p.1 d a b) s) ∧ (∀ p ∈ constantForms, framed false [d, a] w (p.1 d a k) s) ∧
    (∀ p ∈ countForms, framed false [d, a] w (p.1 d a k) s) ∧ (∀ p ∈ oneSource, framed false [d, a] w (p.1 d a) s) ∧
    framed false [d] w (.movK d k) s ∧ framed false [d, a, b] w (.arel d a b) s ∧ framed false [d, a] w (.arelK d a k) s ∧
    (∀ p ∈ branches, framed false [a, b] none (p.1 a b i) s) ∧ framed false [] (workBytes s (8 * a) 8) (.loop a i) s ∧
    framed false [] none (.j i) s ∧ framed false [a] none (.jr a) s ∧ framed false [] none .nop s ∧
    framed false [] (workBytes s 0x78 8) (.call i) s ∧ framed false [a] (workBytes s 0x78 8) (.callr a) s ∧
    (∀ p ∈ [(.mand : Nat → Nat → Nat → Instr), .mor, .mxor], framed false [] w (p d a b) s) ∧ framed false [] w (.mnot d a) s ∧
    (∀ p ∈ [(.ldB : Nat → Nat → Nat → Instr), .ldH, .ldW, .ldD, .ldSb, .ldSh, .ldSw],
      framed false [] (workBytes s (8 * d) 8) (p d b i) s) ∧
    (∀ p ∈ laneForms, framed true [d, a, b] v (p.1 d a b mk) s) ∧
    (∀ p ∈ compareForms, framed true [a, b] w (p.1 d a b mk) s)

/-- R90, R91, R112, R203: stores. Every byte outside those that the instruction's own address names reads as before, when it has not trapped, and
every poison mark of a word and D bit of a line without such a byte is as before. -/
def Obligations.StoreFrames : Prop :=
  ∀ (s : State) (d b i t : Nat), let base := 0x200000 * s.node
    (∀ p ∈ [((.stB : Nat → Nat → Nat → Instr), 1), (.stH, 2), (.stW, 4), (.stD, 8)], framed false []
      (fun x => base + (localAddr s b i p.2).toNat ≤ x ∧ x < base + (localAddr s b i p.2).toNat + p.2) (p.1 d b i) s) ∧
    framed true [] (fun x => base + (localAddr s b i 64).toNat ≤ x ∧ x < base + (localAddr s b i 64).toNat + 64) (.stv d b t i) s ∧
    (∀ u first r, exec (.astore d i b) s = .next u → names s d first r → stopsOnly s u ∨ (u.accMem = s.accMem ∧ u.entry = (past 4 s).entry ∧
      (∀ x, outside x (base + (wVal s b).toNat) (2048 * r.count) → spByte u x = spByte s x) ∧
      marksKeep (fun x => base + (wVal s b).toNat ≤ x ∧ x < base + (wVal s b).toNat + 2048 * r.count) s u)) ∧
    (∀ u x s1, source s d = some (x, s1) → exec (.rst d b) s = .next u → stopsOnly s u ∨
      let addr := 0x200000 * (fld x.toNat 21 5 * 64 + fld x.toNat 26 6) + x.toNat % 0x200000
      (∀ y, outside y addr 8 → spByte u y = spByte s y) ∧ marksKeep (fun y => addr ≤ y ∧ y < addr + 8) s u)
end

