-- ==== Sys2Proof/Laws/Memory.lean ====
section
/-!
SUPPORT. Byte memory: a write is read back, leaves every other byte alone, and keeps the canonical form.
-/
namespace Sys2Proof.Machine
open Sys2Proof

variable {fill : Nat → Byte}

/-! ### One byte -/

theorem byteAt_append_left {m r : List Host.Cell} {a : Nat} (h : ∀ c ∈ m, c.1 ≠ a) :
    byteAt fill (m ++ r) a = byteAt fill r a := by
  have : m.find? (fun c => c.1 == a) = none := by
    simp only [List.find?_eq_none]; intro c hc; simpa using h c hc
  simp [byteAt, List.find?_append, this]

theorem byteAt_append_right {m r : List Host.Cell} {a : Nat} (h : ∀ c ∈ r, c.1 ≠ a) :
    byteAt fill (m ++ r) a = byteAt fill m a := by
  have : r.find? (fun c => c.1 == a) = none := by
    simp only [List.find?_eq_none]; intro c hc; simpa using h c hc
  simp [byteAt, List.find?_append, this]

theorem byteAt_filter {m : List Host.Cell} {p : Host.Cell → Bool} {a : Nat}
    (h : ∀ b, p (a, b) = true) : byteAt fill (m.filter p) a = byteAt fill m a := by
  induction m with
  | nil => rfl
  | cons c r ih =>
    obtain ⟨x, b⟩ := c
    by_cases hx : x = a
    · subst hx; simp [byteAt, h b]
    · by_cases hp : p (x, b) = true
      · simp only [List.filter_cons, hp, if_true]
        simp only [byteAt, List.find?_cons, show (x == a) = false by simpa using hx] at ih ⊢
        exact ih
      · simp only [List.filter_cons, hp]
        simp only [byteAt, List.find?_cons, show (x == a) = false by simpa using hx] at ih ⊢
        exact ih

theorem cellsOf_range {a n v : Nat} {c : Host.Cell} (h : c ∈ cellsOf fill a n v) : a ≤ c.1 ∧ c.1 < a + n := by
  induction n generalizing a v with
  | zero => simp [cellsOf] at h
  | succ n ih =>
    simp only [cellsOf] at h
    split at h
    · have := ih h; omega
    · rcases List.mem_cons.mp h with rfl | h
      · simp
      · have := ih h; omega

theorem byteAt_cellsOf {a n v : Nat} (i : Nat) (hi : i < n) :
    byteAt fill (cellsOf fill a n v) (a + i) = BitVec.ofNat 8 (v / 256 ^ i) := by
  induction n generalizing a v i with
  | zero => omega
  | succ n ih =>
    cases i with
    | zero =>
      simp only [cellsOf]
      split
      · rename_i hb
        have hno : ∀ c ∈ cellsOf fill (a + 1) n (v / 256), c.1 ≠ a := by
          intro c hc; have := cellsOf_range hc; omega
        have : byteAt fill (cellsOf fill (a + 1) n (v / 256)) a = fill a := by
          have hf : (cellsOf fill (a + 1) n (v / 256)).find? (fun c => c.1 == a) = none := by
            simp only [List.find?_eq_none]; intro c hc; simpa using hno c hc
          simp [byteAt, hf]
        simp only [Nat.add_zero, this]
        simpa using (beq_iff_eq.mp hb).symm
      · simp [byteAt]
    | succ i =>
      have h := ih (a := a + 1) (v := v / 256) i (by omega)
      have e : a + (i + 1) = a + 1 + i := by omega
      have ev : v / 256 ^ (i + 1) = v / 256 / 256 ^ i := by
        rw [Nat.div_div_eq_div_mul, Nat.pow_succ, Nat.mul_comm]
      simp only [cellsOf, e, ev]
      split
      · exact h
      · simp only [byteAt, List.find?_cons, show (a == a + 1 + i) = false by simp; omega] at h ⊢
        exact h

/-- A byte that a write does not cover keeps its value. -/
theorem byteAt_storeN_outside {m : List Host.Cell} {a n v b : Nat} (h : b < a ∨ a + n ≤ b) :
    byteAt fill (storeN fill m a n v) b = byteAt fill m b := by
  have hc : ∀ c ∈ cellsOf fill a n v, c.1 ≠ b := by
    intro c hc; have := cellsOf_range hc; omega
  rcases h with h | h
  · rw [storeN, byteAt_append_right, byteAt_append_right hc]
    · exact byteAt_filter (by simpa using h)
    · intro c hc; simp at hc; omega
  · rw [storeN, byteAt_append_left]
    · exact byteAt_filter (by simpa using h)
    · intro c hc'
      rcases List.mem_append.mp hc' with h1 | h1
      · simp at h1; omega
      · exact hc c h1

/-- A byte that a write covers has the value written. -/
theorem byteAt_storeN_inside {m : List Host.Cell} {a n v : Nat} (i : Nat) (hi : i < n) :
    byteAt fill (storeN fill m a n v) (a + i) = BitVec.ofNat 8 (v / 256 ^ i) := by
  rw [storeN, byteAt_append_right, byteAt_append_left]
  · exact byteAt_cellsOf i hi
  · intro c hc; simp at hc; omega
  · intro c hc; simp at hc; omega

/-! ### Several bytes -/

theorem loadN_congr {m m' : List Host.Cell} {a n : Nat}
    (h : ∀ i < n, byteAt fill m (a + i) = byteAt fill m' (a + i)) : loadN fill m a n = loadN fill m' a n := by
  induction n generalizing a with
  | zero => rfl
  | succ n ih =>
    have h0 : byteAt fill m a = byteAt fill m' a := by simpa using h 0 (by omega)
    have := ih (a := a + 1) (fun i hi => by
      have := h (i + 1) (by omega); rwa [show a + (i + 1) = a + 1 + i by omega] at this)
    simp [loadN, h0, this]

/-- Bytes that a write does not meet read as before. -/
theorem loadN_storeN_disjoint {m : List Host.Cell} {a n v b k : Nat} (h : b + k ≤ a ∨ a + n ≤ b) :
    loadN fill (storeN fill m a n v) b k = loadN fill m b k :=
  loadN_congr (fun i hi => byteAt_storeN_outside (by omega))

theorem loadN_eq {m : List Host.Cell} {a n v : Nat}
    (h : ∀ i < n, byteAt fill m (a + i) = BitVec.ofNat 8 (v / 256 ^ i)) : loadN fill m a n = v % 256 ^ n := by
  induction n generalizing a v with
  | zero => simp [loadN, Nat.mod_one]
  | succ n ih =>
    have h0 : byteAt fill m a = BitVec.ofNat 8 v := by simpa using h 0 (by omega)
    have hr := ih (a := a + 1) (v := v / 256) (fun i hi => by
      have := h (i + 1) (by omega)
      rw [show a + (i + 1) = a + 1 + i by omega] at this
      rw [this, Nat.div_div_eq_div_mul, Nat.pow_succ, Nat.mul_comm])
    rw [loadN, h0, hr, Nat.pow_succ, Nat.mul_comm (256 ^ n) 256, Nat.mod_mul]
    simp

/-- What a write stores is read back. -/
@[simp] theorem loadN_storeN_same {m : List Host.Cell} {a n v : Nat} :
    loadN fill (storeN fill m a n v) a n = v % 256 ^ n :=
  loadN_eq (fun i hi => byteAt_storeN_inside i hi)

/-- Writing `n` bytes writes the value modulo `256 ^ n`. -/
theorem loadN_lt {m : List Host.Cell} {a n : Nat} : loadN fill m a n < 256 ^ n := by
  induction n generalizing a with
  | zero => simp [loadN]
  | succ n ih =>
    have h1 := (byteAt fill m a).isLt
    have h2 := ih (a := a + 1)
    rw [loadN, Nat.pow_succ]
    omega

/-- Reading `j + k` bytes is reading `j`, then `k`. -/
theorem loadN_split {m : List Host.Cell} {a j k : Nat} :
    loadN fill m a (j + k) = loadN fill m a j + 256 ^ j * loadN fill m (a + j) k := by
  induction j generalizing a with
  | zero => simp [loadN]
  | succ j ih =>
    rw [Nat.succ_add, loadN, ih, loadN, show a + 1 + j = a + (j + 1) by omega, Nat.pow_succ]
    ring

/-- Bytes `i` to `i + k - 1` of a longer read. -/
theorem fld_loadN {m : List Host.Cell} {a n i k : Nat} (h : i + k ≤ n) :
    fld (loadN fill m a n) (8 * i) (8 * k) = loadN fill m (a + i) k := by
  obtain ⟨r, rfl⟩ := Nat.exists_eq_add_of_le h
  have e : ∀ x, 2 ^ (8 * x) = 256 ^ x := by intro x; rw [Nat.pow_mul]
  rw [Nat.add_assoc, loadN_split, fld, e, e, Nat.add_mul_div_left _ _ (by positivity), Nat.div_eq_of_lt loadN_lt,
    Nat.zero_add, loadN_split, Nat.add_mul_mod_self_left]
  exact Nat.mod_eq_of_lt loadN_lt

/-! ### The canonical form -/

theorem risingCells_iff {m : List Host.Cell} : risingCells m = true ↔ m.Pairwise (fun c d => c.1 < d.1) := by
  induction m with
  | nil => simp [risingCells]
  | cons c r ih =>
    cases r with
    | nil => simp [risingCells]
    | cons d r =>
      simp only [risingCells, Bool.and_eq_true, decide_eq_true_eq, ih, List.pairwise_cons]
      constructor
      · rintro ⟨h1, h2, h3⟩
        refine ⟨?_, h2, h3⟩
        intro x hx
        rcases List.mem_cons.mp hx with rfl | hx
        · exact h1
        · exact Nat.lt_trans h1 (h2 x hx)
      · rintro ⟨h1, h2, h3⟩
        exact ⟨h1 d (by simp), h2, h3⟩

theorem cellsOf_pairwise {a n v : Nat} : (cellsOf fill a n v).Pairwise (fun c d => c.1 < d.1) := by
  induction n generalizing a v with
  | zero => simp [cellsOf]
  | succ n ih =>
    simp only [cellsOf]
    split
    · exact ih
    · refine List.pairwise_cons.mpr ⟨fun c hc => ?_, ih⟩
      have := cellsOf_range hc; simp; omega

theorem cellsOf_ne_fill {a n v : Nat} {c : Host.Cell} (h : c ∈ cellsOf fill a n v) : c.2 ≠ fill c.1 := by
  induction n generalizing a v with
  | zero => simp [cellsOf] at h
  | succ n ih =>
    simp only [cellsOf] at h
    split at h
    · exact ih h
    · rename_i hb
      rcases List.mem_cons.mp h with rfl | h
      · simpa using hb
      · exact ih h

/-- A write keeps the canonical form. -/
theorem memWf_storeN {m : List Host.Cell} {a n v : Nat} (h : Memory.wf fill m = true) :
    Memory.wf fill (storeN fill m a n v) = true := by
  simp only [Memory.wf, Bool.and_eq_true, risingCells_iff, List.all_eq_true] at h ⊢
  obtain ⟨hp, hf⟩ := h
  refine ⟨?_, ?_⟩
  · rw [storeN]
    refine List.pairwise_append.mpr ⟨List.pairwise_append.mpr ⟨hp.filter _, cellsOf_pairwise, ?_⟩, hp.filter _, ?_⟩
    · intro c hc d hd; have := cellsOf_range hd; simp at hc; omega
    · intro c hc d hd
      simp at hd
      rcases List.mem_append.mp hc with h1 | h1
      · simp at h1; omega
      · have := cellsOf_range h1; omega
  · intro c hc
    rw [storeN] at hc
    rcases List.mem_append.mp hc with h1 | h1
    · rcases List.mem_append.mp h1 with h2 | h2
      · exact hf c (List.mem_of_mem_filter h2)
      · simpa using cellsOf_ne_fill h2
    · exact hf c (List.mem_of_mem_filter h1)

/-- Leaving cells out keeps the canonical form. -/
theorem memWf_filter {m : List Host.Cell} {p : Host.Cell → Bool} (h : Memory.wf fill m = true) :
    Memory.wf fill (m.filter p) = true := by
  simp only [Memory.wf, Bool.and_eq_true, risingCells_iff, List.all_eq_true] at h ⊢
  exact ⟨h.1.filter _, fun c hc => h.2 c (List.mem_of_mem_filter hc)⟩

@[simp] theorem memWf_nil : Memory.wf fill [] = true := rfl

end Sys2Proof.Machine
end

