-- ==== Sys2Proof/Laws/Tables.lean ====
section
/-!
SUPPORT. Tables and number sets: a read after a write, and which numbers a set holds after a change of a range.
-/
namespace Sys2Proof.Machine
open Sys2Proof

/-! ### Tables -/

@[simp] theorem mget?_nil {α : Type} (k : Nat) : mget? ([] : Map α) k = none := rfl
@[simp] theorem mget_nil {α : Type} (k : Nat) (d : α) : mget ([] : Map α) k d = d := rfl

theorem mget?_mset_self {α : Type} (m : Map α) (k : Nat) (v : α) : mget? (mset m k v) k = some v := by
  induction m with
  | nil => simp [mset, mget?]
  | cons p r ih =>
    obtain ⟨k', v'⟩ := p
    by_cases h1 : k = k'
    · simp [mset, mget?, h1]
    · by_cases h2 : k < k'
      · simp [mset, mget?, h1, h2]
      · have : ¬ k' = k := fun h => h1 h.symm
        simp [mset, mget?, h1, h2, this, ih]

theorem mget?_mset_ne {α : Type} (m : Map α) {k j : Nat} (v : α) (h : j ≠ k) : mget? (mset m k v) j = mget? m j := by
  have hk : ¬ k = j := fun e => h e.symm
  induction m with
  | nil => simp [mset, mget?, hk]
  | cons p r ih =>
    obtain ⟨k', v'⟩ := p
    by_cases h1 : k = k'
    · subst h1; simp [mset, mget?, hk]
    · by_cases h2 : k < k'
      · simp [mset, mget?, h1, h2, hk]
      · simp [mset, mget?, h1, h2, ih]

@[simp] theorem mget_mset_self {α : Type} (m : Map α) (k : Nat) (v d : α) : mget (mset m k v) k d = v := by
  simp [mget, mget?_mset_self]

@[simp] theorem mget_mset_ne {α : Type} (m : Map α) {k j : Nat} (v d : α) (h : j ≠ k) :
    mget (mset m k v) j d = mget m j d := by
  simp [mget, mget?_mset_ne m v h]

theorem mget?_mset {α : Type} (m : Map α) (k j : Nat) (v : α) :
    mget? (mset m k v) j = if j = k then some v else mget? m j := by
  by_cases h : j = k
  · subst h; simp [mget?_mset_self]
  · simp [h, mget?_mset_ne]

@[simp] theorem mget_mmod_self {α : Type} (m : Map α) (k : Nat) (d : α) (f : α → α) :
    mget (mmod m k d f) k d = f (mget m k d) := by simp [mmod]

@[simp] theorem mget_mmod_ne {α : Type} (m : Map α) {k j : Nat} (d : α) (f : α → α) (h : j ≠ k) :
    mget (mmod m k d f) j d = mget m j d := by simp [mmod, h]

/-- The later of two writes to one entry stands. -/
theorem mset_mset {α : Type} (m : Map α) (k : Nat) (v w : α) : mset (mset m k v) k w = mset m k w := by
  induction m with
  | nil => simp [mset]
  | cons p r ih =>
    obtain ⟨k', v'⟩ := p
    simp only [mset]
    by_cases h : k = k'
    · subst h; simp [mset]
    · by_cases h2 : k < k'
      · simp [h, h2, mset]
      · simp [h, h2, mset, ih]

theorem mget?_mdel_self {α : Type} (m : Map α) (k : Nat) : mget? (mdel m k) k = none := by
  induction m with
  | nil => rfl
  | cons p r ih =>
    obtain ⟨k', v'⟩ := p
    by_cases h : k' = k
    · simpa [mdel, h] using ih
    · simpa [mdel, mget?, h] using ih

theorem mget?_mdel_ne {α : Type} (m : Map α) {k j : Nat} (h : j ≠ k) : mget? (mdel m k) j = mget? m j := by
  induction m with
  | nil => rfl
  | cons p r ih =>
    obtain ⟨k', v'⟩ := p
    by_cases h1 : k' = k
    · subst h1
      have : ¬ k' = j := fun e => h e.symm
      simpa [mdel, mget?, this] using ih
    · simp only [mdel] at ih
      by_cases h2 : k' = j
      · subst h2; simp [mdel, mget?, h1]
      · simp [mdel, mget?, h1, h2, ih]

/-! ### Sets of numbers -/

theorem mem_setAdd {xs : List Nat} {x y : Nat} : y ∈ setAdd xs x ↔ y = x ∨ y ∈ xs := by
  induction xs with
  | nil => simp [setAdd]
  | cons z r ih =>
    by_cases h1 : x = z
    · simp [setAdd, h1]
    · by_cases h2 : x < z
      · simp [setAdd, h1, h2]
      · simp [setAdd, h1, h2, ih]; tauto

theorem mem_setAddRange {xs : List Nat} {lo n y : Nat} :
    y ∈ setAddRange xs lo n ↔ (lo ≤ y ∧ y < lo + n) ∨ y ∈ xs := by
  simp only [setAddRange, List.mem_append, List.mem_filter, List.mem_map, List.mem_range, decide_eq_true_eq]
  constructor
  · rintro ((⟨h, _⟩ | ⟨i, hi, rfl⟩) | ⟨h, _⟩)
    · exact .inr h
    · exact .inl (by omega)
    · exact .inr h
  · rintro (⟨h1, h2⟩ | h)
    · exact .inl (.inr ⟨y - lo, by omega, by omega⟩)
    · by_cases h1 : y < lo
      · exact .inl (.inl ⟨h, h1⟩)
      · by_cases h2 : y < lo + n
        · exact .inl (.inr ⟨y - lo, by omega, by omega⟩)
        · exact .inr ⟨h, by omega⟩

theorem mem_setDelRange {xs : List Nat} {lo n y : Nat} :
    y ∈ setDelRange xs lo n ↔ y ∈ xs ∧ ¬ (lo ≤ y ∧ y < lo + n) := by
  simp only [setDelRange, List.mem_filter]
  constructor
  · rintro ⟨h, h2⟩; refine ⟨h, ?_⟩; intro h3; simp [h3] at h2
  · rintro ⟨h, h2⟩
    have : y < lo ∨ lo + n ≤ y := by omega
    exact ⟨h, by simpa using this⟩

theorem setMeets_iff {xs : List Nat} {lo n : Nat} : setMeets xs lo n = true ↔ ∃ x ∈ xs, lo ≤ x ∧ x < lo + n := by
  simp [setMeets]

end Sys2Proof.Machine
end

