-- ==== Sys2Proof/Laws/State.lean ====
section
/-!
SUPPORT. What each update of the state leaves unchanged: one lemma per field and update.
-/
namespace Sys2Proof.Machine
open Sys2Proof

/-! ### poke -/

@[simp] theorem poke_empty (s : State) (a n v : Nat) : (s.poke a n v).empty = s.empty := rfl
@[simp] theorem poke_lost (s : State) (a n v : Nat) : (s.poke a n v).lost = s.lost := rfl
@[simp] theorem poke_accMem (s : State) (a n v : Nat) : (s.poke a n v).accMem = s.accMem := rfl
@[simp] theorem poke_accPoison (s : State) (a n v : Nat) : (s.poke a n v).accPoison = s.accPoison := rfl
@[simp] theorem poke_far (s : State) (a n v : Nat) : (s.poke a n v).far = s.far := rfl
@[simp] theorem poke_farPoison (s : State) (a n v : Nat) : (s.poke a n v).farPoison = s.farPoison := rfl
@[simp] theorem poke_farCount (s : State) (a n v : Nat) : (s.poke a n v).farCount = s.farCount := rfl
@[simp] theorem poke_stale (s : State) (a n v : Nat) : (s.poke a n v).stale = s.stale := rfl
@[simp] theorem poke_rels (s : State) (a n v : Nat) : (s.poke a n v).rels = s.rels := rfl
@[simp] theorem poke_badFrames (s : State) (a n v : Nat) : (s.poke a n v).badFrames = s.badFrames := rfl
@[simp] theorem poke_cores (s : State) (a n v : Nat) : (s.poke a n v).cores = s.cores := rfl
@[simp] theorem poke_entries (s : State) (a n v : Nat) : (s.poke a n v).entries = s.entries := rfl
@[simp] theorem poke_boxes (s : State) (a n v : Nat) : (s.poke a n v).boxes = s.boxes := rfl
@[simp] theorem poke_waits (s : State) (a n v : Nat) : (s.poke a n v).waits = s.waits := rfl
@[simp] theorem poke_slots (s : State) (a n v : Nat) : (s.poke a n v).slots = s.slots := rfl
@[simp] theorem poke_vats (s : State) (a n v : Nat) : (s.poke a n v).vats = s.vats := rfl
@[simp] theorem poke_queues (s : State) (a n v : Nat) : (s.poke a n v).queues = s.queues := rfl
@[simp] theorem poke_sems (s : State) (a n v : Nat) : (s.poke a n v).sems = s.sems := rfl
@[simp] theorem poke_tiles (s : State) (a n v : Nat) : (s.poke a n v).tiles = s.tiles := rfl
@[simp] theorem poke_runs (s : State) (a n v : Nat) : (s.poke a n v).runs = s.runs := rfl
@[simp] theorem poke_arrays (s : State) (a n v : Nat) : (s.poke a n v).arrays = s.arrays := rfl
@[simp] theorem poke_mqs (s : State) (a n v : Nat) : (s.poke a n v).mqs = s.mqs := rfl
@[simp] theorem poke_cmds (s : State) (a n v : Nat) : (s.poke a n v).cmds = s.cmds := rfl
@[simp] theorem poke_cmdSeqs (s : State) (a n v : Nat) : (s.poke a n v).cmdSeqs = s.cmdSeqs := rfl
@[simp] theorem poke_streams (s : State) (a n v : Nat) : (s.poke a n v).streams = s.streams := rfl
@[simp] theorem poke_strmEnds (s : State) (a n v : Nat) : (s.poke a n v).strmEnds = s.strmEnds := rfl
@[simp] theorem poke_tlb (s : State) (a n v : Nat) : (s.poke a n v).tlb = s.tlb := rfl
@[simp] theorem poke_drained (s : State) (a n v : Nat) : (s.poke a n v).drained = s.drained := rfl
@[simp] theorem poke_misses (s : State) (a n v : Nat) : (s.poke a n v).misses = s.misses := rfl
@[simp] theorem poke_atomics (s : State) (a n v : Nat) : (s.poke a n v).atomics = s.atomics := rfl
@[simp] theorem poke_faqs (s : State) (a n v : Nat) : (s.poke a n v).faqs = s.faqs := rfl
@[simp] theorem poke_launches (s : State) (a n v : Nat) : (s.poke a n v).launches = s.launches := rfl
@[simp] theorem poke_rects (s : State) (a n v : Nat) : (s.poke a n v).rects = s.rects := rfl
@[simp] theorem poke_held (s : State) (a n v : Nat) : (s.poke a n v).held = s.held := rfl
@[simp] theorem poke_phases (s : State) (a n v : Nat) : (s.poke a n v).phases = s.phases := rfl
@[simp] theorem poke_images (s : State) (a n v : Nat) : (s.poke a n v).images = s.images := rfl
@[simp] theorem poke_resumes (s : State) (a n v : Nat) : (s.poke a n v).resumes = s.resumes := rfl
@[simp] theorem poke_asides (s : State) (a n v : Nat) : (s.poke a n v).asides = s.asides := rfl
@[simp] theorem poke_matching (s : State) (a n v : Nat) : (s.poke a n v).matching = s.matching := rfl
@[simp] theorem poke_islands (s : State) (a n v : Nat) : (s.poke a n v).islands = s.islands := rfl
@[simp] theorem poke_lanes (s : State) (a n v : Nat) : (s.poke a n v).lanes = s.lanes := rfl
@[simp] theorem poke_spares (s : State) (a n v : Nat) : (s.poke a n v).spares = s.spares := rfl
@[simp] theorem poke_pauses (s : State) (a n v : Nat) : (s.poke a n v).pauses = s.pauses := rfl
@[simp] theorem poke_lsel (s : State) (a n v : Nat) : (s.poke a n v).lsel = s.lsel := rfl
@[simp] theorem poke_lselSet (s : State) (a n v : Nat) : (s.poke a n v).lselSet = s.lselSet := rfl
@[simp] theorem poke_health (s : State) (a n v : Nat) : (s.poke a n v).health = s.health := rfl
@[simp] theorem poke_fabric (s : State) (a n v : Nat) : (s.poke a n v).fabric = s.fabric := rfl
@[simp] theorem poke_host (s : State) (a n v : Nat) : (s.poke a n v).host = s.host := rfl
@[simp] theorem poke_agenda (s : State) (a n v : Nat) : (s.poke a n v).agenda = s.agenda := rfl
@[simp] theorem poke_mirrorLists (s : State) (a n v : Nat) : (s.poke a n v).mirrorLists = s.mirrorLists := rfl
@[simp] theorem poke_moves (s : State) (a n v : Nat) : (s.poke a n v).moves = s.moves := rfl
@[simp] theorem poke_turn (s : State) (a n v : Nat) : (s.poke a n v).turn = s.turn := rfl
@[simp] theorem poke_oids (s : State) (a n v : Nat) : (s.poke a n v).oids = s.oids := rfl
@[simp] theorem poke_cur (s : State) (a n v : Nat) : (s.poke a n v).cur = s.cur := rfl

/-! ### modEntry -/

@[simp] theorem modEntry_mem (s : State) (k : Nat) (f : Entry → Entry) : (s.modEntry k f).mem = s.mem := rfl
@[simp] theorem modEntry_poison (s : State) (k : Nat) (f : Entry → Entry) : (s.modEntry k f).poison = s.poison := rfl
@[simp] theorem modEntry_empty (s : State) (k : Nat) (f : Entry → Entry) : (s.modEntry k f).empty = s.empty := rfl
@[simp] theorem modEntry_dirty (s : State) (k : Nat) (f : Entry → Entry) : (s.modEntry k f).dirty = s.dirty := rfl
@[simp] theorem modEntry_lost (s : State) (k : Nat) (f : Entry → Entry) : (s.modEntry k f).lost = s.lost := rfl
@[simp] theorem modEntry_accMem (s : State) (k : Nat) (f : Entry → Entry) : (s.modEntry k f).accMem = s.accMem := rfl
@[simp] theorem modEntry_accPoison (s : State) (k : Nat) (f : Entry → Entry) : (s.modEntry k f).accPoison = s.accPoison := rfl
@[simp] theorem modEntry_far (s : State) (k : Nat) (f : Entry → Entry) : (s.modEntry k f).far = s.far := rfl
@[simp] theorem modEntry_farPoison (s : State) (k : Nat) (f : Entry → Entry) : (s.modEntry k f).farPoison = s.farPoison := rfl
@[simp] theorem modEntry_farCount (s : State) (k : Nat) (f : Entry → Entry) : (s.modEntry k f).farCount = s.farCount := rfl
@[simp] theorem modEntry_stale (s : State) (k : Nat) (f : Entry → Entry) : (s.modEntry k f).stale = s.stale := rfl
@[simp] theorem modEntry_rels (s : State) (k : Nat) (f : Entry → Entry) : (s.modEntry k f).rels = s.rels := rfl
@[simp] theorem modEntry_badFrames (s : State) (k : Nat) (f : Entry → Entry) : (s.modEntry k f).badFrames = s.badFrames := rfl
@[simp] theorem modEntry_cores (s : State) (k : Nat) (f : Entry → Entry) : (s.modEntry k f).cores = s.cores := rfl
@[simp] theorem modEntry_boxes (s : State) (k : Nat) (f : Entry → Entry) : (s.modEntry k f).boxes = s.boxes := rfl
@[simp] theorem modEntry_waits (s : State) (k : Nat) (f : Entry → Entry) : (s.modEntry k f).waits = s.waits := rfl
@[simp] theorem modEntry_slots (s : State) (k : Nat) (f : Entry → Entry) : (s.modEntry k f).slots = s.slots := rfl
@[simp] theorem modEntry_vats (s : State) (k : Nat) (f : Entry → Entry) : (s.modEntry k f).vats = s.vats := rfl
@[simp] theorem modEntry_queues (s : State) (k : Nat) (f : Entry → Entry) : (s.modEntry k f).queues = s.queues := rfl
@[simp] theorem modEntry_sems (s : State) (k : Nat) (f : Entry → Entry) : (s.modEntry k f).sems = s.sems := rfl
@[simp] theorem modEntry_tiles (s : State) (k : Nat) (f : Entry → Entry) : (s.modEntry k f).tiles = s.tiles := rfl
@[simp] theorem modEntry_runs (s : State) (k : Nat) (f : Entry → Entry) : (s.modEntry k f).runs = s.runs := rfl
@[simp] theorem modEntry_arrays (s : State) (k : Nat) (f : Entry → Entry) : (s.modEntry k f).arrays = s.arrays := rfl
@[simp] theorem modEntry_mqs (s : State) (k : Nat) (f : Entry → Entry) : (s.modEntry k f).mqs = s.mqs := rfl
@[simp] theorem modEntry_cmds (s : State) (k : Nat) (f : Entry → Entry) : (s.modEntry k f).cmds = s.cmds := rfl
@[simp] theorem modEntry_cmdSeqs (s : State) (k : Nat) (f : Entry → Entry) : (s.modEntry k f).cmdSeqs = s.cmdSeqs := rfl
@[simp] theorem modEntry_streams (s : State) (k : Nat) (f : Entry → Entry) : (s.modEntry k f).streams = s.streams := rfl
@[simp] theorem modEntry_strmEnds (s : State) (k : Nat) (f : Entry → Entry) : (s.modEntry k f).strmEnds = s.strmEnds := rfl
@[simp] theorem modEntry_tlb (s : State) (k : Nat) (f : Entry → Entry) : (s.modEntry k f).tlb = s.tlb := rfl
@[simp] theorem modEntry_drained (s : State) (k : Nat) (f : Entry → Entry) : (s.modEntry k f).drained = s.drained := rfl
@[simp] theorem modEntry_misses (s : State) (k : Nat) (f : Entry → Entry) : (s.modEntry k f).misses = s.misses := rfl
@[simp] theorem modEntry_atomics (s : State) (k : Nat) (f : Entry → Entry) : (s.modEntry k f).atomics = s.atomics := rfl
@[simp] theorem modEntry_faqs (s : State) (k : Nat) (f : Entry → Entry) : (s.modEntry k f).faqs = s.faqs := rfl
@[simp] theorem modEntry_launches (s : State) (k : Nat) (f : Entry → Entry) : (s.modEntry k f).launches = s.launches := rfl
@[simp] theorem modEntry_rects (s : State) (k : Nat) (f : Entry → Entry) : (s.modEntry k f).rects = s.rects := rfl
@[simp] theorem modEntry_held (s : State) (k : Nat) (f : Entry → Entry) : (s.modEntry k f).held = s.held := rfl
@[simp] theorem modEntry_phases (s : State) (k : Nat) (f : Entry → Entry) : (s.modEntry k f).phases = s.phases := rfl
@[simp] theorem modEntry_images (s : State) (k : Nat) (f : Entry → Entry) : (s.modEntry k f).images = s.images := rfl
@[simp] theorem modEntry_resumes (s : State) (k : Nat) (f : Entry → Entry) : (s.modEntry k f).resumes = s.resumes := rfl
@[simp] theorem modEntry_asides (s : State) (k : Nat) (f : Entry → Entry) : (s.modEntry k f).asides = s.asides := rfl
@[simp] theorem modEntry_matching (s : State) (k : Nat) (f : Entry → Entry) : (s.modEntry k f).matching = s.matching := rfl
@[simp] theorem modEntry_islands (s : State) (k : Nat) (f : Entry → Entry) : (s.modEntry k f).islands = s.islands := rfl
@[simp] theorem modEntry_lanes (s : State) (k : Nat) (f : Entry → Entry) : (s.modEntry k f).lanes = s.lanes := rfl
@[simp] theorem modEntry_spares (s : State) (k : Nat) (f : Entry → Entry) : (s.modEntry k f).spares = s.spares := rfl
@[simp] theorem modEntry_pauses (s : State) (k : Nat) (f : Entry → Entry) : (s.modEntry k f).pauses = s.pauses := rfl
@[simp] theorem modEntry_lsel (s : State) (k : Nat) (f : Entry → Entry) : (s.modEntry k f).lsel = s.lsel := rfl
@[simp] theorem modEntry_lselSet (s : State) (k : Nat) (f : Entry → Entry) : (s.modEntry k f).lselSet = s.lselSet := rfl
@[simp] theorem modEntry_health (s : State) (k : Nat) (f : Entry → Entry) : (s.modEntry k f).health = s.health := rfl
@[simp] theorem modEntry_fabric (s : State) (k : Nat) (f : Entry → Entry) : (s.modEntry k f).fabric = s.fabric := rfl
@[simp] theorem modEntry_host (s : State) (k : Nat) (f : Entry → Entry) : (s.modEntry k f).host = s.host := rfl
@[simp] theorem modEntry_agenda (s : State) (k : Nat) (f : Entry → Entry) : (s.modEntry k f).agenda = s.agenda := rfl
@[simp] theorem modEntry_mirrorLists (s : State) (k : Nat) (f : Entry → Entry) : (s.modEntry k f).mirrorLists = s.mirrorLists := rfl
@[simp] theorem modEntry_moves (s : State) (k : Nat) (f : Entry → Entry) : (s.modEntry k f).moves = s.moves := rfl
@[simp] theorem modEntry_turn (s : State) (k : Nat) (f : Entry → Entry) : (s.modEntry k f).turn = s.turn := rfl
@[simp] theorem modEntry_oids (s : State) (k : Nat) (f : Entry → Entry) : (s.modEntry k f).oids = s.oids := rfl
@[simp] theorem modEntry_cur (s : State) (k : Nat) (f : Entry → Entry) : (s.modEntry k f).cur = s.cur := rfl

/-! ### modCore -/

@[simp] theorem modCore_mem (s : State) (k : Nat) (f : Core → Core) : (s.modCore k f).mem = s.mem := rfl
@[simp] theorem modCore_poison (s : State) (k : Nat) (f : Core → Core) : (s.modCore k f).poison = s.poison := rfl
@[simp] theorem modCore_empty (s : State) (k : Nat) (f : Core → Core) : (s.modCore k f).empty = s.empty := rfl
@[simp] theorem modCore_dirty (s : State) (k : Nat) (f : Core → Core) : (s.modCore k f).dirty = s.dirty := rfl
@[simp] theorem modCore_lost (s : State) (k : Nat) (f : Core → Core) : (s.modCore k f).lost = s.lost := rfl
@[simp] theorem modCore_accMem (s : State) (k : Nat) (f : Core → Core) : (s.modCore k f).accMem = s.accMem := rfl
@[simp] theorem modCore_accPoison (s : State) (k : Nat) (f : Core → Core) : (s.modCore k f).accPoison = s.accPoison := rfl
@[simp] theorem modCore_far (s : State) (k : Nat) (f : Core → Core) : (s.modCore k f).far = s.far := rfl
@[simp] theorem modCore_farPoison (s : State) (k : Nat) (f : Core → Core) : (s.modCore k f).farPoison = s.farPoison := rfl
@[simp] theorem modCore_farCount (s : State) (k : Nat) (f : Core → Core) : (s.modCore k f).farCount = s.farCount := rfl
@[simp] theorem modCore_stale (s : State) (k : Nat) (f : Core → Core) : (s.modCore k f).stale = s.stale := rfl
@[simp] theorem modCore_rels (s : State) (k : Nat) (f : Core → Core) : (s.modCore k f).rels = s.rels := rfl
@[simp] theorem modCore_badFrames (s : State) (k : Nat) (f : Core → Core) : (s.modCore k f).badFrames = s.badFrames := rfl
@[simp] theorem modCore_entries (s : State) (k : Nat) (f : Core → Core) : (s.modCore k f).entries = s.entries := rfl
@[simp] theorem modCore_boxes (s : State) (k : Nat) (f : Core → Core) : (s.modCore k f).boxes = s.boxes := rfl
@[simp] theorem modCore_waits (s : State) (k : Nat) (f : Core → Core) : (s.modCore k f).waits = s.waits := rfl
@[simp] theorem modCore_slots (s : State) (k : Nat) (f : Core → Core) : (s.modCore k f).slots = s.slots := rfl
@[simp] theorem modCore_vats (s : State) (k : Nat) (f : Core → Core) : (s.modCore k f).vats = s.vats := rfl
@[simp] theorem modCore_queues (s : State) (k : Nat) (f : Core → Core) : (s.modCore k f).queues = s.queues := rfl
@[simp] theorem modCore_sems (s : State) (k : Nat) (f : Core → Core) : (s.modCore k f).sems = s.sems := rfl
@[simp] theorem modCore_tiles (s : State) (k : Nat) (f : Core → Core) : (s.modCore k f).tiles = s.tiles := rfl
@[simp] theorem modCore_runs (s : State) (k : Nat) (f : Core → Core) : (s.modCore k f).runs = s.runs := rfl
@[simp] theorem modCore_arrays (s : State) (k : Nat) (f : Core → Core) : (s.modCore k f).arrays = s.arrays := rfl
@[simp] theorem modCore_mqs (s : State) (k : Nat) (f : Core → Core) : (s.modCore k f).mqs = s.mqs := rfl
@[simp] theorem modCore_cmds (s : State) (k : Nat) (f : Core → Core) : (s.modCore k f).cmds = s.cmds := rfl
@[simp] theorem modCore_cmdSeqs (s : State) (k : Nat) (f : Core → Core) : (s.modCore k f).cmdSeqs = s.cmdSeqs := rfl
@[simp] theorem modCore_streams (s : State) (k : Nat) (f : Core → Core) : (s.modCore k f).streams = s.streams := rfl
@[simp] theorem modCore_strmEnds (s : State) (k : Nat) (f : Core → Core) : (s.modCore k f).strmEnds = s.strmEnds := rfl
@[simp] theorem modCore_tlb (s : State) (k : Nat) (f : Core → Core) : (s.modCore k f).tlb = s.tlb := rfl
@[simp] theorem modCore_drained (s : State) (k : Nat) (f : Core → Core) : (s.modCore k f).drained = s.drained := rfl
@[simp] theorem modCore_misses (s : State) (k : Nat) (f : Core → Core) : (s.modCore k f).misses = s.misses := rfl
@[simp] theorem modCore_atomics (s : State) (k : Nat) (f : Core → Core) : (s.modCore k f).atomics = s.atomics := rfl
@[simp] theorem modCore_faqs (s : State) (k : Nat) (f : Core → Core) : (s.modCore k f).faqs = s.faqs := rfl
@[simp] theorem modCore_launches (s : State) (k : Nat) (f : Core → Core) : (s.modCore k f).launches = s.launches := rfl
@[simp] theorem modCore_rects (s : State) (k : Nat) (f : Core → Core) : (s.modCore k f).rects = s.rects := rfl
@[simp] theorem modCore_held (s : State) (k : Nat) (f : Core → Core) : (s.modCore k f).held = s.held := rfl
@[simp] theorem modCore_phases (s : State) (k : Nat) (f : Core → Core) : (s.modCore k f).phases = s.phases := rfl
@[simp] theorem modCore_images (s : State) (k : Nat) (f : Core → Core) : (s.modCore k f).images = s.images := rfl
@[simp] theorem modCore_resumes (s : State) (k : Nat) (f : Core → Core) : (s.modCore k f).resumes = s.resumes := rfl
@[simp] theorem modCore_asides (s : State) (k : Nat) (f : Core → Core) : (s.modCore k f).asides = s.asides := rfl
@[simp] theorem modCore_matching (s : State) (k : Nat) (f : Core → Core) : (s.modCore k f).matching = s.matching := rfl
@[simp] theorem modCore_islands (s : State) (k : Nat) (f : Core → Core) : (s.modCore k f).islands = s.islands := rfl
@[simp] theorem modCore_lanes (s : State) (k : Nat) (f : Core → Core) : (s.modCore k f).lanes = s.lanes := rfl
@[simp] theorem modCore_spares (s : State) (k : Nat) (f : Core → Core) : (s.modCore k f).spares = s.spares := rfl
@[simp] theorem modCore_pauses (s : State) (k : Nat) (f : Core → Core) : (s.modCore k f).pauses = s.pauses := rfl
@[simp] theorem modCore_lsel (s : State) (k : Nat) (f : Core → Core) : (s.modCore k f).lsel = s.lsel := rfl
@[simp] theorem modCore_lselSet (s : State) (k : Nat) (f : Core → Core) : (s.modCore k f).lselSet = s.lselSet := rfl
@[simp] theorem modCore_health (s : State) (k : Nat) (f : Core → Core) : (s.modCore k f).health = s.health := rfl
@[simp] theorem modCore_fabric (s : State) (k : Nat) (f : Core → Core) : (s.modCore k f).fabric = s.fabric := rfl
@[simp] theorem modCore_host (s : State) (k : Nat) (f : Core → Core) : (s.modCore k f).host = s.host := rfl
@[simp] theorem modCore_agenda (s : State) (k : Nat) (f : Core → Core) : (s.modCore k f).agenda = s.agenda := rfl
@[simp] theorem modCore_mirrorLists (s : State) (k : Nat) (f : Core → Core) : (s.modCore k f).mirrorLists = s.mirrorLists := rfl
@[simp] theorem modCore_moves (s : State) (k : Nat) (f : Core → Core) : (s.modCore k f).moves = s.moves := rfl
@[simp] theorem modCore_turn (s : State) (k : Nat) (f : Core → Core) : (s.modCore k f).turn = s.turn := rfl
@[simp] theorem modCore_oids (s : State) (k : Nat) (f : Core → Core) : (s.modCore k f).oids = s.oids := rfl
@[simp] theorem modCore_cur (s : State) (k : Nat) (f : Core → Core) : (s.modCore k f).cur = s.cur := rfl

/-! ### modVat -/

@[simp] theorem modVat_mem (s : State) (k : Nat) (f : Vat → Vat) : (s.modVat k f).mem = s.mem := rfl
@[simp] theorem modVat_poison (s : State) (k : Nat) (f : Vat → Vat) : (s.modVat k f).poison = s.poison := rfl
@[simp] theorem modVat_empty (s : State) (k : Nat) (f : Vat → Vat) : (s.modVat k f).empty = s.empty := rfl
@[simp] theorem modVat_dirty (s : State) (k : Nat) (f : Vat → Vat) : (s.modVat k f).dirty = s.dirty := rfl
@[simp] theorem modVat_lost (s : State) (k : Nat) (f : Vat → Vat) : (s.modVat k f).lost = s.lost := rfl
@[simp] theorem modVat_accMem (s : State) (k : Nat) (f : Vat → Vat) : (s.modVat k f).accMem = s.accMem := rfl
@[simp] theorem modVat_accPoison (s : State) (k : Nat) (f : Vat → Vat) : (s.modVat k f).accPoison = s.accPoison := rfl
@[simp] theorem modVat_far (s : State) (k : Nat) (f : Vat → Vat) : (s.modVat k f).far = s.far := rfl
@[simp] theorem modVat_farPoison (s : State) (k : Nat) (f : Vat → Vat) : (s.modVat k f).farPoison = s.farPoison := rfl
@[simp] theorem modVat_farCount (s : State) (k : Nat) (f : Vat → Vat) : (s.modVat k f).farCount = s.farCount := rfl
@[simp] theorem modVat_stale (s : State) (k : Nat) (f : Vat → Vat) : (s.modVat k f).stale = s.stale := rfl
@[simp] theorem modVat_rels (s : State) (k : Nat) (f : Vat → Vat) : (s.modVat k f).rels = s.rels := rfl
@[simp] theorem modVat_badFrames (s : State) (k : Nat) (f : Vat → Vat) : (s.modVat k f).badFrames = s.badFrames := rfl
@[simp] theorem modVat_cores (s : State) (k : Nat) (f : Vat → Vat) : (s.modVat k f).cores = s.cores := rfl
@[simp] theorem modVat_entries (s : State) (k : Nat) (f : Vat → Vat) : (s.modVat k f).entries = s.entries := rfl
@[simp] theorem modVat_boxes (s : State) (k : Nat) (f : Vat → Vat) : (s.modVat k f).boxes = s.boxes := rfl
@[simp] theorem modVat_waits (s : State) (k : Nat) (f : Vat → Vat) : (s.modVat k f).waits = s.waits := rfl
@[simp] theorem modVat_slots (s : State) (k : Nat) (f : Vat → Vat) : (s.modVat k f).slots = s.slots := rfl
@[simp] theorem modVat_queues (s : State) (k : Nat) (f : Vat → Vat) : (s.modVat k f).queues = s.queues := rfl
@[simp] theorem modVat_sems (s : State) (k : Nat) (f : Vat → Vat) : (s.modVat k f).sems = s.sems := rfl
@[simp] theorem modVat_tiles (s : State) (k : Nat) (f : Vat → Vat) : (s.modVat k f).tiles = s.tiles := rfl
@[simp] theorem modVat_runs (s : State) (k : Nat) (f : Vat → Vat) : (s.modVat k f).runs = s.runs := rfl
@[simp] theorem modVat_arrays (s : State) (k : Nat) (f : Vat → Vat) : (s.modVat k f).arrays = s.arrays := rfl
@[simp] theorem modVat_mqs (s : State) (k : Nat) (f : Vat → Vat) : (s.modVat k f).mqs = s.mqs := rfl
@[simp] theorem modVat_cmds (s : State) (k : Nat) (f : Vat → Vat) : (s.modVat k f).cmds = s.cmds := rfl
@[simp] theorem modVat_cmdSeqs (s : State) (k : Nat) (f : Vat → Vat) : (s.modVat k f).cmdSeqs = s.cmdSeqs := rfl
@[simp] theorem modVat_streams (s : State) (k : Nat) (f : Vat → Vat) : (s.modVat k f).streams = s.streams := rfl
@[simp] theorem modVat_strmEnds (s : State) (k : Nat) (f : Vat → Vat) : (s.modVat k f).strmEnds = s.strmEnds := rfl
@[simp] theorem modVat_tlb (s : State) (k : Nat) (f : Vat → Vat) : (s.modVat k f).tlb = s.tlb := rfl
@[simp] theorem modVat_drained (s : State) (k : Nat) (f : Vat → Vat) : (s.modVat k f).drained = s.drained := rfl
@[simp] theorem modVat_misses (s : State) (k : Nat) (f : Vat → Vat) : (s.modVat k f).misses = s.misses := rfl
@[simp] theorem modVat_atomics (s : State) (k : Nat) (f : Vat → Vat) : (s.modVat k f).atomics = s.atomics := rfl
@[simp] theorem modVat_faqs (s : State) (k : Nat) (f : Vat → Vat) : (s.modVat k f).faqs = s.faqs := rfl
@[simp] theorem modVat_launches (s : State) (k : Nat) (f : Vat → Vat) : (s.modVat k f).launches = s.launches := rfl
@[simp] theorem modVat_rects (s : State) (k : Nat) (f : Vat → Vat) : (s.modVat k f).rects = s.rects := rfl
@[simp] theorem modVat_held (s : State) (k : Nat) (f : Vat → Vat) : (s.modVat k f).held = s.held := rfl
@[simp] theorem modVat_phases (s : State) (k : Nat) (f : Vat → Vat) : (s.modVat k f).phases = s.phases := rfl
@[simp] theorem modVat_images (s : State) (k : Nat) (f : Vat → Vat) : (s.modVat k f).images = s.images := rfl
@[simp] theorem modVat_resumes (s : State) (k : Nat) (f : Vat → Vat) : (s.modVat k f).resumes = s.resumes := rfl
@[simp] theorem modVat_asides (s : State) (k : Nat) (f : Vat → Vat) : (s.modVat k f).asides = s.asides := rfl
@[simp] theorem modVat_matching (s : State) (k : Nat) (f : Vat → Vat) : (s.modVat k f).matching = s.matching := rfl
@[simp] theorem modVat_islands (s : State) (k : Nat) (f : Vat → Vat) : (s.modVat k f).islands = s.islands := rfl
@[simp] theorem modVat_lanes (s : State) (k : Nat) (f : Vat → Vat) : (s.modVat k f).lanes = s.lanes := rfl
@[simp] theorem modVat_spares (s : State) (k : Nat) (f : Vat → Vat) : (s.modVat k f).spares = s.spares := rfl
@[simp] theorem modVat_pauses (s : State) (k : Nat) (f : Vat → Vat) : (s.modVat k f).pauses = s.pauses := rfl
@[simp] theorem modVat_lsel (s : State) (k : Nat) (f : Vat → Vat) : (s.modVat k f).lsel = s.lsel := rfl
@[simp] theorem modVat_lselSet (s : State) (k : Nat) (f : Vat → Vat) : (s.modVat k f).lselSet = s.lselSet := rfl
@[simp] theorem modVat_health (s : State) (k : Nat) (f : Vat → Vat) : (s.modVat k f).health = s.health := rfl
@[simp] theorem modVat_fabric (s : State) (k : Nat) (f : Vat → Vat) : (s.modVat k f).fabric = s.fabric := rfl
@[simp] theorem modVat_host (s : State) (k : Nat) (f : Vat → Vat) : (s.modVat k f).host = s.host := rfl
@[simp] theorem modVat_agenda (s : State) (k : Nat) (f : Vat → Vat) : (s.modVat k f).agenda = s.agenda := rfl
@[simp] theorem modVat_mirrorLists (s : State) (k : Nat) (f : Vat → Vat) : (s.modVat k f).mirrorLists = s.mirrorLists := rfl
@[simp] theorem modVat_moves (s : State) (k : Nat) (f : Vat → Vat) : (s.modVat k f).moves = s.moves := rfl
@[simp] theorem modVat_turn (s : State) (k : Nat) (f : Vat → Vat) : (s.modVat k f).turn = s.turn := rfl
@[simp] theorem modVat_oids (s : State) (k : Nat) (f : Vat → Vat) : (s.modVat k f).oids = s.oids := rfl
@[simp] theorem modVat_cur (s : State) (k : Nat) (f : Vat → Vat) : (s.modVat k f).cur = s.cur := rfl

/-! ### setBox -/

@[simp] theorem setBox_mem (s : State) (k c : Nat) (b : List BoxWord) : (s.setBox k c b).mem = s.mem := rfl
@[simp] theorem setBox_poison (s : State) (k c : Nat) (b : List BoxWord) : (s.setBox k c b).poison = s.poison := rfl
@[simp] theorem setBox_empty (s : State) (k c : Nat) (b : List BoxWord) : (s.setBox k c b).empty = s.empty := rfl
@[simp] theorem setBox_dirty (s : State) (k c : Nat) (b : List BoxWord) : (s.setBox k c b).dirty = s.dirty := rfl
@[simp] theorem setBox_lost (s : State) (k c : Nat) (b : List BoxWord) : (s.setBox k c b).lost = s.lost := rfl
@[simp] theorem setBox_accMem (s : State) (k c : Nat) (b : List BoxWord) : (s.setBox k c b).accMem = s.accMem := rfl
@[simp] theorem setBox_accPoison (s : State) (k c : Nat) (b : List BoxWord) : (s.setBox k c b).accPoison = s.accPoison := rfl
@[simp] theorem setBox_far (s : State) (k c : Nat) (b : List BoxWord) : (s.setBox k c b).far = s.far := rfl
@[simp] theorem setBox_farPoison (s : State) (k c : Nat) (b : List BoxWord) : (s.setBox k c b).farPoison = s.farPoison := rfl
@[simp] theorem setBox_farCount (s : State) (k c : Nat) (b : List BoxWord) : (s.setBox k c b).farCount = s.farCount := rfl
@[simp] theorem setBox_stale (s : State) (k c : Nat) (b : List BoxWord) : (s.setBox k c b).stale = s.stale := rfl
@[simp] theorem setBox_rels (s : State) (k c : Nat) (b : List BoxWord) : (s.setBox k c b).rels = s.rels := rfl
@[simp] theorem setBox_badFrames (s : State) (k c : Nat) (b : List BoxWord) : (s.setBox k c b).badFrames = s.badFrames := rfl
@[simp] theorem setBox_cores (s : State) (k c : Nat) (b : List BoxWord) : (s.setBox k c b).cores = s.cores := rfl
@[simp] theorem setBox_entries (s : State) (k c : Nat) (b : List BoxWord) : (s.setBox k c b).entries = s.entries := rfl
@[simp] theorem setBox_waits (s : State) (k c : Nat) (b : List BoxWord) : (s.setBox k c b).waits = s.waits := rfl
@[simp] theorem setBox_slots (s : State) (k c : Nat) (b : List BoxWord) : (s.setBox k c b).slots = s.slots := rfl
@[simp] theorem setBox_vats (s : State) (k c : Nat) (b : List BoxWord) : (s.setBox k c b).vats = s.vats := rfl
@[simp] theorem setBox_queues (s : State) (k c : Nat) (b : List BoxWord) : (s.setBox k c b).queues = s.queues := rfl
@[simp] theorem setBox_sems (s : State) (k c : Nat) (b : List BoxWord) : (s.setBox k c b).sems = s.sems := rfl
@[simp] theorem setBox_tiles (s : State) (k c : Nat) (b : List BoxWord) : (s.setBox k c b).tiles = s.tiles := rfl
@[simp] theorem setBox_runs (s : State) (k c : Nat) (b : List BoxWord) : (s.setBox k c b).runs = s.runs := rfl
@[simp] theorem setBox_arrays (s : State) (k c : Nat) (b : List BoxWord) : (s.setBox k c b).arrays = s.arrays := rfl
@[simp] theorem setBox_mqs (s : State) (k c : Nat) (b : List BoxWord) : (s.setBox k c b).mqs = s.mqs := rfl
@[simp] theorem setBox_cmds (s : State) (k c : Nat) (b : List BoxWord) : (s.setBox k c b).cmds = s.cmds := rfl
@[simp] theorem setBox_cmdSeqs (s : State) (k c : Nat) (b : List BoxWord) : (s.setBox k c b).cmdSeqs = s.cmdSeqs := rfl
@[simp] theorem setBox_streams (s : State) (k c : Nat) (b : List BoxWord) : (s.setBox k c b).streams = s.streams := rfl
@[simp] theorem setBox_strmEnds (s : State) (k c : Nat) (b : List BoxWord) : (s.setBox k c b).strmEnds = s.strmEnds := rfl
@[simp] theorem setBox_tlb (s : State) (k c : Nat) (b : List BoxWord) : (s.setBox k c b).tlb = s.tlb := rfl
@[simp] theorem setBox_drained (s : State) (k c : Nat) (b : List BoxWord) : (s.setBox k c b).drained = s.drained := rfl
@[simp] theorem setBox_misses (s : State) (k c : Nat) (b : List BoxWord) : (s.setBox k c b).misses = s.misses := rfl
@[simp] theorem setBox_atomics (s : State) (k c : Nat) (b : List BoxWord) : (s.setBox k c b).atomics = s.atomics := rfl
@[simp] theorem setBox_faqs (s : State) (k c : Nat) (b : List BoxWord) : (s.setBox k c b).faqs = s.faqs := rfl
@[simp] theorem setBox_launches (s : State) (k c : Nat) (b : List BoxWord) : (s.setBox k c b).launches = s.launches := rfl
@[simp] theorem setBox_rects (s : State) (k c : Nat) (b : List BoxWord) : (s.setBox k c b).rects = s.rects := rfl
@[simp] theorem setBox_held (s : State) (k c : Nat) (b : List BoxWord) : (s.setBox k c b).held = s.held := rfl
@[simp] theorem setBox_phases (s : State) (k c : Nat) (b : List BoxWord) : (s.setBox k c b).phases = s.phases := rfl
@[simp] theorem setBox_images (s : State) (k c : Nat) (b : List BoxWord) : (s.setBox k c b).images = s.images := rfl
@[simp] theorem setBox_resumes (s : State) (k c : Nat) (b : List BoxWord) : (s.setBox k c b).resumes = s.resumes := rfl
@[simp] theorem setBox_asides (s : State) (k c : Nat) (b : List BoxWord) : (s.setBox k c b).asides = s.asides := rfl
@[simp] theorem setBox_matching (s : State) (k c : Nat) (b : List BoxWord) : (s.setBox k c b).matching = s.matching := rfl
@[simp] theorem setBox_islands (s : State) (k c : Nat) (b : List BoxWord) : (s.setBox k c b).islands = s.islands := rfl
@[simp] theorem setBox_lanes (s : State) (k c : Nat) (b : List BoxWord) : (s.setBox k c b).lanes = s.lanes := rfl
@[simp] theorem setBox_spares (s : State) (k c : Nat) (b : List BoxWord) : (s.setBox k c b).spares = s.spares := rfl
@[simp] theorem setBox_pauses (s : State) (k c : Nat) (b : List BoxWord) : (s.setBox k c b).pauses = s.pauses := rfl
@[simp] theorem setBox_lsel (s : State) (k c : Nat) (b : List BoxWord) : (s.setBox k c b).lsel = s.lsel := rfl
@[simp] theorem setBox_lselSet (s : State) (k c : Nat) (b : List BoxWord) : (s.setBox k c b).lselSet = s.lselSet := rfl
@[simp] theorem setBox_health (s : State) (k c : Nat) (b : List BoxWord) : (s.setBox k c b).health = s.health := rfl
@[simp] theorem setBox_fabric (s : State) (k c : Nat) (b : List BoxWord) : (s.setBox k c b).fabric = s.fabric := rfl
@[simp] theorem setBox_host (s : State) (k c : Nat) (b : List BoxWord) : (s.setBox k c b).host = s.host := rfl
@[simp] theorem setBox_agenda (s : State) (k c : Nat) (b : List BoxWord) : (s.setBox k c b).agenda = s.agenda := rfl
@[simp] theorem setBox_mirrorLists (s : State) (k c : Nat) (b : List BoxWord) : (s.setBox k c b).mirrorLists = s.mirrorLists := rfl
@[simp] theorem setBox_moves (s : State) (k c : Nat) (b : List BoxWord) : (s.setBox k c b).moves = s.moves := rfl
@[simp] theorem setBox_turn (s : State) (k c : Nat) (b : List BoxWord) : (s.setBox k c b).turn = s.turn := rfl
@[simp] theorem setBox_oids (s : State) (k c : Nat) (b : List BoxWord) : (s.setBox k c b).oids = s.oids := rfl
@[simp] theorem setBox_cur (s : State) (k c : Nat) (b : List BoxWord) : (s.setBox k c b).cur = s.cur := rfl

/-! ### setWaiting -/

@[simp] theorem setWaiting_mem (s : State) (k c : Nat) (b : List WaitItem) : (s.setWaiting k c b).mem = s.mem := rfl
@[simp] theorem setWaiting_poison (s : State) (k c : Nat) (b : List WaitItem) : (s.setWaiting k c b).poison = s.poison := rfl
@[simp] theorem setWaiting_empty (s : State) (k c : Nat) (b : List WaitItem) : (s.setWaiting k c b).empty = s.empty := rfl
@[simp] theorem setWaiting_dirty (s : State) (k c : Nat) (b : List WaitItem) : (s.setWaiting k c b).dirty = s.dirty := rfl
@[simp] theorem setWaiting_lost (s : State) (k c : Nat) (b : List WaitItem) : (s.setWaiting k c b).lost = s.lost := rfl
@[simp] theorem setWaiting_accMem (s : State) (k c : Nat) (b : List WaitItem) : (s.setWaiting k c b).accMem = s.accMem := rfl
@[simp] theorem setWaiting_accPoison (s : State) (k c : Nat) (b : List WaitItem) : (s.setWaiting k c b).accPoison = s.accPoison := rfl
@[simp] theorem setWaiting_far (s : State) (k c : Nat) (b : List WaitItem) : (s.setWaiting k c b).far = s.far := rfl
@[simp] theorem setWaiting_farPoison (s : State) (k c : Nat) (b : List WaitItem) : (s.setWaiting k c b).farPoison = s.farPoison := rfl
@[simp] theorem setWaiting_farCount (s : State) (k c : Nat) (b : List WaitItem) : (s.setWaiting k c b).farCount = s.farCount := rfl
@[simp] theorem setWaiting_stale (s : State) (k c : Nat) (b : List WaitItem) : (s.setWaiting k c b).stale = s.stale := rfl
@[simp] theorem setWaiting_rels (s : State) (k c : Nat) (b : List WaitItem) : (s.setWaiting k c b).rels = s.rels := rfl
@[simp] theorem setWaiting_badFrames (s : State) (k c : Nat) (b : List WaitItem) : (s.setWaiting k c b).badFrames = s.badFrames := rfl
@[simp] theorem setWaiting_cores (s : State) (k c : Nat) (b : List WaitItem) : (s.setWaiting k c b).cores = s.cores := rfl
@[simp] theorem setWaiting_entries (s : State) (k c : Nat) (b : List WaitItem) : (s.setWaiting k c b).entries = s.entries := rfl
@[simp] theorem setWaiting_boxes (s : State) (k c : Nat) (b : List WaitItem) : (s.setWaiting k c b).boxes = s.boxes := rfl
@[simp] theorem setWaiting_slots (s : State) (k c : Nat) (b : List WaitItem) : (s.setWaiting k c b).slots = s.slots := rfl
@[simp] theorem setWaiting_vats (s : State) (k c : Nat) (b : List WaitItem) : (s.setWaiting k c b).vats = s.vats := rfl
@[simp] theorem setWaiting_queues (s : State) (k c : Nat) (b : List WaitItem) : (s.setWaiting k c b).queues = s.queues := rfl
@[simp] theorem setWaiting_sems (s : State) (k c : Nat) (b : List WaitItem) : (s.setWaiting k c b).sems = s.sems := rfl
@[simp] theorem setWaiting_tiles (s : State) (k c : Nat) (b : List WaitItem) : (s.setWaiting k c b).tiles = s.tiles := rfl
@[simp] theorem setWaiting_runs (s : State) (k c : Nat) (b : List WaitItem) : (s.setWaiting k c b).runs = s.runs := rfl
@[simp] theorem setWaiting_arrays (s : State) (k c : Nat) (b : List WaitItem) : (s.setWaiting k c b).arrays = s.arrays := rfl
@[simp] theorem setWaiting_mqs (s : State) (k c : Nat) (b : List WaitItem) : (s.setWaiting k c b).mqs = s.mqs := rfl
@[simp] theorem setWaiting_cmds (s : State) (k c : Nat) (b : List WaitItem) : (s.setWaiting k c b).cmds = s.cmds := rfl
@[simp] theorem setWaiting_cmdSeqs (s : State) (k c : Nat) (b : List WaitItem) : (s.setWaiting k c b).cmdSeqs = s.cmdSeqs := rfl
@[simp] theorem setWaiting_streams (s : State) (k c : Nat) (b : List WaitItem) : (s.setWaiting k c b).streams = s.streams := rfl
@[simp] theorem setWaiting_strmEnds (s : State) (k c : Nat) (b : List WaitItem) : (s.setWaiting k c b).strmEnds = s.strmEnds := rfl
@[simp] theorem setWaiting_tlb (s : State) (k c : Nat) (b : List WaitItem) : (s.setWaiting k c b).tlb = s.tlb := rfl
@[simp] theorem setWaiting_drained (s : State) (k c : Nat) (b : List WaitItem) : (s.setWaiting k c b).drained = s.drained := rfl
@[simp] theorem setWaiting_misses (s : State) (k c : Nat) (b : List WaitItem) : (s.setWaiting k c b).misses = s.misses := rfl
@[simp] theorem setWaiting_atomics (s : State) (k c : Nat) (b : List WaitItem) : (s.setWaiting k c b).atomics = s.atomics := rfl
@[simp] theorem setWaiting_faqs (s : State) (k c : Nat) (b : List WaitItem) : (s.setWaiting k c b).faqs = s.faqs := rfl
@[simp] theorem setWaiting_launches (s : State) (k c : Nat) (b : List WaitItem) : (s.setWaiting k c b).launches = s.launches := rfl
@[simp] theorem setWaiting_rects (s : State) (k c : Nat) (b : List WaitItem) : (s.setWaiting k c b).rects = s.rects := rfl
@[simp] theorem setWaiting_held (s : State) (k c : Nat) (b : List WaitItem) : (s.setWaiting k c b).held = s.held := rfl
@[simp] theorem setWaiting_phases (s : State) (k c : Nat) (b : List WaitItem) : (s.setWaiting k c b).phases = s.phases := rfl
@[simp] theorem setWaiting_images (s : State) (k c : Nat) (b : List WaitItem) : (s.setWaiting k c b).images = s.images := rfl
@[simp] theorem setWaiting_resumes (s : State) (k c : Nat) (b : List WaitItem) : (s.setWaiting k c b).resumes = s.resumes := rfl
@[simp] theorem setWaiting_asides (s : State) (k c : Nat) (b : List WaitItem) : (s.setWaiting k c b).asides = s.asides := rfl
@[simp] theorem setWaiting_matching (s : State) (k c : Nat) (b : List WaitItem) : (s.setWaiting k c b).matching = s.matching := rfl
@[simp] theorem setWaiting_islands (s : State) (k c : Nat) (b : List WaitItem) : (s.setWaiting k c b).islands = s.islands := rfl
@[simp] theorem setWaiting_lanes (s : State) (k c : Nat) (b : List WaitItem) : (s.setWaiting k c b).lanes = s.lanes := rfl
@[simp] theorem setWaiting_spares (s : State) (k c : Nat) (b : List WaitItem) : (s.setWaiting k c b).spares = s.spares := rfl
@[simp] theorem setWaiting_pauses (s : State) (k c : Nat) (b : List WaitItem) : (s.setWaiting k c b).pauses = s.pauses := rfl
@[simp] theorem setWaiting_lsel (s : State) (k c : Nat) (b : List WaitItem) : (s.setWaiting k c b).lsel = s.lsel := rfl
@[simp] theorem setWaiting_lselSet (s : State) (k c : Nat) (b : List WaitItem) : (s.setWaiting k c b).lselSet = s.lselSet := rfl
@[simp] theorem setWaiting_health (s : State) (k c : Nat) (b : List WaitItem) : (s.setWaiting k c b).health = s.health := rfl
@[simp] theorem setWaiting_fabric (s : State) (k c : Nat) (b : List WaitItem) : (s.setWaiting k c b).fabric = s.fabric := rfl
@[simp] theorem setWaiting_host (s : State) (k c : Nat) (b : List WaitItem) : (s.setWaiting k c b).host = s.host := rfl
@[simp] theorem setWaiting_agenda (s : State) (k c : Nat) (b : List WaitItem) : (s.setWaiting k c b).agenda = s.agenda := rfl
@[simp] theorem setWaiting_mirrorLists (s : State) (k c : Nat) (b : List WaitItem) : (s.setWaiting k c b).mirrorLists = s.mirrorLists := rfl
@[simp] theorem setWaiting_moves (s : State) (k c : Nat) (b : List WaitItem) : (s.setWaiting k c b).moves = s.moves := rfl
@[simp] theorem setWaiting_turn (s : State) (k c : Nat) (b : List WaitItem) : (s.setWaiting k c b).turn = s.turn := rfl
@[simp] theorem setWaiting_oids (s : State) (k c : Nat) (b : List WaitItem) : (s.setWaiting k c b).oids = s.oids := rfl
@[simp] theorem setWaiting_cur (s : State) (k c : Nat) (b : List WaitItem) : (s.setWaiting k c b).cur = s.cur := rfl

/-! ### setTile -/

@[simp] theorem setTile_mem (s : State) (n e : Nat) (t : Tile) : (s.setTile n e t).mem = s.mem := rfl
@[simp] theorem setTile_poison (s : State) (n e : Nat) (t : Tile) : (s.setTile n e t).poison = s.poison := rfl
@[simp] theorem setTile_empty (s : State) (n e : Nat) (t : Tile) : (s.setTile n e t).empty = s.empty := rfl
@[simp] theorem setTile_dirty (s : State) (n e : Nat) (t : Tile) : (s.setTile n e t).dirty = s.dirty := rfl
@[simp] theorem setTile_lost (s : State) (n e : Nat) (t : Tile) : (s.setTile n e t).lost = s.lost := rfl
@[simp] theorem setTile_accMem (s : State) (n e : Nat) (t : Tile) : (s.setTile n e t).accMem = s.accMem := rfl
@[simp] theorem setTile_accPoison (s : State) (n e : Nat) (t : Tile) : (s.setTile n e t).accPoison = s.accPoison := rfl
@[simp] theorem setTile_far (s : State) (n e : Nat) (t : Tile) : (s.setTile n e t).far = s.far := rfl
@[simp] theorem setTile_farPoison (s : State) (n e : Nat) (t : Tile) : (s.setTile n e t).farPoison = s.farPoison := rfl
@[simp] theorem setTile_farCount (s : State) (n e : Nat) (t : Tile) : (s.setTile n e t).farCount = s.farCount := rfl
@[simp] theorem setTile_stale (s : State) (n e : Nat) (t : Tile) : (s.setTile n e t).stale = s.stale := rfl
@[simp] theorem setTile_rels (s : State) (n e : Nat) (t : Tile) : (s.setTile n e t).rels = s.rels := rfl
@[simp] theorem setTile_badFrames (s : State) (n e : Nat) (t : Tile) : (s.setTile n e t).badFrames = s.badFrames := rfl
@[simp] theorem setTile_cores (s : State) (n e : Nat) (t : Tile) : (s.setTile n e t).cores = s.cores := rfl
@[simp] theorem setTile_entries (s : State) (n e : Nat) (t : Tile) : (s.setTile n e t).entries = s.entries := rfl
@[simp] theorem setTile_boxes (s : State) (n e : Nat) (t : Tile) : (s.setTile n e t).boxes = s.boxes := rfl
@[simp] theorem setTile_waits (s : State) (n e : Nat) (t : Tile) : (s.setTile n e t).waits = s.waits := rfl
@[simp] theorem setTile_slots (s : State) (n e : Nat) (t : Tile) : (s.setTile n e t).slots = s.slots := rfl
@[simp] theorem setTile_vats (s : State) (n e : Nat) (t : Tile) : (s.setTile n e t).vats = s.vats := rfl
@[simp] theorem setTile_queues (s : State) (n e : Nat) (t : Tile) : (s.setTile n e t).queues = s.queues := rfl
@[simp] theorem setTile_sems (s : State) (n e : Nat) (t : Tile) : (s.setTile n e t).sems = s.sems := rfl
@[simp] theorem setTile_runs (s : State) (n e : Nat) (t : Tile) : (s.setTile n e t).runs = s.runs := rfl
@[simp] theorem setTile_arrays (s : State) (n e : Nat) (t : Tile) : (s.setTile n e t).arrays = s.arrays := rfl
@[simp] theorem setTile_mqs (s : State) (n e : Nat) (t : Tile) : (s.setTile n e t).mqs = s.mqs := rfl
@[simp] theorem setTile_cmds (s : State) (n e : Nat) (t : Tile) : (s.setTile n e t).cmds = s.cmds := rfl
@[simp] theorem setTile_cmdSeqs (s : State) (n e : Nat) (t : Tile) : (s.setTile n e t).cmdSeqs = s.cmdSeqs := rfl
@[simp] theorem setTile_streams (s : State) (n e : Nat) (t : Tile) : (s.setTile n e t).streams = s.streams := rfl
@[simp] theorem setTile_strmEnds (s : State) (n e : Nat) (t : Tile) : (s.setTile n e t).strmEnds = s.strmEnds := rfl
@[simp] theorem setTile_tlb (s : State) (n e : Nat) (t : Tile) : (s.setTile n e t).tlb = s.tlb := rfl
@[simp] theorem setTile_drained (s : State) (n e : Nat) (t : Tile) : (s.setTile n e t).drained = s.drained := rfl
@[simp] theorem setTile_misses (s : State) (n e : Nat) (t : Tile) : (s.setTile n e t).misses = s.misses := rfl
@[simp] theorem setTile_atomics (s : State) (n e : Nat) (t : Tile) : (s.setTile n e t).atomics = s.atomics := rfl
@[simp] theorem setTile_faqs (s : State) (n e : Nat) (t : Tile) : (s.setTile n e t).faqs = s.faqs := rfl
@[simp] theorem setTile_launches (s : State) (n e : Nat) (t : Tile) : (s.setTile n e t).launches = s.launches := rfl
@[simp] theorem setTile_rects (s : State) (n e : Nat) (t : Tile) : (s.setTile n e t).rects = s.rects := rfl
@[simp] theorem setTile_held (s : State) (n e : Nat) (t : Tile) : (s.setTile n e t).held = s.held := rfl
@[simp] theorem setTile_phases (s : State) (n e : Nat) (t : Tile) : (s.setTile n e t).phases = s.phases := rfl
@[simp] theorem setTile_images (s : State) (n e : Nat) (t : Tile) : (s.setTile n e t).images = s.images := rfl
@[simp] theorem setTile_resumes (s : State) (n e : Nat) (t : Tile) : (s.setTile n e t).resumes = s.resumes := rfl
@[simp] theorem setTile_asides (s : State) (n e : Nat) (t : Tile) : (s.setTile n e t).asides = s.asides := rfl
@[simp] theorem setTile_matching (s : State) (n e : Nat) (t : Tile) : (s.setTile n e t).matching = s.matching := rfl
@[simp] theorem setTile_islands (s : State) (n e : Nat) (t : Tile) : (s.setTile n e t).islands = s.islands := rfl
@[simp] theorem setTile_lanes (s : State) (n e : Nat) (t : Tile) : (s.setTile n e t).lanes = s.lanes := rfl
@[simp] theorem setTile_spares (s : State) (n e : Nat) (t : Tile) : (s.setTile n e t).spares = s.spares := rfl
@[simp] theorem setTile_pauses (s : State) (n e : Nat) (t : Tile) : (s.setTile n e t).pauses = s.pauses := rfl
@[simp] theorem setTile_lsel (s : State) (n e : Nat) (t : Tile) : (s.setTile n e t).lsel = s.lsel := rfl
@[simp] theorem setTile_lselSet (s : State) (n e : Nat) (t : Tile) : (s.setTile n e t).lselSet = s.lselSet := rfl
@[simp] theorem setTile_health (s : State) (n e : Nat) (t : Tile) : (s.setTile n e t).health = s.health := rfl
@[simp] theorem setTile_fabric (s : State) (n e : Nat) (t : Tile) : (s.setTile n e t).fabric = s.fabric := rfl
@[simp] theorem setTile_host (s : State) (n e : Nat) (t : Tile) : (s.setTile n e t).host = s.host := rfl
@[simp] theorem setTile_agenda (s : State) (n e : Nat) (t : Tile) : (s.setTile n e t).agenda = s.agenda := rfl
@[simp] theorem setTile_mirrorLists (s : State) (n e : Nat) (t : Tile) : (s.setTile n e t).mirrorLists = s.mirrorLists := rfl
@[simp] theorem setTile_moves (s : State) (n e : Nat) (t : Tile) : (s.setTile n e t).moves = s.moves := rfl
@[simp] theorem setTile_turn (s : State) (n e : Nat) (t : Tile) : (s.setTile n e t).turn = s.turn := rfl
@[simp] theorem setTile_oids (s : State) (n e : Nat) (t : Tile) : (s.setTile n e t).oids = s.oids := rfl
@[simp] theorem setTile_cur (s : State) (n e : Nat) (t : Tile) : (s.setTile n e t).cur = s.cur := rfl

/-! ### setSem -/

@[simp] theorem setSem_mem (s : State) (n i v : Nat) : (s.setSem n i v).mem = s.mem := rfl
@[simp] theorem setSem_poison (s : State) (n i v : Nat) : (s.setSem n i v).poison = s.poison := rfl
@[simp] theorem setSem_empty (s : State) (n i v : Nat) : (s.setSem n i v).empty = s.empty := rfl
@[simp] theorem setSem_dirty (s : State) (n i v : Nat) : (s.setSem n i v).dirty = s.dirty := rfl
@[simp] theorem setSem_lost (s : State) (n i v : Nat) : (s.setSem n i v).lost = s.lost := rfl
@[simp] theorem setSem_accMem (s : State) (n i v : Nat) : (s.setSem n i v).accMem = s.accMem := rfl
@[simp] theorem setSem_accPoison (s : State) (n i v : Nat) : (s.setSem n i v).accPoison = s.accPoison := rfl
@[simp] theorem setSem_far (s : State) (n i v : Nat) : (s.setSem n i v).far = s.far := rfl
@[simp] theorem setSem_farPoison (s : State) (n i v : Nat) : (s.setSem n i v).farPoison = s.farPoison := rfl
@[simp] theorem setSem_farCount (s : State) (n i v : Nat) : (s.setSem n i v).farCount = s.farCount := rfl
@[simp] theorem setSem_stale (s : State) (n i v : Nat) : (s.setSem n i v).stale = s.stale := rfl
@[simp] theorem setSem_rels (s : State) (n i v : Nat) : (s.setSem n i v).rels = s.rels := rfl
@[simp] theorem setSem_badFrames (s : State) (n i v : Nat) : (s.setSem n i v).badFrames = s.badFrames := rfl
@[simp] theorem setSem_cores (s : State) (n i v : Nat) : (s.setSem n i v).cores = s.cores := rfl
@[simp] theorem setSem_entries (s : State) (n i v : Nat) : (s.setSem n i v).entries = s.entries := rfl
@[simp] theorem setSem_boxes (s : State) (n i v : Nat) : (s.setSem n i v).boxes = s.boxes := rfl
@[simp] theorem setSem_waits (s : State) (n i v : Nat) : (s.setSem n i v).waits = s.waits := rfl
@[simp] theorem setSem_slots (s : State) (n i v : Nat) : (s.setSem n i v).slots = s.slots := rfl
@[simp] theorem setSem_vats (s : State) (n i v : Nat) : (s.setSem n i v).vats = s.vats := rfl
@[simp] theorem setSem_queues (s : State) (n i v : Nat) : (s.setSem n i v).queues = s.queues := rfl
@[simp] theorem setSem_tiles (s : State) (n i v : Nat) : (s.setSem n i v).tiles = s.tiles := rfl
@[simp] theorem setSem_runs (s : State) (n i v : Nat) : (s.setSem n i v).runs = s.runs := rfl
@[simp] theorem setSem_arrays (s : State) (n i v : Nat) : (s.setSem n i v).arrays = s.arrays := rfl
@[simp] theorem setSem_mqs (s : State) (n i v : Nat) : (s.setSem n i v).mqs = s.mqs := rfl
@[simp] theorem setSem_cmds (s : State) (n i v : Nat) : (s.setSem n i v).cmds = s.cmds := rfl
@[simp] theorem setSem_cmdSeqs (s : State) (n i v : Nat) : (s.setSem n i v).cmdSeqs = s.cmdSeqs := rfl
@[simp] theorem setSem_streams (s : State) (n i v : Nat) : (s.setSem n i v).streams = s.streams := rfl
@[simp] theorem setSem_strmEnds (s : State) (n i v : Nat) : (s.setSem n i v).strmEnds = s.strmEnds := rfl
@[simp] theorem setSem_tlb (s : State) (n i v : Nat) : (s.setSem n i v).tlb = s.tlb := rfl
@[simp] theorem setSem_drained (s : State) (n i v : Nat) : (s.setSem n i v).drained = s.drained := rfl
@[simp] theorem setSem_misses (s : State) (n i v : Nat) : (s.setSem n i v).misses = s.misses := rfl
@[simp] theorem setSem_atomics (s : State) (n i v : Nat) : (s.setSem n i v).atomics = s.atomics := rfl
@[simp] theorem setSem_faqs (s : State) (n i v : Nat) : (s.setSem n i v).faqs = s.faqs := rfl
@[simp] theorem setSem_launches (s : State) (n i v : Nat) : (s.setSem n i v).launches = s.launches := rfl
@[simp] theorem setSem_rects (s : State) (n i v : Nat) : (s.setSem n i v).rects = s.rects := rfl
@[simp] theorem setSem_held (s : State) (n i v : Nat) : (s.setSem n i v).held = s.held := rfl
@[simp] theorem setSem_phases (s : State) (n i v : Nat) : (s.setSem n i v).phases = s.phases := rfl
@[simp] theorem setSem_images (s : State) (n i v : Nat) : (s.setSem n i v).images = s.images := rfl
@[simp] theorem setSem_resumes (s : State) (n i v : Nat) : (s.setSem n i v).resumes = s.resumes := rfl
@[simp] theorem setSem_asides (s : State) (n i v : Nat) : (s.setSem n i v).asides = s.asides := rfl
@[simp] theorem setSem_matching (s : State) (n i v : Nat) : (s.setSem n i v).matching = s.matching := rfl
@[simp] theorem setSem_islands (s : State) (n i v : Nat) : (s.setSem n i v).islands = s.islands := rfl
@[simp] theorem setSem_lanes (s : State) (n i v : Nat) : (s.setSem n i v).lanes = s.lanes := rfl
@[simp] theorem setSem_spares (s : State) (n i v : Nat) : (s.setSem n i v).spares = s.spares := rfl
@[simp] theorem setSem_pauses (s : State) (n i v : Nat) : (s.setSem n i v).pauses = s.pauses := rfl
@[simp] theorem setSem_lsel (s : State) (n i v : Nat) : (s.setSem n i v).lsel = s.lsel := rfl
@[simp] theorem setSem_lselSet (s : State) (n i v : Nat) : (s.setSem n i v).lselSet = s.lselSet := rfl
@[simp] theorem setSem_health (s : State) (n i v : Nat) : (s.setSem n i v).health = s.health := rfl
@[simp] theorem setSem_fabric (s : State) (n i v : Nat) : (s.setSem n i v).fabric = s.fabric := rfl
@[simp] theorem setSem_host (s : State) (n i v : Nat) : (s.setSem n i v).host = s.host := rfl
@[simp] theorem setSem_agenda (s : State) (n i v : Nat) : (s.setSem n i v).agenda = s.agenda := rfl
@[simp] theorem setSem_mirrorLists (s : State) (n i v : Nat) : (s.setSem n i v).mirrorLists = s.mirrorLists := rfl
@[simp] theorem setSem_moves (s : State) (n i v : Nat) : (s.setSem n i v).moves = s.moves := rfl
@[simp] theorem setSem_turn (s : State) (n i v : Nat) : (s.setSem n i v).turn = s.turn := rfl
@[simp] theorem setSem_oids (s : State) (n i v : Nat) : (s.setSem n i v).oids = s.oids := rfl
@[simp] theorem setSem_cur (s : State) (n i v : Nat) : (s.setSem n i v).cur = s.cur := rfl

/-! ### setCmd -/

@[simp] theorem setCmd_mem (s : State) (n i : Nat) (c : Cmd) : (s.setCmd n i c).mem = s.mem := rfl
@[simp] theorem setCmd_poison (s : State) (n i : Nat) (c : Cmd) : (s.setCmd n i c).poison = s.poison := rfl
@[simp] theorem setCmd_empty (s : State) (n i : Nat) (c : Cmd) : (s.setCmd n i c).empty = s.empty := rfl
@[simp] theorem setCmd_dirty (s : State) (n i : Nat) (c : Cmd) : (s.setCmd n i c).dirty = s.dirty := rfl
@[simp] theorem setCmd_lost (s : State) (n i : Nat) (c : Cmd) : (s.setCmd n i c).lost = s.lost := rfl
@[simp] theorem setCmd_accMem (s : State) (n i : Nat) (c : Cmd) : (s.setCmd n i c).accMem = s.accMem := rfl
@[simp] theorem setCmd_accPoison (s : State) (n i : Nat) (c : Cmd) : (s.setCmd n i c).accPoison = s.accPoison := rfl
@[simp] theorem setCmd_far (s : State) (n i : Nat) (c : Cmd) : (s.setCmd n i c).far = s.far := rfl
@[simp] theorem setCmd_farPoison (s : State) (n i : Nat) (c : Cmd) : (s.setCmd n i c).farPoison = s.farPoison := rfl
@[simp] theorem setCmd_farCount (s : State) (n i : Nat) (c : Cmd) : (s.setCmd n i c).farCount = s.farCount := rfl
@[simp] theorem setCmd_stale (s : State) (n i : Nat) (c : Cmd) : (s.setCmd n i c).stale = s.stale := rfl
@[simp] theorem setCmd_rels (s : State) (n i : Nat) (c : Cmd) : (s.setCmd n i c).rels = s.rels := rfl
@[simp] theorem setCmd_badFrames (s : State) (n i : Nat) (c : Cmd) : (s.setCmd n i c).badFrames = s.badFrames := rfl
@[simp] theorem setCmd_cores (s : State) (n i : Nat) (c : Cmd) : (s.setCmd n i c).cores = s.cores := rfl
@[simp] theorem setCmd_entries (s : State) (n i : Nat) (c : Cmd) : (s.setCmd n i c).entries = s.entries := rfl
@[simp] theorem setCmd_boxes (s : State) (n i : Nat) (c : Cmd) : (s.setCmd n i c).boxes = s.boxes := rfl
@[simp] theorem setCmd_waits (s : State) (n i : Nat) (c : Cmd) : (s.setCmd n i c).waits = s.waits := rfl
@[simp] theorem setCmd_slots (s : State) (n i : Nat) (c : Cmd) : (s.setCmd n i c).slots = s.slots := rfl
@[simp] theorem setCmd_vats (s : State) (n i : Nat) (c : Cmd) : (s.setCmd n i c).vats = s.vats := rfl
@[simp] theorem setCmd_queues (s : State) (n i : Nat) (c : Cmd) : (s.setCmd n i c).queues = s.queues := rfl
@[simp] theorem setCmd_sems (s : State) (n i : Nat) (c : Cmd) : (s.setCmd n i c).sems = s.sems := rfl
@[simp] theorem setCmd_tiles (s : State) (n i : Nat) (c : Cmd) : (s.setCmd n i c).tiles = s.tiles := rfl
@[simp] theorem setCmd_runs (s : State) (n i : Nat) (c : Cmd) : (s.setCmd n i c).runs = s.runs := rfl
@[simp] theorem setCmd_arrays (s : State) (n i : Nat) (c : Cmd) : (s.setCmd n i c).arrays = s.arrays := rfl
@[simp] theorem setCmd_mqs (s : State) (n i : Nat) (c : Cmd) : (s.setCmd n i c).mqs = s.mqs := rfl
@[simp] theorem setCmd_cmdSeqs (s : State) (n i : Nat) (c : Cmd) : (s.setCmd n i c).cmdSeqs = s.cmdSeqs := rfl
@[simp] theorem setCmd_streams (s : State) (n i : Nat) (c : Cmd) : (s.setCmd n i c).streams = s.streams := rfl
@[simp] theorem setCmd_strmEnds (s : State) (n i : Nat) (c : Cmd) : (s.setCmd n i c).strmEnds = s.strmEnds := rfl
@[simp] theorem setCmd_tlb (s : State) (n i : Nat) (c : Cmd) : (s.setCmd n i c).tlb = s.tlb := rfl
@[simp] theorem setCmd_drained (s : State) (n i : Nat) (c : Cmd) : (s.setCmd n i c).drained = s.drained := rfl
@[simp] theorem setCmd_misses (s : State) (n i : Nat) (c : Cmd) : (s.setCmd n i c).misses = s.misses := rfl
@[simp] theorem setCmd_atomics (s : State) (n i : Nat) (c : Cmd) : (s.setCmd n i c).atomics = s.atomics := rfl
@[simp] theorem setCmd_faqs (s : State) (n i : Nat) (c : Cmd) : (s.setCmd n i c).faqs = s.faqs := rfl
@[simp] theorem setCmd_launches (s : State) (n i : Nat) (c : Cmd) : (s.setCmd n i c).launches = s.launches := rfl
@[simp] theorem setCmd_rects (s : State) (n i : Nat) (c : Cmd) : (s.setCmd n i c).rects = s.rects := rfl
@[simp] theorem setCmd_held (s : State) (n i : Nat) (c : Cmd) : (s.setCmd n i c).held = s.held := rfl
@[simp] theorem setCmd_phases (s : State) (n i : Nat) (c : Cmd) : (s.setCmd n i c).phases = s.phases := rfl
@[simp] theorem setCmd_images (s : State) (n i : Nat) (c : Cmd) : (s.setCmd n i c).images = s.images := rfl
@[simp] theorem setCmd_resumes (s : State) (n i : Nat) (c : Cmd) : (s.setCmd n i c).resumes = s.resumes := rfl
@[simp] theorem setCmd_asides (s : State) (n i : Nat) (c : Cmd) : (s.setCmd n i c).asides = s.asides := rfl
@[simp] theorem setCmd_matching (s : State) (n i : Nat) (c : Cmd) : (s.setCmd n i c).matching = s.matching := rfl
@[simp] theorem setCmd_islands (s : State) (n i : Nat) (c : Cmd) : (s.setCmd n i c).islands = s.islands := rfl
@[simp] theorem setCmd_lanes (s : State) (n i : Nat) (c : Cmd) : (s.setCmd n i c).lanes = s.lanes := rfl
@[simp] theorem setCmd_spares (s : State) (n i : Nat) (c : Cmd) : (s.setCmd n i c).spares = s.spares := rfl
@[simp] theorem setCmd_pauses (s : State) (n i : Nat) (c : Cmd) : (s.setCmd n i c).pauses = s.pauses := rfl
@[simp] theorem setCmd_lsel (s : State) (n i : Nat) (c : Cmd) : (s.setCmd n i c).lsel = s.lsel := rfl
@[simp] theorem setCmd_lselSet (s : State) (n i : Nat) (c : Cmd) : (s.setCmd n i c).lselSet = s.lselSet := rfl
@[simp] theorem setCmd_health (s : State) (n i : Nat) (c : Cmd) : (s.setCmd n i c).health = s.health := rfl
@[simp] theorem setCmd_fabric (s : State) (n i : Nat) (c : Cmd) : (s.setCmd n i c).fabric = s.fabric := rfl
@[simp] theorem setCmd_host (s : State) (n i : Nat) (c : Cmd) : (s.setCmd n i c).host = s.host := rfl
@[simp] theorem setCmd_agenda (s : State) (n i : Nat) (c : Cmd) : (s.setCmd n i c).agenda = s.agenda := rfl
@[simp] theorem setCmd_mirrorLists (s : State) (n i : Nat) (c : Cmd) : (s.setCmd n i c).mirrorLists = s.mirrorLists := rfl
@[simp] theorem setCmd_moves (s : State) (n i : Nat) (c : Cmd) : (s.setCmd n i c).moves = s.moves := rfl
@[simp] theorem setCmd_turn (s : State) (n i : Nat) (c : Cmd) : (s.setCmd n i c).turn = s.turn := rfl
@[simp] theorem setCmd_oids (s : State) (n i : Nat) (c : Cmd) : (s.setCmd n i c).oids = s.oids := rfl
@[simp] theorem setCmd_cur (s : State) (n i : Nat) (c : Cmd) : (s.setCmd n i c).cur = s.cur := rfl

/-! ### setStrm -/

@[simp] theorem setStrm_mem (s : State) (n u : Nat) (c : Strm) : (s.setStrm n u c).mem = s.mem := rfl
@[simp] theorem setStrm_poison (s : State) (n u : Nat) (c : Strm) : (s.setStrm n u c).poison = s.poison := rfl
@[simp] theorem setStrm_empty (s : State) (n u : Nat) (c : Strm) : (s.setStrm n u c).empty = s.empty := rfl
@[simp] theorem setStrm_dirty (s : State) (n u : Nat) (c : Strm) : (s.setStrm n u c).dirty = s.dirty := rfl
@[simp] theorem setStrm_lost (s : State) (n u : Nat) (c : Strm) : (s.setStrm n u c).lost = s.lost := rfl
@[simp] theorem setStrm_accMem (s : State) (n u : Nat) (c : Strm) : (s.setStrm n u c).accMem = s.accMem := rfl
@[simp] theorem setStrm_accPoison (s : State) (n u : Nat) (c : Strm) : (s.setStrm n u c).accPoison = s.accPoison := rfl
@[simp] theorem setStrm_far (s : State) (n u : Nat) (c : Strm) : (s.setStrm n u c).far = s.far := rfl
@[simp] theorem setStrm_farPoison (s : State) (n u : Nat) (c : Strm) : (s.setStrm n u c).farPoison = s.farPoison := rfl
@[simp] theorem setStrm_farCount (s : State) (n u : Nat) (c : Strm) : (s.setStrm n u c).farCount = s.farCount := rfl
@[simp] theorem setStrm_stale (s : State) (n u : Nat) (c : Strm) : (s.setStrm n u c).stale = s.stale := rfl
@[simp] theorem setStrm_rels (s : State) (n u : Nat) (c : Strm) : (s.setStrm n u c).rels = s.rels := rfl
@[simp] theorem setStrm_badFrames (s : State) (n u : Nat) (c : Strm) : (s.setStrm n u c).badFrames = s.badFrames := rfl
@[simp] theorem setStrm_cores (s : State) (n u : Nat) (c : Strm) : (s.setStrm n u c).cores = s.cores := rfl
@[simp] theorem setStrm_entries (s : State) (n u : Nat) (c : Strm) : (s.setStrm n u c).entries = s.entries := rfl
@[simp] theorem setStrm_boxes (s : State) (n u : Nat) (c : Strm) : (s.setStrm n u c).boxes = s.boxes := rfl
@[simp] theorem setStrm_waits (s : State) (n u : Nat) (c : Strm) : (s.setStrm n u c).waits = s.waits := rfl
@[simp] theorem setStrm_slots (s : State) (n u : Nat) (c : Strm) : (s.setStrm n u c).slots = s.slots := rfl
@[simp] theorem setStrm_vats (s : State) (n u : Nat) (c : Strm) : (s.setStrm n u c).vats = s.vats := rfl
@[simp] theorem setStrm_queues (s : State) (n u : Nat) (c : Strm) : (s.setStrm n u c).queues = s.queues := rfl
@[simp] theorem setStrm_sems (s : State) (n u : Nat) (c : Strm) : (s.setStrm n u c).sems = s.sems := rfl
@[simp] theorem setStrm_tiles (s : State) (n u : Nat) (c : Strm) : (s.setStrm n u c).tiles = s.tiles := rfl
@[simp] theorem setStrm_runs (s : State) (n u : Nat) (c : Strm) : (s.setStrm n u c).runs = s.runs := rfl
@[simp] theorem setStrm_arrays (s : State) (n u : Nat) (c : Strm) : (s.setStrm n u c).arrays = s.arrays := rfl
@[simp] theorem setStrm_mqs (s : State) (n u : Nat) (c : Strm) : (s.setStrm n u c).mqs = s.mqs := rfl
@[simp] theorem setStrm_cmds (s : State) (n u : Nat) (c : Strm) : (s.setStrm n u c).cmds = s.cmds := rfl
@[simp] theorem setStrm_cmdSeqs (s : State) (n u : Nat) (c : Strm) : (s.setStrm n u c).cmdSeqs = s.cmdSeqs := rfl
@[simp] theorem setStrm_strmEnds (s : State) (n u : Nat) (c : Strm) : (s.setStrm n u c).strmEnds = s.strmEnds := rfl
@[simp] theorem setStrm_tlb (s : State) (n u : Nat) (c : Strm) : (s.setStrm n u c).tlb = s.tlb := rfl
@[simp] theorem setStrm_drained (s : State) (n u : Nat) (c : Strm) : (s.setStrm n u c).drained = s.drained := rfl
@[simp] theorem setStrm_misses (s : State) (n u : Nat) (c : Strm) : (s.setStrm n u c).misses = s.misses := rfl
@[simp] theorem setStrm_atomics (s : State) (n u : Nat) (c : Strm) : (s.setStrm n u c).atomics = s.atomics := rfl
@[simp] theorem setStrm_faqs (s : State) (n u : Nat) (c : Strm) : (s.setStrm n u c).faqs = s.faqs := rfl
@[simp] theorem setStrm_launches (s : State) (n u : Nat) (c : Strm) : (s.setStrm n u c).launches = s.launches := rfl
@[simp] theorem setStrm_rects (s : State) (n u : Nat) (c : Strm) : (s.setStrm n u c).rects = s.rects := rfl
@[simp] theorem setStrm_held (s : State) (n u : Nat) (c : Strm) : (s.setStrm n u c).held = s.held := rfl
@[simp] theorem setStrm_phases (s : State) (n u : Nat) (c : Strm) : (s.setStrm n u c).phases = s.phases := rfl
@[simp] theorem setStrm_images (s : State) (n u : Nat) (c : Strm) : (s.setStrm n u c).images = s.images := rfl
@[simp] theorem setStrm_resumes (s : State) (n u : Nat) (c : Strm) : (s.setStrm n u c).resumes = s.resumes := rfl
@[simp] theorem setStrm_asides (s : State) (n u : Nat) (c : Strm) : (s.setStrm n u c).asides = s.asides := rfl
@[simp] theorem setStrm_matching (s : State) (n u : Nat) (c : Strm) : (s.setStrm n u c).matching = s.matching := rfl
@[simp] theorem setStrm_islands (s : State) (n u : Nat) (c : Strm) : (s.setStrm n u c).islands = s.islands := rfl
@[simp] theorem setStrm_lanes (s : State) (n u : Nat) (c : Strm) : (s.setStrm n u c).lanes = s.lanes := rfl
@[simp] theorem setStrm_spares (s : State) (n u : Nat) (c : Strm) : (s.setStrm n u c).spares = s.spares := rfl
@[simp] theorem setStrm_pauses (s : State) (n u : Nat) (c : Strm) : (s.setStrm n u c).pauses = s.pauses := rfl
@[simp] theorem setStrm_lsel (s : State) (n u : Nat) (c : Strm) : (s.setStrm n u c).lsel = s.lsel := rfl
@[simp] theorem setStrm_lselSet (s : State) (n u : Nat) (c : Strm) : (s.setStrm n u c).lselSet = s.lselSet := rfl
@[simp] theorem setStrm_health (s : State) (n u : Nat) (c : Strm) : (s.setStrm n u c).health = s.health := rfl
@[simp] theorem setStrm_fabric (s : State) (n u : Nat) (c : Strm) : (s.setStrm n u c).fabric = s.fabric := rfl
@[simp] theorem setStrm_host (s : State) (n u : Nat) (c : Strm) : (s.setStrm n u c).host = s.host := rfl
@[simp] theorem setStrm_agenda (s : State) (n u : Nat) (c : Strm) : (s.setStrm n u c).agenda = s.agenda := rfl
@[simp] theorem setStrm_mirrorLists (s : State) (n u : Nat) (c : Strm) : (s.setStrm n u c).mirrorLists = s.mirrorLists := rfl
@[simp] theorem setStrm_moves (s : State) (n u : Nat) (c : Strm) : (s.setStrm n u c).moves = s.moves := rfl
@[simp] theorem setStrm_turn (s : State) (n u : Nat) (c : Strm) : (s.setStrm n u c).turn = s.turn := rfl
@[simp] theorem setStrm_oids (s : State) (n u : Nat) (c : Strm) : (s.setStrm n u c).oids = s.oids := rfl
@[simp] theorem setStrm_cur (s : State) (n u : Nat) (c : Strm) : (s.setStrm n u c).cur = s.cur := rfl

/-! ### setQueue -/

@[simp] theorem setQueue_mem (s : State) (n q : Nat) (l : List QEntry) : (s.setQueue n q l).mem = s.mem := rfl
@[simp] theorem setQueue_poison (s : State) (n q : Nat) (l : List QEntry) : (s.setQueue n q l).poison = s.poison := rfl
@[simp] theorem setQueue_empty (s : State) (n q : Nat) (l : List QEntry) : (s.setQueue n q l).empty = s.empty := rfl
@[simp] theorem setQueue_dirty (s : State) (n q : Nat) (l : List QEntry) : (s.setQueue n q l).dirty = s.dirty := rfl
@[simp] theorem setQueue_lost (s : State) (n q : Nat) (l : List QEntry) : (s.setQueue n q l).lost = s.lost := rfl
@[simp] theorem setQueue_accMem (s : State) (n q : Nat) (l : List QEntry) : (s.setQueue n q l).accMem = s.accMem := rfl
@[simp] theorem setQueue_accPoison (s : State) (n q : Nat) (l : List QEntry) : (s.setQueue n q l).accPoison = s.accPoison := rfl
@[simp] theorem setQueue_far (s : State) (n q : Nat) (l : List QEntry) : (s.setQueue n q l).far = s.far := rfl
@[simp] theorem setQueue_farPoison (s : State) (n q : Nat) (l : List QEntry) : (s.setQueue n q l).farPoison = s.farPoison := rfl
@[simp] theorem setQueue_farCount (s : State) (n q : Nat) (l : List QEntry) : (s.setQueue n q l).farCount = s.farCount := rfl
@[simp] theorem setQueue_stale (s : State) (n q : Nat) (l : List QEntry) : (s.setQueue n q l).stale = s.stale := rfl
@[simp] theorem setQueue_rels (s : State) (n q : Nat) (l : List QEntry) : (s.setQueue n q l).rels = s.rels := rfl
@[simp] theorem setQueue_badFrames (s : State) (n q : Nat) (l : List QEntry) : (s.setQueue n q l).badFrames = s.badFrames := rfl
@[simp] theorem setQueue_cores (s : State) (n q : Nat) (l : List QEntry) : (s.setQueue n q l).cores = s.cores := rfl
@[simp] theorem setQueue_entries (s : State) (n q : Nat) (l : List QEntry) : (s.setQueue n q l).entries = s.entries := rfl
@[simp] theorem setQueue_boxes (s : State) (n q : Nat) (l : List QEntry) : (s.setQueue n q l).boxes = s.boxes := rfl
@[simp] theorem setQueue_waits (s : State) (n q : Nat) (l : List QEntry) : (s.setQueue n q l).waits = s.waits := rfl
@[simp] theorem setQueue_slots (s : State) (n q : Nat) (l : List QEntry) : (s.setQueue n q l).slots = s.slots := rfl
@[simp] theorem setQueue_vats (s : State) (n q : Nat) (l : List QEntry) : (s.setQueue n q l).vats = s.vats := rfl
@[simp] theorem setQueue_sems (s : State) (n q : Nat) (l : List QEntry) : (s.setQueue n q l).sems = s.sems := rfl
@[simp] theorem setQueue_tiles (s : State) (n q : Nat) (l : List QEntry) : (s.setQueue n q l).tiles = s.tiles := rfl
@[simp] theorem setQueue_runs (s : State) (n q : Nat) (l : List QEntry) : (s.setQueue n q l).runs = s.runs := rfl
@[simp] theorem setQueue_arrays (s : State) (n q : Nat) (l : List QEntry) : (s.setQueue n q l).arrays = s.arrays := rfl
@[simp] theorem setQueue_mqs (s : State) (n q : Nat) (l : List QEntry) : (s.setQueue n q l).mqs = s.mqs := rfl
@[simp] theorem setQueue_cmds (s : State) (n q : Nat) (l : List QEntry) : (s.setQueue n q l).cmds = s.cmds := rfl
@[simp] theorem setQueue_cmdSeqs (s : State) (n q : Nat) (l : List QEntry) : (s.setQueue n q l).cmdSeqs = s.cmdSeqs := rfl
@[simp] theorem setQueue_streams (s : State) (n q : Nat) (l : List QEntry) : (s.setQueue n q l).streams = s.streams := rfl
@[simp] theorem setQueue_strmEnds (s : State) (n q : Nat) (l : List QEntry) : (s.setQueue n q l).strmEnds = s.strmEnds := rfl
@[simp] theorem setQueue_tlb (s : State) (n q : Nat) (l : List QEntry) : (s.setQueue n q l).tlb = s.tlb := rfl
@[simp] theorem setQueue_drained (s : State) (n q : Nat) (l : List QEntry) : (s.setQueue n q l).drained = s.drained := rfl
@[simp] theorem setQueue_misses (s : State) (n q : Nat) (l : List QEntry) : (s.setQueue n q l).misses = s.misses := rfl
@[simp] theorem setQueue_atomics (s : State) (n q : Nat) (l : List QEntry) : (s.setQueue n q l).atomics = s.atomics := rfl
@[simp] theorem setQueue_faqs (s : State) (n q : Nat) (l : List QEntry) : (s.setQueue n q l).faqs = s.faqs := rfl
@[simp] theorem setQueue_launches (s : State) (n q : Nat) (l : List QEntry) : (s.setQueue n q l).launches = s.launches := rfl
@[simp] theorem setQueue_rects (s : State) (n q : Nat) (l : List QEntry) : (s.setQueue n q l).rects = s.rects := rfl
@[simp] theorem setQueue_held (s : State) (n q : Nat) (l : List QEntry) : (s.setQueue n q l).held = s.held := rfl
@[simp] theorem setQueue_phases (s : State) (n q : Nat) (l : List QEntry) : (s.setQueue n q l).phases = s.phases := rfl
@[simp] theorem setQueue_images (s : State) (n q : Nat) (l : List QEntry) : (s.setQueue n q l).images = s.images := rfl
@[simp] theorem setQueue_resumes (s : State) (n q : Nat) (l : List QEntry) : (s.setQueue n q l).resumes = s.resumes := rfl
@[simp] theorem setQueue_asides (s : State) (n q : Nat) (l : List QEntry) : (s.setQueue n q l).asides = s.asides := rfl
@[simp] theorem setQueue_matching (s : State) (n q : Nat) (l : List QEntry) : (s.setQueue n q l).matching = s.matching := rfl
@[simp] theorem setQueue_islands (s : State) (n q : Nat) (l : List QEntry) : (s.setQueue n q l).islands = s.islands := rfl
@[simp] theorem setQueue_lanes (s : State) (n q : Nat) (l : List QEntry) : (s.setQueue n q l).lanes = s.lanes := rfl
@[simp] theorem setQueue_spares (s : State) (n q : Nat) (l : List QEntry) : (s.setQueue n q l).spares = s.spares := rfl
@[simp] theorem setQueue_pauses (s : State) (n q : Nat) (l : List QEntry) : (s.setQueue n q l).pauses = s.pauses := rfl
@[simp] theorem setQueue_lsel (s : State) (n q : Nat) (l : List QEntry) : (s.setQueue n q l).lsel = s.lsel := rfl
@[simp] theorem setQueue_lselSet (s : State) (n q : Nat) (l : List QEntry) : (s.setQueue n q l).lselSet = s.lselSet := rfl
@[simp] theorem setQueue_health (s : State) (n q : Nat) (l : List QEntry) : (s.setQueue n q l).health = s.health := rfl
@[simp] theorem setQueue_fabric (s : State) (n q : Nat) (l : List QEntry) : (s.setQueue n q l).fabric = s.fabric := rfl
@[simp] theorem setQueue_host (s : State) (n q : Nat) (l : List QEntry) : (s.setQueue n q l).host = s.host := rfl
@[simp] theorem setQueue_agenda (s : State) (n q : Nat) (l : List QEntry) : (s.setQueue n q l).agenda = s.agenda := rfl
@[simp] theorem setQueue_mirrorLists (s : State) (n q : Nat) (l : List QEntry) : (s.setQueue n q l).mirrorLists = s.mirrorLists := rfl
@[simp] theorem setQueue_moves (s : State) (n q : Nat) (l : List QEntry) : (s.setQueue n q l).moves = s.moves := rfl
@[simp] theorem setQueue_turn (s : State) (n q : Nat) (l : List QEntry) : (s.setQueue n q l).turn = s.turn := rfl
@[simp] theorem setQueue_oids (s : State) (n q : Nat) (l : List QEntry) : (s.setQueue n q l).oids = s.oids := rfl
@[simp] theorem setQueue_cur (s : State) (n q : Nat) (l : List QEntry) : (s.setQueue n q l).cur = s.cur := rfl

/-! ### later -/

@[simp] theorem later_mem (s : State) (i : Event) : (s.later i).mem = s.mem := rfl
@[simp] theorem later_poison (s : State) (i : Event) : (s.later i).poison = s.poison := rfl
@[simp] theorem later_empty (s : State) (i : Event) : (s.later i).empty = s.empty := rfl
@[simp] theorem later_dirty (s : State) (i : Event) : (s.later i).dirty = s.dirty := rfl
@[simp] theorem later_lost (s : State) (i : Event) : (s.later i).lost = s.lost := rfl
@[simp] theorem later_accMem (s : State) (i : Event) : (s.later i).accMem = s.accMem := rfl
@[simp] theorem later_accPoison (s : State) (i : Event) : (s.later i).accPoison = s.accPoison := rfl
@[simp] theorem later_far (s : State) (i : Event) : (s.later i).far = s.far := rfl
@[simp] theorem later_farPoison (s : State) (i : Event) : (s.later i).farPoison = s.farPoison := rfl
@[simp] theorem later_farCount (s : State) (i : Event) : (s.later i).farCount = s.farCount := rfl
@[simp] theorem later_stale (s : State) (i : Event) : (s.later i).stale = s.stale := rfl
@[simp] theorem later_rels (s : State) (i : Event) : (s.later i).rels = s.rels := rfl
@[simp] theorem later_badFrames (s : State) (i : Event) : (s.later i).badFrames = s.badFrames := rfl
@[simp] theorem later_cores (s : State) (i : Event) : (s.later i).cores = s.cores := rfl
@[simp] theorem later_entries (s : State) (i : Event) : (s.later i).entries = s.entries := rfl
@[simp] theorem later_boxes (s : State) (i : Event) : (s.later i).boxes = s.boxes := rfl
@[simp] theorem later_waits (s : State) (i : Event) : (s.later i).waits = s.waits := rfl
@[simp] theorem later_slots (s : State) (i : Event) : (s.later i).slots = s.slots := rfl
@[simp] theorem later_vats (s : State) (i : Event) : (s.later i).vats = s.vats := rfl
@[simp] theorem later_queues (s : State) (i : Event) : (s.later i).queues = s.queues := rfl
@[simp] theorem later_sems (s : State) (i : Event) : (s.later i).sems = s.sems := rfl
@[simp] theorem later_tiles (s : State) (i : Event) : (s.later i).tiles = s.tiles := rfl
@[simp] theorem later_runs (s : State) (i : Event) : (s.later i).runs = s.runs := rfl
@[simp] theorem later_arrays (s : State) (i : Event) : (s.later i).arrays = s.arrays := rfl
@[simp] theorem later_mqs (s : State) (i : Event) : (s.later i).mqs = s.mqs := rfl
@[simp] theorem later_cmds (s : State) (i : Event) : (s.later i).cmds = s.cmds := rfl
@[simp] theorem later_cmdSeqs (s : State) (i : Event) : (s.later i).cmdSeqs = s.cmdSeqs := rfl
@[simp] theorem later_streams (s : State) (i : Event) : (s.later i).streams = s.streams := rfl
@[simp] theorem later_strmEnds (s : State) (i : Event) : (s.later i).strmEnds = s.strmEnds := rfl
@[simp] theorem later_tlb (s : State) (i : Event) : (s.later i).tlb = s.tlb := rfl
@[simp] theorem later_drained (s : State) (i : Event) : (s.later i).drained = s.drained := rfl
@[simp] theorem later_misses (s : State) (i : Event) : (s.later i).misses = s.misses := rfl
@[simp] theorem later_atomics (s : State) (i : Event) : (s.later i).atomics = s.atomics := rfl
@[simp] theorem later_faqs (s : State) (i : Event) : (s.later i).faqs = s.faqs := rfl
@[simp] theorem later_launches (s : State) (i : Event) : (s.later i).launches = s.launches := rfl
@[simp] theorem later_rects (s : State) (i : Event) : (s.later i).rects = s.rects := rfl
@[simp] theorem later_held (s : State) (i : Event) : (s.later i).held = s.held := rfl
@[simp] theorem later_phases (s : State) (i : Event) : (s.later i).phases = s.phases := rfl
@[simp] theorem later_images (s : State) (i : Event) : (s.later i).images = s.images := rfl
@[simp] theorem later_resumes (s : State) (i : Event) : (s.later i).resumes = s.resumes := rfl
@[simp] theorem later_asides (s : State) (i : Event) : (s.later i).asides = s.asides := rfl
@[simp] theorem later_matching (s : State) (i : Event) : (s.later i).matching = s.matching := rfl
@[simp] theorem later_islands (s : State) (i : Event) : (s.later i).islands = s.islands := rfl
@[simp] theorem later_lanes (s : State) (i : Event) : (s.later i).lanes = s.lanes := rfl
@[simp] theorem later_spares (s : State) (i : Event) : (s.later i).spares = s.spares := rfl
@[simp] theorem later_pauses (s : State) (i : Event) : (s.later i).pauses = s.pauses := rfl
@[simp] theorem later_lsel (s : State) (i : Event) : (s.later i).lsel = s.lsel := rfl
@[simp] theorem later_lselSet (s : State) (i : Event) : (s.later i).lselSet = s.lselSet := rfl
@[simp] theorem later_health (s : State) (i : Event) : (s.later i).health = s.health := rfl
@[simp] theorem later_fabric (s : State) (i : Event) : (s.later i).fabric = s.fabric := rfl
@[simp] theorem later_host (s : State) (i : Event) : (s.later i).host = s.host := rfl
@[simp] theorem later_mirrorLists (s : State) (i : Event) : (s.later i).mirrorLists = s.mirrorLists := rfl
@[simp] theorem later_moves (s : State) (i : Event) : (s.later i).moves = s.moves := rfl
@[simp] theorem later_turn (s : State) (i : Event) : (s.later i).turn = s.turn := rfl
@[simp] theorem later_oids (s : State) (i : Event) : (s.later i).oids = s.oids := rfl
@[simp] theorem later_cur (s : State) (i : Event) : (s.later i).cur = s.cur := rfl

/-! ### farWrote -/

@[simp] theorem farWrote_mem (s : State) (w : Writer) (pa n : Nat) : (s.farWrote w pa n).mem = s.mem := rfl
@[simp] theorem farWrote_poison (s : State) (w : Writer) (pa n : Nat) : (s.farWrote w pa n).poison = s.poison := rfl
@[simp] theorem farWrote_empty (s : State) (w : Writer) (pa n : Nat) : (s.farWrote w pa n).empty = s.empty := rfl
@[simp] theorem farWrote_dirty (s : State) (w : Writer) (pa n : Nat) : (s.farWrote w pa n).dirty = s.dirty := rfl
@[simp] theorem farWrote_lost (s : State) (w : Writer) (pa n : Nat) : (s.farWrote w pa n).lost = s.lost := rfl
@[simp] theorem farWrote_accMem (s : State) (w : Writer) (pa n : Nat) : (s.farWrote w pa n).accMem = s.accMem := rfl
@[simp] theorem farWrote_accPoison (s : State) (w : Writer) (pa n : Nat) : (s.farWrote w pa n).accPoison = s.accPoison := rfl
@[simp] theorem farWrote_far (s : State) (w : Writer) (pa n : Nat) : (s.farWrote w pa n).far = s.far := rfl
@[simp] theorem farWrote_farPoison (s : State) (w : Writer) (pa n : Nat) : (s.farWrote w pa n).farPoison = s.farPoison := rfl
@[simp] theorem farWrote_farCount (s : State) (w : Writer) (pa n : Nat) : (s.farWrote w pa n).farCount = s.farCount := rfl
@[simp] theorem farWrote_rels (s : State) (w : Writer) (pa n : Nat) : (s.farWrote w pa n).rels = s.rels := rfl
@[simp] theorem farWrote_badFrames (s : State) (w : Writer) (pa n : Nat) : (s.farWrote w pa n).badFrames = s.badFrames := rfl
@[simp] theorem farWrote_cores (s : State) (w : Writer) (pa n : Nat) : (s.farWrote w pa n).cores = s.cores := rfl
@[simp] theorem farWrote_entries (s : State) (w : Writer) (pa n : Nat) : (s.farWrote w pa n).entries = s.entries := rfl
@[simp] theorem farWrote_boxes (s : State) (w : Writer) (pa n : Nat) : (s.farWrote w pa n).boxes = s.boxes := rfl
@[simp] theorem farWrote_waits (s : State) (w : Writer) (pa n : Nat) : (s.farWrote w pa n).waits = s.waits := rfl
@[simp] theorem farWrote_slots (s : State) (w : Writer) (pa n : Nat) : (s.farWrote w pa n).slots = s.slots := rfl
@[simp] theorem farWrote_vats (s : State) (w : Writer) (pa n : Nat) : (s.farWrote w pa n).vats = s.vats := rfl
@[simp] theorem farWrote_queues (s : State) (w : Writer) (pa n : Nat) : (s.farWrote w pa n).queues = s.queues := rfl
@[simp] theorem farWrote_sems (s : State) (w : Writer) (pa n : Nat) : (s.farWrote w pa n).sems = s.sems := rfl
@[simp] theorem farWrote_tiles (s : State) (w : Writer) (pa n : Nat) : (s.farWrote w pa n).tiles = s.tiles := rfl
@[simp] theorem farWrote_runs (s : State) (w : Writer) (pa n : Nat) : (s.farWrote w pa n).runs = s.runs := rfl
@[simp] theorem farWrote_arrays (s : State) (w : Writer) (pa n : Nat) : (s.farWrote w pa n).arrays = s.arrays := rfl
@[simp] theorem farWrote_mqs (s : State) (w : Writer) (pa n : Nat) : (s.farWrote w pa n).mqs = s.mqs := rfl
@[simp] theorem farWrote_cmds (s : State) (w : Writer) (pa n : Nat) : (s.farWrote w pa n).cmds = s.cmds := rfl
@[simp] theorem farWrote_cmdSeqs (s : State) (w : Writer) (pa n : Nat) : (s.farWrote w pa n).cmdSeqs = s.cmdSeqs := rfl
@[simp] theorem farWrote_streams (s : State) (w : Writer) (pa n : Nat) : (s.farWrote w pa n).streams = s.streams := rfl
@[simp] theorem farWrote_strmEnds (s : State) (w : Writer) (pa n : Nat) : (s.farWrote w pa n).strmEnds = s.strmEnds := rfl
@[simp] theorem farWrote_tlb (s : State) (w : Writer) (pa n : Nat) : (s.farWrote w pa n).tlb = s.tlb := rfl
@[simp] theorem farWrote_drained (s : State) (w : Writer) (pa n : Nat) : (s.farWrote w pa n).drained = s.drained := rfl
@[simp] theorem farWrote_misses (s : State) (w : Writer) (pa n : Nat) : (s.farWrote w pa n).misses = s.misses := rfl
@[simp] theorem farWrote_atomics (s : State) (w : Writer) (pa n : Nat) : (s.farWrote w pa n).atomics = s.atomics := rfl
@[simp] theorem farWrote_faqs (s : State) (w : Writer) (pa n : Nat) : (s.farWrote w pa n).faqs = s.faqs := rfl
@[simp] theorem farWrote_launches (s : State) (w : Writer) (pa n : Nat) : (s.farWrote w pa n).launches = s.launches := rfl
@[simp] theorem farWrote_rects (s : State) (w : Writer) (pa n : Nat) : (s.farWrote w pa n).rects = s.rects := rfl
@[simp] theorem farWrote_held (s : State) (w : Writer) (pa n : Nat) : (s.farWrote w pa n).held = s.held := rfl
@[simp] theorem farWrote_phases (s : State) (w : Writer) (pa n : Nat) : (s.farWrote w pa n).phases = s.phases := rfl
@[simp] theorem farWrote_images (s : State) (w : Writer) (pa n : Nat) : (s.farWrote w pa n).images = s.images := rfl
@[simp] theorem farWrote_resumes (s : State) (w : Writer) (pa n : Nat) : (s.farWrote w pa n).resumes = s.resumes := rfl
@[simp] theorem farWrote_asides (s : State) (w : Writer) (pa n : Nat) : (s.farWrote w pa n).asides = s.asides := rfl
@[simp] theorem farWrote_matching (s : State) (w : Writer) (pa n : Nat) : (s.farWrote w pa n).matching = s.matching := rfl
@[simp] theorem farWrote_islands (s : State) (w : Writer) (pa n : Nat) : (s.farWrote w pa n).islands = s.islands := rfl
@[simp] theorem farWrote_lanes (s : State) (w : Writer) (pa n : Nat) : (s.farWrote w pa n).lanes = s.lanes := rfl
@[simp] theorem farWrote_spares (s : State) (w : Writer) (pa n : Nat) : (s.farWrote w pa n).spares = s.spares := rfl
@[simp] theorem farWrote_pauses (s : State) (w : Writer) (pa n : Nat) : (s.farWrote w pa n).pauses = s.pauses := rfl
@[simp] theorem farWrote_lsel (s : State) (w : Writer) (pa n : Nat) : (s.farWrote w pa n).lsel = s.lsel := rfl
@[simp] theorem farWrote_lselSet (s : State) (w : Writer) (pa n : Nat) : (s.farWrote w pa n).lselSet = s.lselSet := rfl
@[simp] theorem farWrote_health (s : State) (w : Writer) (pa n : Nat) : (s.farWrote w pa n).health = s.health := rfl
@[simp] theorem farWrote_fabric (s : State) (w : Writer) (pa n : Nat) : (s.farWrote w pa n).fabric = s.fabric := rfl
@[simp] theorem farWrote_host (s : State) (w : Writer) (pa n : Nat) : (s.farWrote w pa n).host = s.host := rfl
@[simp] theorem farWrote_agenda (s : State) (w : Writer) (pa n : Nat) : (s.farWrote w pa n).agenda = s.agenda := rfl
@[simp] theorem farWrote_mirrorLists (s : State) (w : Writer) (pa n : Nat) : (s.farWrote w pa n).mirrorLists = s.mirrorLists := rfl
@[simp] theorem farWrote_moves (s : State) (w : Writer) (pa n : Nat) : (s.farWrote w pa n).moves = s.moves := rfl
@[simp] theorem farWrote_turn (s : State) (w : Writer) (pa n : Nat) : (s.farWrote w pa n).turn = s.turn := rfl
@[simp] theorem farWrote_oids (s : State) (w : Writer) (pa n : Nat) : (s.farWrote w pa n).oids = s.oids := rfl
@[simp] theorem farWrote_cur (s : State) (w : Writer) (pa n : Nat) : (s.farWrote w pa n).cur = s.cur := rfl

/-! ### release -/

@[simp] theorem release_mem (s : State) (r : Reach) (mine : Writer → Bool) : (s.release r mine).mem = s.mem := rfl
@[simp] theorem release_poison (s : State) (r : Reach) (mine : Writer → Bool) : (s.release r mine).poison = s.poison := rfl
@[simp] theorem release_empty (s : State) (r : Reach) (mine : Writer → Bool) : (s.release r mine).empty = s.empty := rfl
@[simp] theorem release_dirty (s : State) (r : Reach) (mine : Writer → Bool) : (s.release r mine).dirty = s.dirty := rfl
@[simp] theorem release_lost (s : State) (r : Reach) (mine : Writer → Bool) : (s.release r mine).lost = s.lost := rfl
@[simp] theorem release_accMem (s : State) (r : Reach) (mine : Writer → Bool) : (s.release r mine).accMem = s.accMem := rfl
@[simp] theorem release_accPoison (s : State) (r : Reach) (mine : Writer → Bool) : (s.release r mine).accPoison = s.accPoison := rfl
@[simp] theorem release_far (s : State) (r : Reach) (mine : Writer → Bool) : (s.release r mine).far = s.far := rfl
@[simp] theorem release_farPoison (s : State) (r : Reach) (mine : Writer → Bool) : (s.release r mine).farPoison = s.farPoison := rfl
@[simp] theorem release_farCount (s : State) (r : Reach) (mine : Writer → Bool) : (s.release r mine).farCount = s.farCount := rfl
@[simp] theorem release_badFrames (s : State) (r : Reach) (mine : Writer → Bool) : (s.release r mine).badFrames = s.badFrames := rfl
@[simp] theorem release_cores (s : State) (r : Reach) (mine : Writer → Bool) : (s.release r mine).cores = s.cores := rfl
@[simp] theorem release_entries (s : State) (r : Reach) (mine : Writer → Bool) : (s.release r mine).entries = s.entries := rfl
@[simp] theorem release_boxes (s : State) (r : Reach) (mine : Writer → Bool) : (s.release r mine).boxes = s.boxes := rfl
@[simp] theorem release_waits (s : State) (r : Reach) (mine : Writer → Bool) : (s.release r mine).waits = s.waits := rfl
@[simp] theorem release_slots (s : State) (r : Reach) (mine : Writer → Bool) : (s.release r mine).slots = s.slots := rfl
@[simp] theorem release_vats (s : State) (r : Reach) (mine : Writer → Bool) : (s.release r mine).vats = s.vats := rfl
@[simp] theorem release_queues (s : State) (r : Reach) (mine : Writer → Bool) : (s.release r mine).queues = s.queues := rfl
@[simp] theorem release_sems (s : State) (r : Reach) (mine : Writer → Bool) : (s.release r mine).sems = s.sems := rfl
@[simp] theorem release_tiles (s : State) (r : Reach) (mine : Writer → Bool) : (s.release r mine).tiles = s.tiles := rfl
@[simp] theorem release_runs (s : State) (r : Reach) (mine : Writer → Bool) : (s.release r mine).runs = s.runs := rfl
@[simp] theorem release_arrays (s : State) (r : Reach) (mine : Writer → Bool) : (s.release r mine).arrays = s.arrays := rfl
@[simp] theorem release_mqs (s : State) (r : Reach) (mine : Writer → Bool) : (s.release r mine).mqs = s.mqs := rfl
@[simp] theorem release_cmds (s : State) (r : Reach) (mine : Writer → Bool) : (s.release r mine).cmds = s.cmds := rfl
@[simp] theorem release_cmdSeqs (s : State) (r : Reach) (mine : Writer → Bool) : (s.release r mine).cmdSeqs = s.cmdSeqs := rfl
@[simp] theorem release_streams (s : State) (r : Reach) (mine : Writer → Bool) : (s.release r mine).streams = s.streams := rfl
@[simp] theorem release_strmEnds (s : State) (r : Reach) (mine : Writer → Bool) : (s.release r mine).strmEnds = s.strmEnds := rfl
@[simp] theorem release_tlb (s : State) (r : Reach) (mine : Writer → Bool) : (s.release r mine).tlb = s.tlb := rfl
@[simp] theorem release_drained (s : State) (r : Reach) (mine : Writer → Bool) : (s.release r mine).drained = s.drained := rfl
@[simp] theorem release_misses (s : State) (r : Reach) (mine : Writer → Bool) : (s.release r mine).misses = s.misses := rfl
@[simp] theorem release_atomics (s : State) (r : Reach) (mine : Writer → Bool) : (s.release r mine).atomics = s.atomics := rfl
@[simp] theorem release_faqs (s : State) (r : Reach) (mine : Writer → Bool) : (s.release r mine).faqs = s.faqs := rfl
@[simp] theorem release_launches (s : State) (r : Reach) (mine : Writer → Bool) : (s.release r mine).launches = s.launches := rfl
@[simp] theorem release_rects (s : State) (r : Reach) (mine : Writer → Bool) : (s.release r mine).rects = s.rects := rfl
@[simp] theorem release_held (s : State) (r : Reach) (mine : Writer → Bool) : (s.release r mine).held = s.held := rfl
@[simp] theorem release_phases (s : State) (r : Reach) (mine : Writer → Bool) : (s.release r mine).phases = s.phases := rfl
@[simp] theorem release_images (s : State) (r : Reach) (mine : Writer → Bool) : (s.release r mine).images = s.images := rfl
@[simp] theorem release_resumes (s : State) (r : Reach) (mine : Writer → Bool) : (s.release r mine).resumes = s.resumes := rfl
@[simp] theorem release_asides (s : State) (r : Reach) (mine : Writer → Bool) : (s.release r mine).asides = s.asides := rfl
@[simp] theorem release_matching (s : State) (r : Reach) (mine : Writer → Bool) : (s.release r mine).matching = s.matching := rfl
@[simp] theorem release_islands (s : State) (r : Reach) (mine : Writer → Bool) : (s.release r mine).islands = s.islands := rfl
@[simp] theorem release_lanes (s : State) (r : Reach) (mine : Writer → Bool) : (s.release r mine).lanes = s.lanes := rfl
@[simp] theorem release_spares (s : State) (r : Reach) (mine : Writer → Bool) : (s.release r mine).spares = s.spares := rfl
@[simp] theorem release_pauses (s : State) (r : Reach) (mine : Writer → Bool) : (s.release r mine).pauses = s.pauses := rfl
@[simp] theorem release_lsel (s : State) (r : Reach) (mine : Writer → Bool) : (s.release r mine).lsel = s.lsel := rfl
@[simp] theorem release_lselSet (s : State) (r : Reach) (mine : Writer → Bool) : (s.release r mine).lselSet = s.lselSet := rfl
@[simp] theorem release_health (s : State) (r : Reach) (mine : Writer → Bool) : (s.release r mine).health = s.health := rfl
@[simp] theorem release_fabric (s : State) (r : Reach) (mine : Writer → Bool) : (s.release r mine).fabric = s.fabric := rfl
@[simp] theorem release_host (s : State) (r : Reach) (mine : Writer → Bool) : (s.release r mine).host = s.host := rfl
@[simp] theorem release_agenda (s : State) (r : Reach) (mine : Writer → Bool) : (s.release r mine).agenda = s.agenda := rfl
@[simp] theorem release_mirrorLists (s : State) (r : Reach) (mine : Writer → Bool) : (s.release r mine).mirrorLists = s.mirrorLists := rfl
@[simp] theorem release_moves (s : State) (r : Reach) (mine : Writer → Bool) : (s.release r mine).moves = s.moves := rfl
@[simp] theorem release_turn (s : State) (r : Reach) (mine : Writer → Bool) : (s.release r mine).turn = s.turn := rfl
@[simp] theorem release_oids (s : State) (r : Reach) (mine : Writer → Bool) : (s.release r mine).oids = s.oids := rfl
@[simp] theorem release_cur (s : State) (r : Reach) (mine : Writer → Bool) : (s.release r mine).cur = s.cur := rfl

/-! ### What each update writes -/

@[simp] theorem modEntry_entry_self (s : State) (k : Nat) (f : Entry → Entry) : (s.modEntry k f).entry k = f (s.entry k) := by
  simp [State.entry, State.modEntry]
@[simp] theorem modEntry_entry_ne (s : State) {k j : Nat} (f : Entry → Entry) (h : j ≠ k) : (s.modEntry k f).entry j = s.entry j := by
  simp [State.entry, State.modEntry, h]
@[simp] theorem modCore_core_self (s : State) (k : Nat) (f : Core → Core) : (s.modCore k f).core k = f (s.core k) := by
  simp [State.core, State.modCore]
@[simp] theorem modCore_core_ne (s : State) {k j : Nat} (f : Core → Core) (h : j ≠ k) : (s.modCore k f).core j = s.core j := by
  simp [State.core, State.modCore, h]
@[simp] theorem setBox_box_self (s : State) (k c : Nat) (b : List BoxWord) : (s.setBox k c b).box k c = b := by
  simp [State.box, State.setBox]
@[simp] theorem setQueue_queue_self (s : State) (n q : Nat) (l : List QEntry) : (s.setQueue n q l).queue n q = l := by
  simp [State.queue, State.setQueue]
@[simp] theorem setTile_tile_self (s : State) (n e : Nat) (t : Tile) : (s.setTile n e t).tile n e = t := by
  simp [State.tile, State.setTile]
@[simp] theorem setSem_semCount_self (s : State) (n i v : Nat) : (s.setSem n i v).semCount n i = v := by
  simp [State.semCount, State.setSem]
@[simp] theorem release_rels (s : State) (r : Reach) (mine : Writer → Bool) : (s.release r mine).rels = s.rels + 1 := rfl
@[simp] theorem poke_entry (s : State) (a n v k : Nat) : (s.poke a n v).entry k = s.entry k := rfl
@[simp] theorem poke_curKey (s : State) (a n v : Nat) : (s.poke a n v).curKey = s.curKey := rfl
@[simp] theorem poke_curEntry (s : State) (a n v : Nat) : (s.poke a n v).curEntry = s.curEntry := rfl
@[simp] theorem poke_node (s : State) (a n v : Nat) : (s.poke a n v).node = s.node := rfl
@[simp] theorem modEntry_curKey (s : State) (k : Nat) (f : Entry → Entry) : (s.modEntry k f).curKey = s.curKey := rfl
@[simp] theorem modEntry_node (s : State) (k : Nat) (f : Entry → Entry) : (s.modEntry k f).node = s.node := rfl
@[simp] theorem later_curEntry (s : State) (i : Event) : (s.later i).curEntry = s.curEntry := rfl
@[simp] theorem setBox_curEntry (s : State) (k c : Nat) (b : List BoxWord) : (s.setBox k c b).curEntry = s.curEntry := rfl
@[simp] theorem setQueue_curEntry (s : State) (n q : Nat) (l : List QEntry) : (s.setQueue n q l).curEntry = s.curEntry := rfl
@[simp] theorem modCore_curEntry (s : State) (k : Nat) (f : Core → Core) : (s.modCore k f).curEntry = s.curEntry := rfl

end Sys2Proof.Machine
end

