-- ==== Sys2Proof/Laws/Canonical.lean ====
section
/-!
SUPPORT. Every operation that writes a store keeps all three stores in canonical form, and reset has it. The scratchpad, the accumulator
memory and far memory are written by the operations of this file alone; every other update leaves the three stores as they are.
-/
namespace Sys2Proof.Machine
open Sys2Proof

theorem memOk_iff (s : State) : s.memOk = true ↔
    Memory.wf (scratchFill s.lost) s.mem = true ∧ Memory.wf zeroFill s.accMem = true ∧ Memory.wf zeroFill s.far = true := by
  simp [State.memOk, and_assoc]

/-- An update that leaves the stores alone keeps their form. -/
theorem memOk_of_eq {s t : State} (h : s.memOk = true) (hl : t.lost = s.lost) (hm : t.mem = s.mem) (ha : t.accMem = s.accMem)
    (hf : t.far = s.far) : t.memOk = true := by
  simpa only [State.memOk, hl, hm, ha, hf] using h

/-- A fold keeps the form if each of its steps does. -/
theorem memOk_foldl {α : Type} {f : State → α → State} (hf : ∀ s x, s.memOk = true → (f s x).memOk = true) :
    ∀ (l : List α) {s : State}, s.memOk = true → (l.foldl f s).memOk = true
  | [], _, h => h
  | x :: r, s, h => memOk_foldl hf r (hf s x h)

theorem memOk_reset : State.reset.memOk = true := rfl

theorem memOk_poke {s : State} (h : s.memOk = true) (a n v : Nat) : (s.poke a n v).memOk = true := by
  rw [memOk_iff] at h ⊢; exact ⟨memWf_storeN h.1, h.2⟩

theorem memOk_mark {s : State} (h : s.memOk = true) (a n : Nat) : (s.mark a n).memOk = true := by
  unfold State.mark; split <;> exact h

theorem memOk_scrub {s : State} (h : s.memOk = true) (node ws : Nat) : (s.scrub node ws).memOk = true := by
  unfold State.scrub; extract_lets a; split
  · rw [memOk_iff] at h ⊢; exact ⟨memWf_storeN h.1, h.2⟩
  · exact h

theorem memOk_release {s : State} (h : s.memOk = true) (r : Reach) (mine : Writer → Bool) : (s.release r mine).memOk = true := h

theorem memOk_farWrote {s : State} (h : s.memOk = true) (w : Writer) (pa n : Nat) : (s.farWrote w pa n).memOk = true := h

theorem memOk_setAccRow {s : State} (h : s.memOk = true) (node first row v : Nat) : (s.setAccRow node first row v).memOk = true := by
  rw [memOk_iff] at h ⊢; exact ⟨h.1, memWf_storeN h.2.1, h.2.2⟩

theorem memOk_setAccBad {s : State} (h : s.memOk = true) (node first row : Nat) (b : Bool) :
    (s.setAccBad node first row b).memOk = true := h

theorem memOk_zeroRun {s : State} (h : s.memOk = true) (node first count : Nat) : (s.zeroRun node first count).memOk = true := by
  rw [memOk_iff] at h ⊢; exact ⟨h.1, memWf_storeN h.2.1, h.2.2⟩

theorem memOk_farPoke {s : State} (h : s.memOk = true) (pa n v : Nat) : (s.farPoke pa n v).memOk = true := by
  rw [memOk_iff] at h ⊢; exact ⟨h.1, h.2.1, memWf_storeN h.2.2⟩

theorem memOk_addPartial {s : State} (h : s.memOk = true) (rm node first : Nat) (r : Run) (q : Partial) :
    (s.addPartial rm node first r q).1.memOk = true := by
  refine memOk_of_eq (s := (List.range (8 * r.count)).foldl _ _) (memOk_foldl ?_ _ (s := { s with accMem := storeN _ _ _ _ _ }) ?_)
    rfl rfl rfl rfl
  · intro s row h; split
    · exact memOk_setAccBad h ..
    · exact h
  · rw [memOk_iff] at h ⊢; exact ⟨h.1, memWf_storeN h.2.1, h.2.2⟩

theorem memOk_loadCode {s : State} (h : s.memOk = true) (code : List (Nat × Nat × Nat)) : (s.loadCode code).memOk = true :=
  memOk_foldl (fun s _ h => by rw [memOk_iff] at h ⊢; exact ⟨memWf_storeN h.1, h.2⟩) code h

theorem memOk_fillLines {s : State} (h : s.memOk = true) (a n : Nat) : (s.fillLines a n).memOk = true := by
  first | exact h | (unfold State.fillLines; split <;> exact h)

theorem memOk_emptyLines {s : State} (h : s.memOk = true) (a n : Nat) : (s.emptyLines a n).memOk = true := by
  first | exact h | (unfold State.emptyLines; split <;> exact h)

theorem memOk_restoreBytes {s : State} (h : s.memOk = true) (node sl : Nat) (r : Slot) (x : VatBytes) :
    (s.restoreBytes node sl r x).memOk = true := by
  unfold State.restoreBytes
  extract_lets window full mark win s1 s2 s3
  have hm : ∀ {s : State} off a n, s.memOk = true → (mark s off a n).memOk = true := fun _ _ _ h =>
    memOk_foldl (fun s _ h => memOk_mark h ..) _ h
  have h1 : s1.memOk = true := hm _ _ _ (memOk_poke h ..)
  have h2 : s2.memOk = true := memOk_foldl (fun s i h => by
    extract_lets a t
    have ht : t.memOk = true := hm _ _ _ (memOk_poke h ..)
    split
    · exact memOk_fillLines ht ..
    · exact memOk_emptyLines ht ..) _ h1
  have h3 : s3.memOk = true := memOk_foldl (fun s b h => by
    extract_lets t
    have ht : t.memOk = true := by rw [memOk_iff] at h ⊢; exact ⟨h.1, memWf_storeN h.2.1, h.2.2⟩
    exact memOk_foldl (fun s i h => memOk_setAccBad h ..) _ ht) _ h2
  exact h3

end Sys2Proof.Machine
end

