-- ==== Sys2Proof/Laws/Cycles.lean ====
section
/-!
SUPPORT. What a rectangle's slot keeps of its queue's cycle and of the replies it is owed, and what an activation has seen.
-/
namespace Sys2Proof.Machine
open Sys2Proof

variable {s : State} {node sl : Nat} {r : Slot}

/-! ### modSlot -/

theorem modSlot_eq (f : Slot → Slot) (h : s.slot? node sl = some r) :
    s.modSlot node sl f = { s with slots := mset s.slots (4 * node + sl) (f r) } := by
  rw [State.slot?] at h
  rw [State.modSlot, h]

theorem modSlot_free (f : Slot → Slot) (h : s.slot? node sl = none) : s.modSlot node sl f = s := by
  rw [State.slot?] at h
  rw [State.modSlot, h]

/-- Whether or not the slot is taken, an update of it changes the slots alone. -/
theorem modSlot_frame (s : State) (node sl : Nat) (f : Slot → Slot) : s.modSlot node sl f = { s with slots := (s.modSlot node sl f).slots } := by
  cases h : s.slot? node sl with
  | none => rw [modSlot_free f h]
  | some r => rw [modSlot_eq f h]

theorem modSlot_slot_self (f : Slot → Slot) : (s.modSlot node sl f).slot? node sl = (s.slot? node sl).map f := by
  cases h : s.slot? node sl with
  | none => simp [modSlot_free f h, h]
  | some r => rw [modSlot_eq f h]; exact mget?_mset_self _ _ _

theorem modSlot_slot_ne (f : Slot → Slot) {n i : Nat} (hne : 4 * n + i ≠ 4 * node + sl) : (s.modSlot node sl f).slot? n i = s.slot? n i := by
  cases h : s.slot? node sl with
  | none => rw [modSlot_free f h]
  | some r => rw [modSlot_eq f h]; exact mget?_mset_ne _ _ hne

/-! ### The cycles of a Mordant queue (R182) -/

theorem newCycle_empty (h : (s.recsOf node sl).isEmpty = true) : s.newCycle node sl = s := by simp [State.newCycle, h]

/-- A core's first action in a cycle whose phase 3 is still to come only notes the core. -/
theorem joinCycle_first {who : Nat} {late : Slot → Bool} (hr : s.slot? node sl = some r) (hq : (s.recsOf node sl).isEmpty = false)
    (hc : r.closed = false) (hw : r.cycle.contains who = false) (hl : late r = false) :
    s.joinCycle node sl who late = s.modSlot node sl (fun r => { r with cycle := setAdd r.cycle who }) := by
  simp only [State.joinCycle, hr, hq, hc, hw, hl, Bool.or_false, Bool.false_eq_true, if_false]

/-- Where the core has acted in the cycle, its phase 3 is over or the action is late, the next cycle begins before it. -/
theorem joinCycle_next {who : Nat} {late : Slot → Bool} (hr : s.slot? node sl = some r) (hq : (s.recsOf node sl).isEmpty = false)
    (h : (r.closed || r.cycle.contains who || late r) = true) :
    s.joinCycle node sl who late = (s.newCycle node sl).modSlot node sl (fun r => { r with cycle := setAdd r.cycle who }) := by
  simp only [State.joinCycle, hr, hq, h, Bool.false_eq_true, if_false, if_true]

theorem joinCycle_empty {who : Nat} {late : Slot → Bool} (h : (s.recsOf node sl).isEmpty = true) : s.joinCycle node sl who late = s := by
  rw [State.joinCycle]
  split
  · rfl
  · rw [if_pos h]

/-! ### Replies owed (R158, R321) -/

@[simp] theorem owes_setOwes_self (r : Slot) (tag n : Nat) : (r.setOwes tag n).owes tag = n := by
  by_cases h : n = 0
  · simp [Slot.owes, Slot.setOwes, h, mget, mget?_mdel_self]
  · simp [Slot.owes, Slot.setOwes, h]

@[simp] theorem owes_setOwes_ne (r : Slot) {tag t : Nat} (n : Nat) (h : t ≠ tag) : (r.setOwes tag n).owes t = r.owes t := by
  by_cases hn : n = 0
  · simp [Slot.owes, Slot.setOwes, hn, mget, mget?_mdel_ne _ h]
  · simp [Slot.owes, Slot.setOwes, hn, h]

/-- A REPLY whose destination names no SENDR that the rectangle owes goes where the destination says, and nothing changes. -/
theorem answer_none {lid ck c : Nat} (h : ∀ p ∈ s.slots, p.2.lid = lid → p.2.owes (16 * ck + c) = 0) : s.answer lid ck c = (ck, 0, s) := by
  have : s.slots.find? (fun p => p.2.lid == lid && p.2.owes (16 * ck + c) != 0) = none := by
    rw [List.find?_eq_none]
    intro p hp
    by_cases e : p.2.lid = lid
    · simp [h p hp e]
    · simp [e]
  simp only [State.answer, this]

@[simp] theorem sendTo_other {kind : Nat} (h : kind ≠ 2) (lid ck c : Nat) : s.sendTo kind lid ck c = (ck, 0, s) := by
  simp [State.sendTo, h]

/-! ### What an activation has seen (R231) -/

@[simp] theorem nearSeen_self (s : State) (k n : Nat) : mget ((s.nearSeen k n).entry k).nearAt n 0 = s.turn + 1 := by simp [State.nearSeen]
@[simp] theorem farSeen_self (s : State) (k n : Nat) : mget ((s.farSeen k n).entry k).readAt n 0 = s.turn + 1 := by simp [State.farSeen]
theorem nearSeen_other (s : State) (k : Nat) {n m : Nat} (h : m ≠ n) : mget ((s.nearSeen k n).entry k).nearAt m 0 = mget (s.entry k).nearAt m 0 := by
  simp [State.nearSeen, h]
theorem farSeen_other (s : State) (k : Nat) {n m : Nat} (h : m ≠ n) : mget ((s.farSeen k n).entry k).readAt m 0 = mget (s.entry k).readAt m 0 := by
  simp [State.farSeen, h]

/-- Noting the same access again in the same turn adds nothing. -/
theorem nearSeen_idem (s : State) (k n : Nat) : (s.nearSeen k n).nearSeen k n = s.nearSeen k n := by
  simp [State.nearSeen, State.modEntry, mmod, mset_mset]
theorem farSeen_idem (s : State) (k n : Nat) : (s.farSeen k n).farSeen k n = s.farSeen k n := by
  simp [State.farSeen, State.modEntry, mmod, mset_mset]

end Sys2Proof.Machine
end

