-- ==== Sys2Proof/Laws/Run.lean ====
section
/-!
SUPPORT. How the body of an instruction runs: one lemma for each shared operation, in the terms of Claims.lean, and the two ways in which the
machine and `exec` reach one meaning.
-/
namespace Sys2Proof.Machine
open Sys2Proof Sys2Proof.Claims

variable {α β : Type} {s t orig : State} {bad : Option Nat} {c c' : Ctx}

/-! ### Sequencing -/

/-- A body whose first part succeeds goes on with its result. -/
theorem bind_ok {f : M α} {g : α → M β} {x : α} (h : f c = .ok (x, c')) : (f >>= g) c = g x c' := by
  simp only [bind, StateT.bind, h, Except.bind]

/-- A body whose first part stops, stops. -/
theorem bind_error {f : M α} {g : α → M β} {e : Stop} (h : f c = .error e) : (f >>= g) c = .error e := by
  simp only [bind, StateT.bind, h, Except.bind]

/-- A body that succeeds has a first part that succeeds. -/
theorem bind_inv {f : M α} {g : α → M β} {r : β × Ctx} (h : (f >>= g) c = .ok r) :
    ∃ x c', f c = .ok (x, c') ∧ g x c' = .ok r := by
  simp only [bind, StateT.bind, Except.bind] at h
  split at h
  · cases h
  · rename_i p hp; exact ⟨p.1, p.2, by simpa using hp, h⟩

@[simp] theorem run_pure (x : α) : (pure x : M α) c = .ok (x, c) := rfl
@[simp] theorem run_getS : getS ⟨s, orig, bad⟩ = .ok (s, ⟨s, orig, bad⟩) := rfl
@[simp] theorem run_modS (f : State → State) : modS f ⟨s, orig, bad⟩ = .ok ((), ⟨f s, orig, bad⟩) := rfl
@[simp] theorem run_advance (n : Nat) : advance n ⟨s, orig, bad⟩ = .ok ((), ⟨past n s, orig, bad⟩) := rfl
@[simp] theorem run_raiseFlags (f : FFlags) : raiseFlags f ⟨s, orig, bad⟩ = .ok ((), ⟨flagged f s, orig, bad⟩) := rfl
@[simp] theorem run_jumpTo (n disp : Nat) :
    jumpTo n disp ⟨s, orig, bad⟩ =
      .ok ((), ⟨s.modEntry s.curKey (fun e => { e with ip := branchTarget e.ip n disp }), orig, bad⟩) := rfl
@[simp] theorem run_roundMode : roundMode ⟨s, orig, bad⟩ = .ok (stRM s.curEntry.st, ⟨s, orig, bad⟩) := rfl

/-- An encoded instruction whose body runs to its end on a running entry answers that body's state. -/
theorem runInstr_ok {ext op : Nat} {body : M Unit} (hr : running s ext = true)
    (hb : body ⟨s, s, none⟩ = .ok ((), ⟨t, orig, none⟩)) : runInstr ext op body s = .next t := by
  simp only [running, Bool.and_eq_true, beq_iff_eq] at hr
  have h1 : (s.curEntry.state != EState.active) = false := by simp [hr.1]
  simp only [runInstr, h1, hr.2, StateT.run, hb, finish]
  rfl

/-- An encoded instruction of a running entry whose body stops: a block that changes nothing. -/
theorem runInstr_block {ext op : Nat} {body : M Unit} {wt : Wait} (hr : running s ext = true)
    (hb : body ⟨s, s, none⟩ = .error (.block wt)) : runInstr ext op body s = .next (s.blockEntry s.curKey wt) := by
  simp only [running, Bool.and_eq_true, beq_iff_eq] at hr
  have h1 : (s.curEntry.state != EState.active) = false := by simp [hr.1]
  simp only [runInstr, h1, hr.2, StateT.run, hb, finish]
  rfl

/-- A body that sends its request and waits. -/
theorem runInstr_blockIn {ext op : Nat} {body : M Unit} {wt : Wait} (hr : running s ext = true)
    (hb : body ⟨s, s, none⟩ = .error (.blockIn t wt)) : runInstr ext op body s = .next (t.blockEntry s.curKey wt) := by
  simp only [running, Bool.and_eq_true, beq_iff_eq] at hr
  have h1 : (s.curEntry.state != EState.active) = false := by simp [hr.1]
  simp only [runInstr, h1, hr.2, StateT.run, hb, finish]
  rfl

/-- A body that meets a trap condition. -/
theorem runInstr_trap {ext op : Nat} {body : M Unit} {cause info : Nat} {next : Bool} (hr : running s ext = true)
    (hb : body ⟨s, s, none⟩ = .error (.trap cause info next)) :
    runInstr ext op body s = .next (s.takeTrap s.curKey cause info next) := by
  simp only [running, Bool.and_eq_true, beq_iff_eq] at hr
  have h1 : (s.curEntry.state != EState.active) = false := by simp [hr.1]
  simp only [runInstr, h1, hr.2, StateT.run, hb, finish]
  rfl

/-- Every encoded instruction of an ACTIVE entry answers a next state. -/
theorem runInstr_next {ext op : Nat} {body : M Unit} (h : s.curEntry.state = .active) :
    ∃ t, runInstr ext op body s = .next t := by
  simp only [runInstr, h, bne_self_eq_false, Bool.false_eq_true, if_false]
  split
  · exact ⟨_, rfl⟩
  · simp only [finish]
    split
    · split <;> exact ⟨_, rfl⟩
    all_goals exact ⟨_, rfl⟩

/-! ### Checks -/

theorem run_checkAll {cs : List Check} (h : cs.all (·.ok) = true) : checkAll cs c = .ok ((), c) := by
  induction cs with
  | nil => rfl
  | cons x r ih =>
    simp only [List.all_cons, Bool.and_eq_true] at h
    simp only [checkAll, h.1, if_true]
    exact ih h.2

theorem run_classes {f : State → List Check} (h : (f s).all (·.ok) = true) :
    classes f ⟨s, orig, bad⟩ = .ok ((), ⟨s, orig, bad⟩) := by
  rw [classes, bind_ok run_getS]; exact run_checkAll h

/-! ### Memory and registers -/

theorem run_readSp {a n : Nat} (h : readable s a n = true) : readSp a n ⟨s, orig, bad⟩ = .ok (s.peek a n, ⟨s, orig, bad⟩) := by
  simp only [readable, Bool.and_eq_true, Bool.not_eq_true', Option.isNone_iff_eq_none] at h
  rw [readSp, bind_ok run_getS]
  simp only [h.1, h.2]
  rfl

@[simp] theorem run_regAddr (off : Nat) : regAddr off ⟨s, orig, bad⟩ = .ok (work s off, ⟨s, orig, bad⟩) := rfl

theorem run_readReg {off n : Nat} (h : regOk s off n = true) : readReg off n ⟨s, orig, bad⟩ = .ok (regVal s off n, ⟨s, orig, bad⟩) := by
  rw [readReg, bind_ok (run_regAddr off)]; exact run_readSp h

/-- A register that no tile holds is written. -/
theorem run_writeReg {off n : Nat} (h : regFree s off n = true) (v : Nat) :
    writeReg off n v ⟨s, orig, bad⟩ = .ok ((), ⟨setReg s off n v, orig, bad⟩) := by
  rw [writeReg, bind_ok run_getS]
  simp only [regFree, Bool.not_eq_true'] at h
  simp only [h]; rfl

/-- A write of a register that a tile holds waits (R223). -/
theorem run_writeReg_held {off n : Nat} (h : regFree s off n = false) (v : Nat) :
    writeReg off n v ⟨s, orig, bad⟩ = .error (.block .retry) := by
  rw [writeReg, bind_ok run_getS]
  simp only [regFree, Bool.not_eq_false'] at h
  simp only [h, if_true]; rfl

/-- Writing a register leaves the tile table and the workspace. -/
@[simp] theorem regFree_setReg (off n v off' n' : Nat) : regFree (setReg s off' n' v) off n = regFree s off n := rfl
@[simp] theorem regFree_past (k off n : Nat) : regFree (past k s) off n = regFree s off n := by
  have hk : (past k s).curKey = s.curKey := rfl
  have hw : ((past k s).entry s.curKey).wp = (s.entry s.curKey).wp := by simp [past, State.modEntry, State.entry]
  simp only [regFree, State.regsHeld, hk, hw]; rfl

/-- Bytes inside a register that can be written can be written. -/
theorem regFree_sub {off n off' n' : Nat} (h : regFree s off n = true) (h1 : off ≤ off') (h2 : off' + n' ≤ off + n) :
    regFree s off' n' = true := by
  simp only [regFree, State.regsHeld, State.tileHeld, Bool.not_eq_true', List.any_eq_false] at *
  intro p hp
  refine h p ?_
  simp only [State.tilesMeeting] at *
  split at hp
  · simp at hp
  rename_i hn
  have hn' : n' ≠ 0 := by simpa using hn
  have : (n == 0) = false := by simp; omega
  simp only [this, Bool.false_eq_true, if_false, List.mem_map, List.mem_filter, Bool.and_eq_true, decide_eq_true_eq] at *
  obtain ⟨q, ⟨hq, ⟨⟨a, b⟩, c⟩, d⟩, rfl⟩ := hp
  refine ⟨q, ⟨hq, ⟨⟨a, b⟩, c.trans (Nat.div_le_div_right (by omega))⟩, lt_of_le_of_lt (Nat.div_le_div_right (by omega)) d⟩, rfl⟩

theorem run_readW {i : Nat} (h : wOk s i = true) : readW i ⟨s, orig, bad⟩ = .ok (wVal s i, ⟨s, orig, bad⟩) := by
  rw [readW, bind_ok (run_readReg h)]; rfl
theorem run_writeW {i : Nat} (h : wFree s i = true) (v : Word) : writeW i v ⟨s, orig, bad⟩ = .ok ((), ⟨setW s i v, orig, bad⟩) :=
  run_writeReg h _
theorem run_readM {i : Nat} (h : mOk s i = true) : readM i ⟨s, orig, bad⟩ = .ok (mVal s i, ⟨s, orig, bad⟩) := by
  rw [readM, bind_ok (run_readReg h)]; rfl
theorem run_writeM {i : Nat} (h : mFree s i = true) (v : Word) : writeM i v ⟨s, orig, bad⟩ = .ok ((), ⟨setM s i v, orig, bad⟩) :=
  run_writeReg h _

@[simp] theorem run_readTag (j : Nat) : readTag j ⟨s, orig, bad⟩ = .ok (tagOf s j, ⟨s, orig, bad⟩) := rfl
theorem run_writeTag {j : Nat} (h : regFree s 0x560 16 = true) (t : Nat) :
    writeTag j t ⟨s, orig, bad⟩ = .ok ((), ⟨setTag s j t, orig, bad⟩) := by
  have : tagWords ⟨s, orig, bad⟩ = .ok (tags s, ⟨s, orig, bad⟩) := rfl
  rw [writeTag, bind_ok this]; exact run_writeReg h _

theorem run_readK {k : Nat} (h : kOk s k = true) : readK k ⟨s, orig, bad⟩ = .ok (kWord s k, ⟨s, orig, bad⟩) := by
  rw [readK, bind_ok run_getS]
  rw [bind_ok (run_readSp (a := spAddr s.node (0x800 * s.curEntry.slot + 8 * k)) h)]
  by_cases h7 : k = 7 ∧ s.node < 2048
  · simp [kWord, h7, roleOf, State.coreNo]
  · have : (k == 7 && !decide (2048 ≤ s.node)) = false := by
      simp only [Bool.and_eq_false_iff, beq_eq_false_iff_ne, Bool.not_eq_false', decide_eq_true_eq]
      by_cases hk : k = 7
      · right; have := fun h => h7 ⟨hk, h⟩; omega
      · left; exact hk
    simp only [this, kWord, if_neg h7]
    rfl

/-! ### Operand fields -/

theorem run_popQ {q : Nat} {e : QEntry} {r : List QEntry} (h : takeEntry s.curEntry.slot (s.queue s.node q) = some (e, r)) :
    popQ q ⟨s, orig, bad⟩ = .ok (e, ⟨s.setQueue s.node q r, orig, bad⟩) := by
  rw [popQ, bind_ok run_getS]
  simp only [h]
  rfl

theorem run_pushQ {q t v : Nat} (h : s.hasRoom s.node q = true) :
    pushQ q t v ⟨s, orig, bad⟩ = .ok ((), ⟨s.setQueue s.node q (s.queue s.node q ++ [⟨s.curEntry.slot, t, v⟩]), orig, bad⟩) := by
  rw [pushQ, bind_ok run_getS]
  simp only [h, if_true]
  rfl

theorem run_popC {ch : Nat} {h : BoxWord} {r : List BoxWord} (hb : s.box s.cur.ck ch = h :: r) :
    popC ch ⟨s, orig, bad⟩ =
      .ok (h.val, ⟨if h.acq then (s.setBox s.cur.ck ch r).newPhase s.curKey else s.setBox s.cur.ck ch r, orig, bad⟩) := by
  rw [popC, bind_ok run_getS]
  simp only [hb]
  rw [bind_ok (run_modS _)]
  by_cases ha : h.acq = true
  · simp only [ha, if_true]; rfl
  · simp only [ha]; rfl

/-- A word source field whose class has been checked reads what `source` says. -/
theorem run_srcW {f : Nat} {v : Word} (h : source s f = some (v, t)) : srcW f ⟨s, orig, bad⟩ = .ok (v, ⟨t, orig, bad⟩) := by
  unfold source at h
  unfold srcW
  split at h
  · rename_i hf
    split at h
    · rename_i hw
      simp only [Option.some.injEq, Prod.mk.injEq] at h
      obtain ⟨rfl, rfl⟩ := h
      simp only [isW, hf, decide_true, if_true]
      exact run_readW hw
    · cases h
  · rename_i hf
    split at h
    · cases h
    · rename_i hf2
      have hw : isW f = false := by simp [isW]; omega
      split at h
      · rename_i hq
        have hq' : isQueue f = true := by simp [isQueue]; omega
        simp only [Option.map_eq_some_iff, Prod.mk.injEq] at h
        obtain ⟨p, hp, rfl, rfl⟩ := h
        simp only [hw, hq', Bool.false_eq_true, if_false, if_true]
        rw [bind_ok (run_popQ (e := p.1) (r := p.2) hp)]
        rfl
      · rename_i hq
        have hq' : isQueue f = false := by simp [isQueue]; omega
        split at h
        · rename_i hc
          have hc' : isChan f = true := by simp [isChan]; omega
          simp only [hw, hq', hc', Bool.false_eq_true, if_false, if_true]
          split at h
          · cases h
          · rename_i x r hb
            simp only [Option.some.injEq, Prod.mk.injEq] at h
            obtain ⟨rfl, rfl⟩ := h
            exact run_popC hb
        · rename_i hc
          have hc' : isChan f = false := by simp [isChan]; omega
          simp only [hw, hq', hc', Bool.false_eq_true, if_false]
          split at h
          · rename_i hm
            simp only [Option.some.injEq, Prod.mk.injEq] at h
            obtain ⟨rfl, rfl⟩ := h
            exact run_readM hm
          · cases h

/-- A word destination field whose class has been checked takes a value as `dest` says. -/
theorem run_dstW {f : Nat} {v : Word} (h : dest s f v = some t) : dstW f v ⟨s, orig, bad⟩ = .ok ((), ⟨t, orig, bad⟩) := by
  unfold dest at h
  unfold dstW
  split at h
  · rename_i hf
    split at h
    · rename_i hw
      simp only [Option.some.injEq] at h; subst h
      simp only [isW, hf, decide_true, if_true]; exact run_writeW hw v
    · cases h
  · rename_i hf
    split at h
    · cases h
    · have hw : isW f = false := by simp [isW]; omega
      split at h
      · have hq' : isQueue f = true := by simp [isQueue]; omega
        split at h
        · rename_i hr
          simp only [Option.some.injEq] at h; subst h
          simp only [hw, hq', Bool.false_eq_true, if_false, if_true]
          exact run_pushQ hr
        · cases h
      · have hq' : isQueue f = false := by simp [isQueue]; omega
        split at h
        · rename_i hm
          simp only [Option.some.injEq] at h; subst h
          simp only [hw, hq', Bool.false_eq_true, if_false]; exact run_writeM hm v
        · cases h

/-- V register `n` reads what `vRead` says. -/
theorem run_readV {n : Nat} {v : VVal} (h : vRead s n = some (v, t)) : readV n ⟨s, orig, bad⟩ = .ok (v, ⟨t, orig, bad⟩) := by
  unfold vRead at h
  rw [readV, bind_ok run_getS]
  split at h
  · rename_i hs
    simp only [hs]
    split at h
    · rename_i hr
      simp only [Option.some.injEq, Prod.mk.injEq] at h
      obtain ⟨rfl, rfl⟩ := h
      rw [bind_ok (run_readTag n), bind_ok (run_readReg hr)]; rfl
    · cases h
  · rename_i u hs
    simp only [hs]
    unfold popStrip
    split at h
    · rename_i x r hf
      simp only [Option.some.injEq, Prod.mk.injEq] at h
      obtain ⟨rfl, rfl⟩ := h
      simp only [hf]
      by_cases hc : u.popped + 1 = stripCount u ∧ u.ended = false
      · have : (u.popped + 1 == stripCount u && !u.ended) = true := by simp [hc.1, hc.2]
        simp only [this, if_pos hc, if_true]
        rfl
      · have : (u.popped + 1 == stripCount u && !u.ended) = false := by
          simp only [Bool.and_eq_false_iff, beq_eq_false_iff_ne, Bool.not_eq_false']
          by_cases he : u.ended = false
          · left; exact fun hp => hc ⟨hp, he⟩
          · right; simpa using he
        simp only [this, if_neg hc,
          Bool.false_eq_true, if_false]
        rfl
    · rename_i hf
      simp only [hf]
      split at h
      · rename_i he
        simp only [Option.some.injEq, Prod.mk.injEq] at h
        obtain ⟨rfl, rfl⟩ := h
        simp only [he, hf, if_true]; rfl
      · cases h

/-- A V source field whose class has been checked reads what `vSourceOf` says. -/
theorem run_srcV {f : Nat} {v : VVal} (hv : isV f = true ∨ isVQueue f = true) (h : vSourceOf s f = some (v, t)) :
    srcV f ⟨s, orig, bad⟩ = .ok (v, ⟨t, orig, bad⟩) := by
  unfold vSourceOf at h
  unfold srcV
  simp only [isV, isVQueue, Bool.and_eq_true, decide_eq_true_eq] at hv
  split at h
  · have : isV f = true := by simp [isV]; omega
    simp only [this, if_true]; exact run_readV h
  · have : isV f = false := by simp [isV]; omega
    simp only [Option.map_eq_some_iff, Prod.mk.injEq] at h
    obtain ⟨p, hp, rfl, rfl⟩ := h
    simp only [this, Bool.false_eq_true, if_false]
    rw [bind_ok (run_popQ (e := p.1) (r := p.2) hp)]; rfl

/-- 64 bytes go to a V destination field as `vDestOf` says. -/
theorem run_dstV {f tg v : Nat} (hv : isV f = true ∨ isVQueue f = true) (h : vDestOf s f tg v = some t) :
    dstV f tg v ⟨s, orig, bad⟩ = .ok ((), ⟨t, orig, bad⟩) := by
  unfold vDestOf at h
  unfold dstV
  simp only [isV, isVQueue, Bool.and_eq_true, decide_eq_true_eq] at hv
  split at h
  · have : isV f = true := by simp [isV]; omega
    split at h
    · rename_i hv
      simp only [vFree, Bool.and_eq_true] at hv
      simp only [Option.some.injEq] at h; subst h
      simp only [this, if_true]
      rw [bind_ok (run_writeReg hv.1 _)]; exact run_writeTag (by simpa using hv.2) _
    · cases h
  · have : isV f = false := by simp [isV]; omega
    split at h
    · rename_i hr
      simp only [Option.some.injEq] at h; subst h
      simp only [this, Bool.false_eq_true, if_false]; exact run_pushQ hr
    · cases h

theorem run_writeSome {off n m : Nat} (ls : List (Option Nat)) : ∀ (s : State) (i : Nat), regFree s off m = true →
    n * (i + ls.length) ≤ m → writeSome off n i ls ⟨s, orig, bad⟩ = .ok ((), ⟨setLanes n off s i ls, orig, bad⟩) := by
  induction ls with
  | nil => intro s i _ _; rfl
  | cons x r ih =>
    intro s i hf hm
    simp only [List.length_cons] at hm
    have hm' : n * (i + 1 + r.length) ≤ m := by rw [show i + 1 + r.length = i + (r.length + 1) by ring]; exact hm
    cases x with
    | none => exact ih s (i + 1) hf hm'
    | some v =>
      have : n * i + n ≤ m := by
        refine le_trans ?_ hm'; rw [show n * i + n = n * (i + 1) by ring]; exact Nat.mul_le_mul_left _ (by omega)
      rw [writeSome, bind_ok (run_writeReg (regFree_sub hf (by omega) (by omega)) _)]
      exact ih _ (i + 1) (by simpa using hf) hm'

@[simp] theorem regFree_setLanes (n off o m : Nat) (ls : List (Option Nat)) : ∀ (s : State) (i : Nat),
    regFree (setLanes n off s i ls) o m = regFree s o m := by
  induction ls with
  | nil => intro s i; rfl
  | cons x r ih => intro s i; cases x <;> simp [setLanes, ih]

/-- Lanes go to a V destination field as `vLanesTo` says. -/
theorem run_dstLanes {f tg wd : Nat} {ls : List (Option Nat)} (hv : isV f = true ∨ isVQueue f = true)
    (h8 : wd = 8 * (wd / 8)) (hl : wd / 8 * ls.length ≤ 64) (h : vLanesTo s f tg (wd / 8) ls = some t) :
    dstLanes f tg wd ls ⟨s, orig, bad⟩ = .ok ((), ⟨t, orig, bad⟩) := by
  unfold vLanesTo at h
  unfold dstLanes
  have hv' := hv
  simp only [isV, isVQueue, Bool.and_eq_true, decide_eq_true_eq] at hv
  split at h
  · rename_i hc
    have : isV f = true := by simp [isV]; omega
    split at h
    · rename_i hv
      simp only [vFree, Bool.and_eq_true] at hv
      simp only [Option.some.injEq] at h; subst h
      simp only [this, hc.2, Bool.and_self, if_true]
      rw [bind_ok (run_writeSome ls s 0 hv.1 (by simpa using hl))]; exact run_writeTag (by simpa using hv.2) _
    · cases h
  · rename_i hc
    have hn : (isV f && ls.any (·.isNone)) = false := by
      rw [Bool.and_eq_false_iff]
      by_cases hf : f < 32
      · right
        exact Bool.eq_false_iff.mpr (fun h => hc ⟨hf, h⟩)
      · left; simp [isV]; omega
    simp only [hn, Bool.false_eq_true, if_false]
    rw [← h8] at h
    exact run_dstV hv' h

/-- The lane mask, as `active` reads it. -/
theorem run_laneMask {mk : Nat} (h : maskOk s mk = true) :
    ∃ r, laneMask mk ⟨s, orig, bad⟩ = .ok (r, ⟨s, orig, bad⟩) ∧ ∀ i, activeLane r i = active s mk i := by
  unfold maskOk at h
  by_cases h0 : mk = 0
  · subst h0; exact ⟨none, rfl, fun i => rfl⟩
  · have hm : mOk s mk = true := by simpa [h0] using h
    refine ⟨some (mVal s mk).toNat, ?_, fun i => by simp [activeLane, active, h0]⟩
    rw [laneMask]
    simp only [beq_iff_eq, h0, if_false]
    rw [bind_ok (run_readM hm)]; rfl

/-! ### The machine and `exec` run one meaning -/

/-- Reading a word operand leaves the cursor and the rectangle slots. -/
theorem source_frame {f : Nat} {x : Word} (h : source s f = some (x, t)) : t.cur = s.cur ∧ t.slots = s.slots := by
  unfold source at h
  split at h
  · split at h <;> simp at h; simp [← h.2]
  split at h
  · simp at h
  split at h
  · simp only [Option.map_eq_some_iff] at h
    obtain ⟨p, _, hp⟩ := h; simp at hp; rw [← hp.2]; exact ⟨rfl, rfl⟩
  split at h
  · split at h
    · simp at h
    · simp at h; rw [← h.2]; split <;> exact ⟨rfl, rfl⟩
  · split at h <;> simp at h; simp [← h.2]

/-- A destination with room takes every word. -/
theorem dest_some {f : Nat} (h : canTake s f = true) (v : Word) : ∃ t, dest s f v = some t := by
  unfold canTake dest at *
  by_cases h1 : f < 16
  · by_cases h4 : wFree s f = true
    · simp [h1, h4]
    · simp [h1, h4] at h
  by_cases h2 : f < 32
  · simp [h1, h2] at h
  by_cases h3 : f < 40
  · by_cases h4 : s.hasRoom s.node (f-32) = true
    · simp [h1, h2, h3, h4]
    · simp [h1, h2, h3, h4] at h
  · by_cases h4 : mFree s (f - 56) = true
    · simp [h1, h2, h3, h4]
    · simp [h1, h2, h3, h4] at h

/-- Bits of a word, as the model and as `BitVec` name them. -/
theorem bitAt_eq (x : Word) (i : Nat) : bitAt x.toNat i = x.getLsbD i := by
  simp only [bitAt, BitVec.getLsbD, Nat.testBit, Nat.shiftRight_eq_div_pow, Nat.and_comm 1, Nat.and_one_is_mod]
  rcases Nat.mod_two_eq_zero_or_one (x.toNat / 2 ^ i) with h | h <;> simp [h]

theorem runSys_eq (i : SysInstr) (s : State) : runSys i s = exec i.toInstr s := by cases i <;> rfl
theorem runEvent_eq (i : Event) (s : State) : runEvent i s = exec i.toInstr s := by cases i <;> rfl

end Sys2Proof.Machine
end

