-- ==== Sys2Proof/Laws/Vector.lean ====
section
/-!
SUPPORT. Lane instructions: what their operands read, and what a lane instruction does once its operands and its destination are there.
-/
namespace Sys2Proof.Machine
open Sys2Proof Sys2Proof.Claims

theorem vSource_cases {s : State} {f} (h : vSource s f = true) : isV f = true ∨ isVQueue f = true := by
  simp [vSource] at h; rcases h with h | h
  · exact .inl h
  · exact .inr h.1
theorem vDest_cases {s : State} {f} (h : vDest s f = true) : isV f = true ∨ isVQueue f = true := by
  simp [vDest] at h; rcases h with h | h
  · exact .inl h
  · exact .inr h.1

theorem run_relV {s : State} {orig bad f pos n} (h : relReg s f = some n) : relV f pos ⟨s, orig, bad⟩ = .ok (n, ⟨s, orig, bad⟩) := by
  unfold relReg at h
  simp only at h
  split at h
  · rename_i hc
    simp only [Option.some.injEq] at h; subst h
    rw [relV, bind_ok (run_readW hc.1)]
    have h0 : decide (0 ≤ (wVal s (f % 16)).toInt + ((f / 16 : Nat) : Int)) = true := decide_eq_true hc.2.1
    have h1 : decide ((wVal s (f % 16)).toInt + ((f / 16 : Nat) : Int) < (s.curEntry.vregs : Int)) = true := decide_eq_true hc.2.2
    simp only [h0, Bool.true_and]
    rw [bind_ok run_getS]
    simp only [h1, if_true]
    rfl
  · cases h

theorem run_bReads {s s1 : State} {orig bad} {b : BSrc} {tg : Nat} {y} (h : bReads s s1 b tg = some y) :
   ∃ n, bRel b ⟨s, orig, bad⟩ = .ok (n, ⟨s, orig, bad⟩) ∧ bOperand b n tg ⟨s1, orig, bad⟩ = .ok (y.1, ⟨y.2, orig, bad⟩) := by
  cases b with
  | field f =>
    simp only [bReads] at h
    split at h
    · rename_i hv
      exact ⟨0, rfl, run_srcV (vSource_cases hv) h⟩
    · cases h
  | rel f =>
    simp only [bReads, Option.bind_eq_some_iff] at h
    obtain ⟨n, h1, h2⟩ := h
    exact ⟨n, run_relV h1, run_readV h2⟩
  | const k =>
    simp only [bReads] at h
    split at h
    · rename_i hk
      simp only [Option.some.injEq] at h; subst h
      refine ⟨0, rfl, ?_⟩
      rw [bOperand, bind_ok (run_readK hk)]; rfl
    · cases h
  | imm c =>
    simp only [bReads, Option.some.injEq] at h; subst h
    exact ⟨0, rfl, rfl⟩

theorem run_lanePair {ok : Nat → Bool} {a : Nat} {b : BSrc} {s s1 s2 : State} {orig bad} {x y : VVal}
   (ha : vSource s a = true) (hx : vSourceOf s a = some (x, s1)) (hy : bReads s s1 b x.tag = some (y, s2))
   (hok : ok x.tag = true) (ht : y.tag = x.tag) :
   lanePair ok a b ⟨s, orig, bad⟩ = .ok ((x, y), ⟨s2, orig, bad⟩) := by
  obtain ⟨n, h1, h2⟩ := run_bReads (orig := orig) (bad := bad) hy
  rw [lanePair, bind_ok h1, bind_ok (run_srcV (vSource_cases ha) hx), bind_ok h2]
  simp [hok, ht]

theorem bCheck_ok {s s1 : State} {b : BSrc} {tg : Nat} {y} (h : bReads s s1 b tg = some y) : (bCheck s b).all (·.ok) = true := by
  cases b <;> simp [bCheck]
  simp only [bReads] at h
  split at h
  · assumption
  · cases h

theorem elemBits_whole {t : Nat} (h : isLaneTag t = true ∨ isIntTag t = true ∨ isLaneFloat t = true ∨ isLane15 t = true) : elemBits t = 8 * (elemBits t / 8) := by
  have : t < 32 := by
    simp [isLaneTag, isIntTag, isLaneFloat, isLane15] at h; omega
  interval_cases t <;> revert h <;> decide

theorem laneVec_next {op : LaneOp} {opc d a m : Nat} {b : BSrc} {s s1 s2 s3 t : State} {x y z : VVal} (hr : running s 1 = true)
   (ha : vSource s a = true) (hx : vSourceOf s a = some (x, s1)) (hy : bReads s s1 b x.tag = some (y, s2)) (ht : y.tag = x.tag)
   (hal : laneAllowed op x.tag = true)
   (hz : if op = .fma ∨ op = .fms then isV d = true ∧ vRead s2 (d - 16) = some (z, s3) ∧ z.tag = x.tag
        else vDest s d = true ∧ s3 = s2 ∧ z = ⟨x.tag, 0⟩)
   (hm : maskOk s3 m = true)
   (hd : vLanesTo s3 d x.tag (elemBits x.tag / 8) ((laneList s3 op m x.tag x.val y.val z.val).map (·.map (·.1))) = some t) :
   laneVec op opc d a m b s = .next (past 4 (flagged (flagsOf (laneList s3 op m x.tag x.val y.val z.val)) t)) := by
  have hdv : isV d = true ∨ isVQueue d = true := by
    split at hz
    · exact .inl hz.1
    · exact vDest_cases hz.1
  have hzt : (z.tag != x.tag) = false := by
    split at hz
    · simp [hz.2.2]
    · simp [hz.2.2]
  have h8 : elemBits x.tag = 8 * (elemBits x.tag / 8) := by
    apply elemBits_whole
    unfold laneAllowed at hal
    split at hal
    · exact .inr (.inl hal)
    split at hal
    · exact .inr (.inr (.inl hal))
    · exact .inl hal
  obtain ⟨mk, hmk, hact⟩ := run_laneMask (orig := s) (bad := none) hm
  have hl : ∀ ls : List (Option Nat), ls.length = lanesOf x.tag → elemBits x.tag / 8 * ls.length ≤ 64 := by
    intro ls h
    have h1 : elemBits x.tag / 8 * 8 ≤ elemBits x.tag := Nat.div_mul_le_self _ _
    have h2 : elemBits x.tag * (512 / elemBits x.tag) ≤ 512 := Nat.mul_div_le _ _
    have h3 : elemBits x.tag / 8 * 8 * (512 / elemBits x.tag) ≤ elemBits x.tag * (512 / elemBits x.tag) := Nat.mul_le_mul_right _ h1
    rw [h, lanesOf]
    have h4 : elemBits x.tag / 8 * 8 * (512 / elemBits x.tag) = 8 * (elemBits x.tag / 8 * (512 / elemBits x.tag)) := by ring
    omega
  have e : (List.range (lanesOf x.tag)).map (fun i =>
      if activeLane mk i then
        some (laneOp op (stRM s3.curEntry.st) x.tag (laneAt (elemBits x.tag) x.val i) (laneAt (elemBits x.tag) y.val i)
          (laneAt (elemBits x.tag) z.val i) false)
      else none) = laneList s3 op m x.tag x.val y.val z.val := by
    simp only [laneList, hact]
  refine runInstr_ok (orig := s) hr ?_
  have hb := bCheck_ok hy
  by_cases hop : op = .fma ∨ op = .fms
  · rw [if_pos hop] at hz
    have hrd : readsD op = true := by rcases hop with rfl | rfl <;> rfl
    rw [bind_ok (run_classes (by simp only [List.all_append, hb, Bool.and_true, List.all_cons, List.all_nil, ha, hrd, if_true, hz.1])),
      bind_ok (run_lanePair ha hx hy hal ht)]
    simp only [hrd, if_true]
    rw [bind_ok (run_readV hz.2.1)]
    simp only [hzt, Bool.false_eq_true, if_false]
    rw [bind_ok hmk, bind_ok run_roundMode, e]
    simp only [laneResults]
    rw [bind_ok (run_dstLanes hdv h8 (hl _ (by simp [laneList])) hd), bind_ok (run_raiseFlags _)]
    rfl
  · rw [if_neg hop] at hz
    have hrd : readsD op = false := by
      cases op <;> first | rfl | exact absurd (.inl rfl) hop | exact absurd (.inr rfl) hop
    obtain ⟨hz1, rfl, rfl⟩ := hz
    rw [bind_ok (run_classes (by simp only [List.all_append, hb, Bool.and_true, List.all_cons, List.all_nil, ha, hrd, hz1]; rfl)),
      bind_ok (run_lanePair ha hx hy hal ht)]
    simp only [hrd, Bool.false_eq_true, if_false]
    rw [bind_ok (run_pure _)]
    simp only [hzt, Bool.false_eq_true, if_false]
    rw [bind_ok hmk, bind_ok run_roundMode, e]
    simp only [laneResults]
    rw [bind_ok (run_dstLanes hdv h8 (hl _ (by simp [laneList])) hd), bind_ok (run_raiseFlags _)]
    rfl

end Sys2Proof.Machine
end

