-- ==== Sys2Proof/Laws/Engines.lean ====
section
/-!
SUPPORT. How an engine instruction waits, takes a command slot and starts, and what a good control word is.
-/
namespace Sys2Proof.Machine
open Sys2Proof Sys2Proof.Claims

variable {s orig : State} {bad : Option Nat}

theorem run_performed (h : drained s) : performed ⟨s, orig, bad⟩ = .ok ((), ⟨s, orig, bad⟩) := by
  have : s.agenda.any (writeInFlight s.curKey) = false := by
    rw [List.any_eq_false]; intro x hx; simp [h.1 x hx]
  rw [performed, bind_ok run_getS]; simp [this, h.2]

theorem run_releaseStep (scope : Nat) (h : drained s) :
    releaseStep scope ⟨s, orig, bad⟩ = .ok ((), ⟨s.releaseScope scope 0, orig, bad⟩) := by
  rw [releaseStep, bind_ok (run_performed h)]; rfl

theorem acq_run {c : Word} (h : acquires s c) : applyAcq c.toNat ⟨s, orig, bad⟩ = .ok ((), ⟨acquired s c, orig, bad⟩) := by
  unfold applyAcq ctlAcq acquired
  rw [bitAt_eq]
  split
  · rename_i hh; exact run_releaseStep _ (h hh)
  · rfl

theorem relCount_eq (s : State) (c : Word) : s.acquiredAt c.toNat = relCount s c := by
  rw [State.acquiredAt, ctlAcq, bitAt_eq, relCount]

theorem free_run {i : Nat} (h : freeSlotOf s i) : s.freeCmd s.node = some i := by
  obtain ⟨h1, h2, h3⟩ := h
  unfold State.freeCmd
  rw [List.find?_range_eq_some]
  refine ⟨by simp [h2], by simp [h1], fun j hj => ?_⟩
  have := h3 j hj
  cases hh : s.cmd? s.node j <;> simp_all

theorem start_run {i : Nat} {c : Cmd} {ev : Nat → Nat → List Event} (h : freeSlotOf s i) :
    startCmd c ev ⟨s, orig, bad⟩ = .ok ((), ⟨started s i c (ev s.node i), orig, bad⟩) := by
  rw [startCmd, bind_ok run_getS]
  simp only [free_run h, relCount_eq]
  rfl

theorem ctl_good {c : Word} {lo hi : Nat} {arm : Bool} (h : goodControl s c lo hi arm) : s.ctlOk c.toNat lo hi arm = true := by
  obtain ⟨h1, h2, h3, h4, h5, h6, h7, h8, h9, h10⟩ := h
  have hc := c.isLt
  simp only [State.ctlOk, ctlCk, ctlCt, ctlArmv, ctlArme, ctlLen, fld, bitAt_eq] at *
  simp only [Bool.and_eq_true, Bool.or_eq_true, beq_iff_eq, bne_iff_ne, Bool.not_eq_true']
  refine ⟨⟨⟨⟨⟨⟨⟨⟨⟨?_, ?_⟩, ?_⟩, ?_⟩, ?_⟩, ?_⟩, ?_⟩, ?_⟩, ?_⟩, ?_⟩
  · simpa using h1
  · simpa using h2
  · simp; omega
  · by_cases hk : c.toNat / 2 ^ 4 % 4 = 2
    · right; exact ⟨by simpa using (h4 hk).1, by simpa using (h4 hk).2⟩
    · left; simpa using hk
  · by_cases hk : c.toNat / 2 ^ 4 % 4 = 1
    · right; simpa using h5 hk
    · left; simpa using hk
  · exact decide_eq_true h6
  · exact decide_eq_true h7
  · by_cases hk : c.getLsbD 39 = true
    · right; obtain ⟨a, b, d⟩ := h8 hk
      simp [a, b] at *
      exact d
    · left; simpa using hk
  · norm_num; omega
  · norm_num; omega

end Sys2Proof.Machine
end

