-- ==== Sys2Proof/Laws/Scalar.lean ====
section
/-!
SUPPORT. The scalar operations of the model equal those the statements are written with, and how an instruction of form A runs.
-/
namespace Sys2Proof.Machine
open Sys2Proof Sys2Proof.Claims

variable {s orig : State} {bad : Option Nat}

theorem bmod_eq_signed (n x : Nat) : Int.bmod x (2^n) = signed n x := by
  unfold Int.bmod signed
  have h : (2^n : Nat) > 0 := Nat.two_pow_pos n
  have h0 : ((x : Int) % ((2^n : Nat) : Int)) = ((x % 2^n : Nat) : Int) := by simp
  rw [h0]
  generalize x % 2^n = y
  generalize 2^n = m at *
  simp only
  split <;> split <;> omega

theorem branchTo_eq (ip n d : Nat) : branchTo ip n d = branchTarget ip n d := by
  unfold branchTo branchTarget wrapN; rw [bmod_eq_signed]; norm_num

theorem alu_mulh_eq : aluMulh = mulHigh := rfl

theorem alu_div_eq : aluDiv = quotS := by
  funext a b; unfold aluDiv quotS
  by_cases h : b = 0
  · simp [h]
  · simp only [beq_iff_eq, h, if_false]
    rw [← BitVec.toInt_inj, BitVec.toInt_sdiv]; simp

theorem alu_divu_eq : aluDivu = quotU := by
  funext a b; unfold aluDivu quotU
  by_cases h : b = 0
  · simp [h]
  · simp only [beq_iff_eq, h, if_false]
    apply BitVec.eq_of_toNat_eq; simp [BitVec.toNat_udiv]
    have := a.isLt; exact (Nat.mod_eq_of_lt (Nat.lt_of_le_of_lt (Nat.div_le_self _ _) (by simpa using this))).symm

theorem alu_rem_eq : aluRem = remS := by
  funext a b; unfold aluRem remS
  by_cases h : b = 0
  · simp [h]
  · simp only [beq_iff_eq, h, if_false]
    rw [← BitVec.toInt_srem, BitVec.ofInt_toInt]

theorem alu_remu_eq : aluRemu = remU := by
  funext a b; unfold aluRemu remU
  by_cases h : b = 0
  · simp [h]
  · simp only [beq_iff_eq, h, if_false]
    apply BitVec.eq_of_toNat_eq; simp [BitVec.toNat_umod]
    have := a.isLt; exact (Nat.mod_eq_of_lt (Nat.lt_of_le_of_lt (Nat.mod_le _ _) (by simpa using this))).symm

theorem alu_shl_eq : aluShl = shiftLeft := by
  funext a b; unfold aluShl shiftLeft
  split
  · rename_i h
    apply BitVec.eq_of_toNat_eq
    simp
    obtain ⟨k, hk⟩ := Nat.exists_eq_add_of_le h
    rw [hk, Nat.pow_add, ← Nat.mul_assoc, Nat.mul_right_comm]; simp
  · apply BitVec.eq_of_toNat_eq; simp [BitVec.toNat_shiftLeft, Nat.shiftLeft_eq]

theorem alu_shr_eq : aluShr = shiftRight := by
  funext a b; unfold aluShr shiftRight
  split
  · rename_i h
    apply BitVec.eq_of_toNat_eq
    simp
    rw [Nat.div_eq_of_lt]
    exact Nat.lt_of_lt_of_le a.isLt (Nat.pow_le_pow_right (by omega) h)
  · apply BitVec.eq_of_toNat_eq; simp [Nat.shiftRight_eq_div_pow]
    exact (Nat.mod_eq_of_lt (Nat.lt_of_le_of_lt (Nat.div_le_self _ _) (by simpa using a.isLt))).symm

theorem alu_sar_eq : aluSar = shiftArith := by
  funext a b; unfold aluSar shiftArith
  have key : ∀ n, a.sshiftRight n = BitVec.ofInt 64 (a.toInt / 2 ^ n) := fun n => by
    rw [← BitVec.ofInt_toInt (x := a.sshiftRight n), BitVec.toInt_sshiftRight, Int.shiftRight_eq_div_pow]; simp
  split
  · rename_i h
    rw [key]; congr 1
    have h1 := BitVec.two_mul_toInt_lt (x := a); have h2 := BitVec.le_two_mul_toInt (x := a)
    have hp : (2 : Int) ^ 63 ≤ 2 ^ b.toNat := pow_le_pow_right₀ (by norm_num) (by omega)
    rcases lt_or_ge a.toInt 0 with hn | hn
    · rw [Int.ediv_eq_neg_one_of_neg_of_le hn (by norm_num at *; omega),
        Int.ediv_eq_neg_one_of_neg_of_le hn (by norm_num at *; omega)]
    · rw [Int.ediv_eq_zero_of_lt hn (by norm_num at *; omega), Int.ediv_eq_zero_of_lt hn (by norm_num at *; omega)]
  · exact key _

theorem alu_ror_eq : aluRor = rotate := by
  funext a b; simp only [aluRor, rotate, BitVec.rotateRight, BitVec.rotateRightAux, Nat.mod_mod]

theorem alu_min_eq : aluMin = least := by funext a b; simp [aluMin, least, BitVec.slt]

theorem alu_max_eq : aluMax = greatest := by funext a b; simp [aluMax, greatest, BitVec.slt]

theorem alu_minu_eq : aluMinu = leastU := by funext a b; simp [aluMinu, leastU, BitVec.lt_def]

theorem alu_maxu_eq : aluMaxu = greatestU := by funext a b; simp [aluMaxu, greatestU, BitVec.lt_def]

theorem alu_slt_eq : aluSlt = below := by funext a b; simp [aluSlt, below, BitVec.slt]

theorem alu_sltu_eq : aluSltu = belowU := by funext a b; simp [aluSltu, belowU, BitVec.lt_def]

theorem alu_seq_eq : aluSeq = same := by funext a b; simp [aluSeq, same]

theorem alu_sext_eq : aluSext = extended := by
  funext a b; unfold aluSext extended; simp only [bmod_eq_signed]

theorem alu_axy_eq : aluAxy = nearAddress := by
  funext a b; simp [aluAxy, nearAddress, fld]

theorem alu_arel_eq : aluArel = relativeAddress := by
  funext x y a b; unfold aluArel relativeAddress
  have h1 := bmod_eq_signed 8 b.toNat
  have h2 := bmod_eq_signed 8 (b.toNat/256)
  norm_num at h1 h2
  simp only [h1, h2, fld]
  have e1 : signed 8 (b.toNat / 2^0 % 2^8) = signed 8 b.toNat := by simp [signed]
  have e2 : signed 8 (b.toNat / 2^8 % 2^8) = signed 8 (b.toNat/256) := by simp [signed]
  simp only [e1, e2]
  simp [and_assoc]

theorem aluA_ok {op : Nat} {f : Word → Word → Word} {s s1 s2 : State} {d a b : Nat} {x y : Word} (hr : running s 0 = true)
    (hd : wDest s d = true) (ha : wSource s a = true) (hb : wSource s b = true)
    (h1 : source s a = some (x, s1)) (h2 : source s1 b = some (y, s2)) (h3 : canTake s2 d = true) :
    ∃ t, dest s2 d (f x y) = some t ∧ aluA op f d a b s = .next (past 4 t) := by
  obtain ⟨t, ht⟩ := dest_some h3 (f x y)
  refine ⟨t, ht, runInstr_ok (orig := s) hr ?_⟩
  rw [bind_ok (run_classes (by simp [hd, ha, hb])), bind_ok (run_srcW h1), bind_ok (run_srcW h2), bind_ok (run_dstW ht)]
  rfl

end Sys2Proof.Machine
end

