-- ==== Sys2Proof/Laws/LocalMem.lean ====
section
/-!
SUPPORT. Local loads and stores: addresses, the window as its handler reads it, and how a load and a store run.
-/
namespace Sys2Proof.Machine
open Sys2Proof Sys2Proof.Claims

variable {s orig : State} {bad : Option Nat}

theorem bmod_1024 (m i : Nat) (q : m = 2 ^ 10) : Int.bmod i m = signed 10 i := by rw [q, bmod_eq_signed]

/-- The address of a local access. -/
theorem localAddr_eq (s : State) (b i n : Nat) : localAddr s b i n = ((wVal s b).toNat : Int) + signed 10 i * (n : Int) := by
  unfold localAddr
  have := bmod_1024 1024 i
  rw [this (by norm_num)]

theorem run_localEa {b i n : Nat} (h : wOk s b = true) :
    localEa b i n ⟨s, orig, bad⟩ = .ok (localAddr s b i n, ⟨s, orig, bad⟩) := by
  rw [localEa, bind_ok (run_readW h), localAddr_eq]
  rfl

theorem run_checkEa {c : Ctx} {ea : Int} {n : Nat} (h0 : 0 ≤ ea) (h1 : ea < 0x200000) (h2 : ea % (n:Int) = 0) :
   checkEa ea n c = .ok (ea.toNat, c) := by
  have : (decide (ea < 0) || decide (0x1FFFFF < ea) || ea % (n : Int) != 0) = false := by
    simp [h2]; omega
  simp only [checkEa, this]; rfl

/-- Byte `j` of a scratchpad value. -/
theorem peek_bytes (s : State) (a n : Nat) : ∀ j < n, s.peek a n / 256 ^ j % 256 = s.peek (a + j) 1 := by
  intro j hj
  obtain ⟨k, rfl⟩ : ∃ k, n = j + (k + 1) := ⟨n - j - 1, by omega⟩
  simp only [State.peek, loadN_split (j := j)]
  rw [Nat.add_mul_div_left _ _ (by positivity), Nat.div_eq_of_lt loadN_lt]
  simp only [loadN]
  have := (byteAt (scratchFill s.lost) s.mem (a + j)).isLt
  omega

theorem peek_one_lt (s : State) (a : Nat) : s.peek a 1 < 256 := by simpa [State.peek] using loadN_lt (fill := scratchFill s.lost) (m := s.mem) (a := a) (n := 1)

/-- A byte of the window as its handler reads it fits a byte. -/
theorem loadByte_lt (s : State) (off : Nat) : loadByte s off < 256 := by
  have h : s.coreNo < 256 := by simp only [State.coreNo, coreOf]; omega
  unfold loadByte loadByte.spByteAt
  split
  · split
    · split
      · exact h
      · exact peek_one_lt ..
    · norm_num
  · exact peek_one_lt ..

/-- The bytes that a load below 0x2000 of a vat gets. -/
theorem windowBytes_eq (s : State) (hs : s.node < 2048) (n : Nat) : ∀ off, off + n ≤ 0x2000 →
    s.windowBytes s.curEntry.slot (roleOf s.cur.ck) off n < 256 ^ n ∧
    ∀ j < n, s.windowBytes s.curEntry.slot (roleOf s.cur.ck) off n / 256 ^ j % 256 = loadByte s (off + j) := by
  induction n with
  | zero => intro off _; exact ⟨by simp [State.windowBytes], by intro j hj; omega⟩
  | succ n ih =>
    intro off ho
    obtain ⟨h1, h2⟩ := ih (off + 1) (by omega)
    have hb : (if off < 0x2000 && off / 0x800 == s.curEntry.slot then
        (if off % 0x800 == 0x38 then roleOf s.cur.ck else s.peek (spAddr s.node off) 1) else 0) = loadByte s off := by
      have : off < 0x2000 := by omega
      unfold loadByte loadByte.spByteAt
      by_cases hw : off / 0x800 = s.curEntry.slot
      · by_cases hk : off % 0x800 = 0x38
        · simp [this, hw, hk, hs, roleOf, State.coreNo]
        · simp [this, hw, hk, spAddr]
      · simp [this, hw]
    have hl := loadByte_lt s off
    simp only [State.windowBytes, hb]
    generalize s.windowBytes s.curEntry.slot (roleOf s.cur.ck) (off + 1) n = x at *
    refine ⟨by rw [Nat.pow_succ]; omega, ?_⟩
    intro j hj
    cases j with
    | zero => simp; omega
    | succ j =>
      have := h2 j (by omega)
      rw [show off + (j + 1) = off + 1 + j by omega, ← this, Nat.pow_succ, Nat.mul_comm (256 ^ j), ← Nat.div_div_eq_div_mul]
      congr 2; omega

theorem run_loadLocal {s : State} {orig bad} {off n : Nat} (h : loadOk s off n = true) (hal : off % n = 0) (hn : n = 1 ∨ n = 2 ∨ n = 4 ∨ n = 8 ∨ n = 64) :
   ∃ v < 256^n, (∀ j < n, v / 256^j % 256 = loadByte s (off + j)) ∧ loadLocal off n ⟨s, orig, bad⟩ = .ok (v, ⟨s, orig, bad⟩) := by
  by_cases hw : off < 0x2000
  · by_cases hown : off / 0x800 = s.curEntry.slot
    · have hr : readable s (spAddr s.node off) n = true := by
        simpa [loadOk, hw, hown] using h
      by_cases hs : s.node < 2048
      · obtain ⟨h1, h2⟩ := windowBytes_eq s hs n off (by rcases hn with rfl | rfl | rfl | rfl | rfl <;> omega)
        refine ⟨_, h1, h2, ?_⟩
        have : isService s.node = false := by simp; omega
        rw [loadLocal, bind_ok run_getS]
        simp only [hw, if_true, hown, beq_self_eq_true, this]
        rw [bind_ok (run_readSp hr)]; rfl
      · refine ⟨s.peek (spAddr s.node off) n, loadN_lt, ?_, ?_⟩
        · intro j hj
          rw [peek_bytes _ _ _ j hj]
          have hb : (off + j) / 0x800 = s.curEntry.slot := by
            have : off / 0x800 = (off+j)/0x800 := by rcases hn with rfl|rfl|rfl|rfl|rfl <;> omega
            omega
          have hc : off + j < 0x2000 := by rcases hn with rfl|rfl|rfl|rfl|rfl <;> omega
          simp only [loadByte, hc, hb, if_true, hs, and_false, if_false, loadByte.spByteAt, spAddr, Nat.add_assoc]
        · have : isService s.node = true := by simp; omega
          rw [loadLocal, bind_ok run_getS]
          simp only [hw, if_true, hown, beq_self_eq_true, this]
          rw [bind_ok (run_readSp hr)]; rfl
    · by_cases hs : s.node < 2048
      · obtain ⟨h1, h2⟩ := windowBytes_eq s hs n off (by rcases hn with rfl | rfl | rfl | rfl | rfl <;> omega)
        refine ⟨_, h1, h2, ?_⟩
        have : isService s.node = false := by simp; omega
        have ho : (off / 0x800 == s.curEntry.slot) = false := by simpa using hown
        rw [loadLocal, bind_ok run_getS]
        simp only [hw, if_true, ho, this, Bool.false_eq_true, if_false]; rfl
      · refine ⟨0, by positivity, ?_, ?_⟩
        · intro j hj
          have hb : (off + j) / 0x800 ≠ s.curEntry.slot := by
            have : off / 0x800 = (off+j)/0x800 := by rcases hn with rfl|rfl|rfl|rfl|rfl <;> omega
            omega
          have hc : off + j < 0x2000 := by rcases hn with rfl|rfl|rfl|rfl|rfl <;> omega
          simp [loadByte, hc, hb]
        · have : isService s.node = true := by simp; omega
          have ho : (off / 0x800 == s.curEntry.slot) = false := by simpa using hown
          rw [loadLocal, bind_ok run_getS]
          simp only [hw, if_true, ho, this, Bool.false_eq_true, if_false]; rfl
  · have hr : readable s (spAddr s.node off) n = true := by simpa [loadOk, hw] using h
    refine ⟨s.peek (spAddr s.node off) n, loadN_lt, ?_, ?_⟩
    · intro j hj
      rw [peek_bytes _ _ _ j hj]
      have hc : ¬ off + j < 0x2000 := by omega
      simp only [loadByte, hc, if_false, loadByte.spByteAt, spAddr, Nat.add_assoc]
    · rw [loadLocal, bind_ok run_getS]
      simp only [hw, if_false]
      exact run_readSp hr

theorem run_storeLocal {s : State} {orig bad} {off n v : Nat} (h : s.tileHeld s.node off n = false) :
  storeLocal off n v ⟨s, orig, bad⟩ = .ok ((), ⟨s.poke (spAddr s.node off) n v, orig, bad⟩) := by
  rw [storeLocal, bind_ok run_getS]; simp only [h]; rfl

end Sys2Proof.Machine
end

