-- ==== Sys2Proof/Laws/Messages.lean ====
section
/-!
SUPPORT. Outstanding slots, runs of W registers, mailbox words, near addresses and atomic results.
-/
namespace Sys2Proof.Machine
open Sys2Proof Sys2Proof.Claims

variable {s orig : State} {bad : Option Nat}

theorem run_takeOut {msg fold : Bool} (h : slotFree s = true) :
    takeOut msg fold ⟨s, orig, bad⟩ = .ok (s.oids, ⟨slotTaken msg s fold, orig, bad⟩) := by
  rw [takeOut, bind_ok run_getS]
  have : (s.core s.cur.ck).outs.length < 8 := by simpa [slotFree] using h
  simp only [this, if_true]
  rfl

theorem run_readWs {b : Nat} : ∀ n, (∀ i < n, wOk s (b + i) = true) → readWs b n ⟨s, orig, bad⟩ = .ok (wList s b n, ⟨s, orig, bad⟩) := by
  intro n
  induction n generalizing b with
  | zero => intro _; rfl
  | succ n ih =>
    intro h
    rw [readWs, bind_ok (run_readW (i := b) (h 0 (by omega))), bind_ok (ih (b := b + 1) (fun i hi => by rw [Nat.add_assoc, Nat.add_comm 1 i]; exact h (i+1) (by omega)))]
    simp [wList, List.range_succ_eq_map, Function.comp_def, Nat.add_assoc, Nat.add_comm 1]

theorem boxWords_eq (acq : Bool) (ws : List Word) : boxWords acq ws = inBox acq ws := by
  induction ws with
  | nil => rfl
  | cons w r ih =>
    cases r with
    | nil => rfl
    | cons v r =>
      rw [boxWords, ih]
      simp only [inBox, List.length_cons]
      rw [List.range_succ_eq_map (n := r.length + 1)]
      · simp [Function.comp_def]
      · simp

theorem nearNode_eq (x : Nat) : nearNode x = fld x 21 5 * 64 + fld x 26 6 := by simp [nearNode, vatAt, Nat.mul_comm]

theorem atomic_eq (op : MemOp) (x c v : Word) : atomicResult op x c v = atomicWord op x c v := by
  cases op <;> simp [atomicResult, atomicWord, BitVec.slt, BitVec.ult]

end Sys2Proof.Machine
end

