-- ==== Sys2Proof/Laws/Tiles.lean ====
section
/-!
SUPPORT. Tiles, handles and accumulator rows: how the shared operations of the matrix instructions run, and what a row reads after a write.
-/
namespace Sys2Proof.Machine
open Sys2Proof Sys2Proof.Claims

variable {s orig : State} {bad : Option Nat}

theorem run_readZ {i : Nat} (h : zOk s i = true) : readZ i ⟨s, orig, bad⟩ = .ok (regVal s (0x540 + 4*i) 4, ⟨s, orig, bad⟩) := run_readReg h
theorem run_readT {i : Nat} (h : tOk s i = true) : readT i ⟨s, orig, bad⟩ = .ok (regVal s (0x4C0 + 16*i) 16, ⟨s, orig, bad⟩) := run_readReg h
theorem run_readTile {i : Nat} (h : tOk s i = true) : readTile i ⟨s, orig, bad⟩ = .ok (tile s i, ⟨s, orig, bad⟩) := by
  rw [readTile, bind_ok (run_readT h)]; rfl
theorem run_needRun {z first : Nat} {r : Run} (h : names s z first r) : needRun z ⟨s, orig, bad⟩ = .ok ((first, r), ⟨s, orig, bad⟩) := by
  rw [needRun, bind_ok (run_readZ h.1), bind_ok run_getS, h.2]; rfl
theorem run_settled {first : Nat} (h : arrayClear s first) : settled first ⟨s, orig, bad⟩ = .ok ((), ⟨s, orig, bad⟩) := by
  rw [settled, bind_ok run_getS]
  cases hj : mget? s.arrays s.node with
  | none => rfl
  | some j => simp [h j hj]
theorem accepted_ok {d : TileD} (h : tileAccepted d) : descOk d = true ∧ kindAllows d = true ∧ d.clean = true ∧ d.kind ≠ 3 := by
  obtain ⟨h1, h2, h3, h⟩ := h
  rcases h with ⟨a,b,c,e,f⟩|⟨a,b,c,e⟩|⟨a,b,c,e,f,g⟩
  · rcases f with f | f <;> simp [descOk, kindAllows, *]
  · simp [descOk, kindAllows, *]
  · simp [descOk, kindAllows, *]; decide


theorem run_waitTiles {ds : List TileD} (h : ∀ d ∈ ds, s.tileReady s.node s.curEntry.slot d = true) :
    waitTiles ds ⟨s, orig, bad⟩ = .ok ((), ⟨s, orig, bad⟩) := by
  rw [waitTiles, bind_ok run_getS]
  have : ds.all (s.tileReady s.node s.curEntry.slot) = true := by simpa using h
  simp only [this, if_true]
  rfl

theorem packFields_lt (w : Nat) (xs : List Nat) : packFields w xs < 2 ^ (w * xs.length) := by
  induction xs with
  | nil => simp [packFields]
  | cons x r ih =>
    simp only [packFields, List.length_cons, Nat.mul_add, Nat.mul_one, Nat.pow_add]
    have h1 : x % 2 ^ w < 2 ^ w := Nat.mod_lt _ (by positivity)
    calc x % 2 ^ w + 2 ^ w * packFields w r < 2 ^ w + 2 ^ w * packFields w r := by omega
      _ = 2 ^ w * (packFields w r + 1) := by ring
      _ ≤ 2 ^ w * 2 ^ (w * r.length) := Nat.mul_le_mul_left _ ih
      _ = 2 ^ (w * r.length) * 2 ^ w := by ring

theorem matRow_lt (rm : Nat) (int : Bool) (nc : Nat) (f : List Val) (p : List (List Val)) (prior : Nat) :
    (matRow rm int nc f p prior).1 < 256 ^ 256 := by
  simp only [matRow]
  refine lt_of_lt_of_le (packFields_lt _ _) ?_
  simp only [List.length_map, List.length_range]
  rw [show (256 : Nat) = 2 ^ 8 by norm_num, ← Nat.pow_mul]
  exact Nat.pow_le_pow_right (by norm_num) (by norm_num)

theorem accRow_setAccRow (node first row row' v : Nat) :
    (s.setAccRow node first row v).accRow node first row' = if row = row' then v % 256 ^ 256 else s.accRow node first row' := by
  unfold State.accRow State.setAccRow
  split
  · subst row'; exact loadN_storeN_same
  · exact loadN_storeN_disjoint (by simp only [accAddr]; omega)

end Sys2Proof.Machine
end

