-- ==== Sys2Proof/Tests/Slice0.lean ====
section
/-!
SUPPORT. The author's own tests, few and small. A word to decode is written from the spec's encoding tables; an expected value is worked out by hand
from the rule that the test names. A test named after a statement shows operands and a small state that meet its hypotheses, for each clause,
with what the machine then answers.
-/
namespace Sys2Proof.Tests
open Sys2Proof Sys2Proof.Machine Sys2Proof.Claims
set_option Elab.async false

/-! ### Small states -/

/-- Core `ck` with one ACTIVE entry of a rectangle of one vat (a service core: no rectangle). -/
def on (ck : Nat) : State := { State.reset.placed ck 0 with moves := [], cur := ⟨ck, 0⟩ }
def withW (s : State) (i v : Nat) : State := s.poke (work s (8 * i)) 8 v
def withM (s : State) (i v : Nat) : State := s.poke (work s (0x480 + 8 * i)) 8 v
def withV (s : State) (i tag v : Nat) : State := setTag (s.poke (work s (0x80 + 64 * i)) 64 v) i tag
def withT (s : State) (i tag v : Nat) : State := setTag (s.poke (work s (0x4C0 + 16 * i)) 16 v) (16 + i) tag
def withK (s : State) (k v : Nat) : State := s.poke (kAddr s k) 8 v
/-- A message in a channel of the executing core. -/
def withBox (s : State) (c : Nat) (ws : List Word) : State := s.setBox s.cur.ck c (inBox false ws)
/-- Words of the executing vat's scratchpad. -/
def withWords (s : State) (off : Nat) : List Nat → State
  | [] => s
  | w :: r => withWords (s.poke (0x200000 * s.node + off) 8 w) (off + 8) r
/-- The outcome is this next state. -/
def gives (o : Host.Outcome State Fault Refusal) (t : State) : Bool :=
  match o with
  | .next u => decide (u = t)
  | _ => false
/-- The outcome is a next state of which `p` holds. -/
def goes (o : Host.Outcome State Fault Refusal) (p : State → Bool) : Bool :=
  match o with
  | .next u => p u
  | _ => false
/-- -5 as a word. -/
def neg5 : Nat := 0xFFFFFFFFFFFFFFFB

theorem test_decode_short :
  decodeTableWord 16 0b1_10011_01010_00000 = some (.mov16 10 19) ∧
  decodeTableWord 16 0b1_10011_01010_00010 = some (.add16 10 19 1) ∧
  decodeTableWord 16 0b1_10011_01010_00100 = some (.sub16 10 19 1) ∧
  decodeTableWord 16 0b1_10011_01010_00110 = some (.mul16 10 19 1) ∧
  decodeTableWord 16 0b1_10011_01010_01000 = some (.min16 10 19 1) ∧
  decodeTableWord 16 0b1_10011_01010_01010 = some (.max16 10 19 1) ∧
  decodeTableWord 16 0b1_10011_01010_01100 = some (.and16 10 19 1) ∧
  decodeTableWord 16 0b1_10011_01010_01110 = some (.or16 10 19 1) ∧
  decodeTableWord 16 0b1_10011_01010_10000 = some (.xor16 10 19 1) ∧
  decodeTableWord 16 0b1_10011_01010_10010 = some (.andn16 10 19 1) ∧
  decodeTableWord 16 0b1_10011_01010_10100 = some (.shl16 10 19 1) ∧
  decodeTableWord 16 0b1_10011_01010_10110 = some (.shr16 10 19 1) ∧
  decodeTableWord 16 0b1_10011_01010_11000 = some (.sar16 10 19 1) ∧
  decodeTableWord 16 0b1_10011_01010_11010 = some (.neg16 10 19 1) ∧
  decodeTableWord 16 0b1_10011_01010_11100 = some (.abs16 10 19 1) ∧
  decodeTableWord 16 0b1_10011_01010_11110 = some (.not16 10 19 1) :=
  ⟨rfl, rfl, rfl, rfl, rfl, rfl, rfl, rfl, rfl, rfl, rfl, rfl, rfl, rfl, rfl, rfl⟩

theorem test_decode_arithmetic :
  decodeTableWord 32 0b000000_110010_100101_010110_00000001 = some (.add 22 37 50) ∧
  decodeTableWord 32 0b000001_110010_100101_010110_00000001 = some (.sub 22 37 50) ∧
  decodeTableWord 32 0b000010_110010_100101_010110_00000001 = some (.mul 22 37 50) ∧
  decodeTableWord 32 0b000011_110010_100101_010110_00000001 = some (.mulh 22 37 50) ∧
  decodeTableWord 32 0b000100_110010_100101_010110_00000001 = some (.mulhu 22 37 50) ∧
  decodeTableWord 32 0b000101_110010_100101_010110_00000001 = some (.div 22 37 50) ∧
  decodeTableWord 32 0b000110_110010_100101_010110_00000001 = some (.divu 22 37 50) ∧
  decodeTableWord 32 0b000111_110010_100101_010110_00000001 = some (.rem 22 37 50) ∧
  decodeTableWord 32 0b000000_110010_100101_010110_00000011 = some (.and 22 37 50) ∧
  decodeTableWord 32 0b000001_110010_100101_010110_00000011 = some (.or 22 37 50) ∧
  decodeTableWord 32 0b000010_110010_100101_010110_00000011 = some (.xor 22 37 50) ∧
  decodeTableWord 32 0b000011_110010_100101_010110_00000011 = some (.andn 22 37 50) ∧
  decodeTableWord 32 0b000100_110010_100101_010110_00000011 = some (.shl 22 37 50) ∧
  decodeTableWord 32 0b000101_110010_100101_010110_00000011 = some (.shr 22 37 50) ∧
  decodeTableWord 32 0b000110_110010_100101_010110_00000011 = some (.sar 22 37 50) ∧
  decodeTableWord 32 0b000111_110010_100101_010110_00000011 = some (.ror 22 37 50) ∧
  decodeTableWord 32 0b000000_110010_100101_010110_00000101 = some (.min 22 37 50) ∧
  decodeTableWord 32 0b000001_110010_100101_010110_00000101 = some (.max 22 37 50) ∧
  decodeTableWord 32 0b000010_110010_100101_010110_00000101 = some (.minu 22 37 50) ∧
  decodeTableWord 32 0b000011_110010_100101_010110_00000101 = some (.maxu 22 37 50) ∧
  decodeTableWord 32 0b000100_110010_100101_010110_00000101 = some (.slt 22 37 50) ∧
  decodeTableWord 32 0b000101_110010_100101_010110_00000101 = some (.sltu 22 37 50) ∧
  decodeTableWord 32 0b000110_110010_100101_010110_00000101 = some (.seq 22 37 50) ∧
  decodeTableWord 32 0b000111_110010_100101_010110_00000101 = some (.remu 22 37 50) ∧
  decodeTableWord 32 0b000000000000_100101_010110_00000111 = some (.mov 22 37) ∧
  decodeTableWord 32 0b000001000000_100101_010110_00000111 = some (.clz 22 37) ∧
  decodeTableWord 32 0b000010000000_100101_010110_00000111 = some (.ctz 22 37) ∧
  decodeTableWord 32 0b000011000000_100101_010110_00000111 = some (.popc 22 37) ∧
  decodeTableWord 32 0b000100000000_100101_010110_00000111 = some (.bswap 22 37) ∧
  decodeTableWord 32 0b000101_110010_100101_010110_00000111 = some (.sext 22 37 50) ∧
  decodeTableWord 32 0b000110_110010_100101_010110_00000111 = some (.arel 22 37 50) ∧
  decodeTableWord 32 0b000111_110010_100101_010110_00000111 = some (.axy 22 37 50) :=
  ⟨rfl, rfl, rfl, rfl, rfl, rfl, rfl, rfl, rfl, rfl, rfl, rfl, rfl, rfl, rfl, rfl, rfl, rfl, rfl, rfl, rfl, rfl, rfl, rfl, rfl, rfl, rfl, rfl, rfl, rfl, rfl, rfl⟩

theorem test_decode_constants :
  decodeTableWord 32 0b0000_10100011_100101_010110_00001001 = some (.addK 22 37 163) ∧
  decodeTableWord 32 0b0001_10100011_100101_010110_00001001 = some (.subK 22 37 163) ∧
  decodeTableWord 32 0b0000_10100011_100101_010110_00001011 = some (.mulK 22 37 163) ∧
  decodeTableWord 32 0b0001_10100011_100101_010110_00001011 = some (.mulhK 22 37 163) ∧
  decodeTableWord 32 0b0000_10100011_100101_010110_00001101 = some (.andK 22 37 163) ∧
  decodeTableWord 32 0b0001_10100011_100101_010110_00001101 = some (.orK 22 37 163) ∧
  decodeTableWord 32 0b0000_10100011_100101_010110_00001111 = some (.xorK 22 37 163) ∧
  decodeTableWord 32 0b0001_10100011_100101_010110_00001111 = some (.andnK 22 37 163) ∧
  decodeTableWord 32 0b0000_10100011_100101_010110_00010001 = some (.minK 22 37 163) ∧
  decodeTableWord 32 0b0001_10100011_100101_010110_00010001 = some (.maxK 22 37 163) ∧
  decodeTableWord 32 0b0000_10100011_100101_010110_00010011 = some (.minuK 22 37 163) ∧
  decodeTableWord 32 0b0001_10100011_100101_010110_00010011 = some (.maxuK 22 37 163) ∧
  decodeTableWord 32 0b0000_10100011_100101_010110_00010101 = some (.sltK 22 37 163) ∧
  decodeTableWord 32 0b0001_10100011_100101_010110_00010101 = some (.sltuK 22 37 163) ∧
  decodeTableWord 32 0b0000_10100011_100101_010110_00010111 = some (.seqK 22 37 163) ∧
  decodeTableWord 32 0b0001_10100011_000000_010110_00010111 = some (.movK 22 163) ∧
  decodeTableWord 32 0b0000_10100011_100101_010110_00011001 = some (.divK 22 37 163) ∧
  decodeTableWord 32 0b0001_10100011_100101_010110_00011001 = some (.divuK 22 37 163) ∧
  decodeTableWord 32 0b0000_10100011_100101_010110_00011011 = some (.arelK 22 37 163) ∧
  decodeTableWord 32 0b0001_10100011_100101_010110_00011011 = some (.axyK 22 37 163) ∧
  decodeTableWord 32 0b000000_110010_100101_010110_00011101 = some (.shlImm 22 37 50) ∧
  decodeTableWord 32 0b000100_110010_100101_010110_00011101 = some (.shrImm 22 37 50) ∧
  decodeTableWord 32 0b000000_110010_100101_010110_00011111 = some (.sarImm 22 37 50) ∧
  decodeTableWord 32 0b000100_110010_100101_010110_00011111 = some (.rorImm 22 37 50) :=
  ⟨rfl, rfl, rfl, rfl, rfl, rfl, rfl, rfl, rfl, rfl, rfl, rfl, rfl, rfl, rfl, rfl, rfl, rfl, rfl, rfl, rfl, rfl, rfl, rfl⟩

theorem test_decode_control :
  decodeTableWord 32 0b101101000111_100101_010110_00100001 = some (.beq 22 37 2887) ∧
  decodeTableWord 32 0b101101000111_100101_010110_00100011 = some (.bne 22 37 2887) ∧
  decodeTableWord 32 0b101101000111_100101_010110_00100101 = some (.blt 22 37 2887) ∧
  decodeTableWord 32 0b101101000111_100101_010110_00100111 = some (.bge 22 37 2887) ∧
  decodeTableWord 32 0b101101000111_100101_010110_00101001 = some (.bltu 22 37 2887) ∧
  decodeTableWord 32 0b101101000111_100101_010110_00101011 = some (.bgeu 22 37 2887) ∧
  decodeTableWord 32 0b101101000111_000000_010110_00101101 = some (.loop 22 2887) ∧
  decodeTableWord 32 0b100100111010010111000110_00101111 = some (.j 9676230) ∧
  decodeTableWord 32 0b100100111010010111000110_00110001 = some (.call 9676230) ∧
  decodeTableWord 32 0b000000000000_010110_00000000110011 = some (.jr 22) ∧
  decodeTableWord 32 0b000001000000_010110_00000000110011 = some (.callr 22) ∧
  decodeTableWord 32 0b00001000000000000000000000110011 = some .nop :=
  ⟨rfl, rfl, rfl, rfl, rfl, rfl, rfl, rfl, rfl, rfl, rfl, rfl⟩

theorem test_decode_lanes :
  decodeTableWord 32 0b011_000_110010_100101_010110_00110101 = some (.vadd 22 37 50 3) ∧
  decodeTableWord 32 0b011_001_110010_100101_010110_00110101 = some (.vsub 22 37 50 3) ∧
  decodeTableWord 32 0b011_010_110010_100101_010110_00110101 = some (.vmul 22 37 50 3) ∧
  decodeTableWord 32 0b011_011_110010_100101_010110_00110101 = some (.vdiv 22 37 50 3) ∧
  decodeTableWord 32 0b011_100_110010_100101_010110_00110101 = some (.vmin 22 37 50 3) ∧
  decodeTableWord 32 0b011_101_110010_100101_010110_00110101 = some (.vmax 22 37 50 3) ∧
  decodeTableWord 32 0b011_110_110010_100101_010110_00110101 = some (.vfma 22 37 50 3) ∧
  decodeTableWord 32 0b011_111_110010_100101_010110_00110101 = some (.vfms 22 37 50 3) ∧
  decodeTableWord 32 0b011_000_110010_100101_010110_00110111 = some (.vand 22 37 50 3) ∧
  decodeTableWord 32 0b011_001_110010_100101_010110_00110111 = some (.vor 22 37 50 3) ∧
  decodeTableWord 32 0b011_010_110010_100101_010110_00110111 = some (.vxor 22 37 50 3) ∧
  decodeTableWord 32 0b011_011_110010_100101_010110_00110111 = some (.vandn 22 37 50 3) ∧
  decodeTableWord 32 0b011_100_110010_100101_010110_00110111 = some (.vshl 22 37 50 3) ∧
  decodeTableWord 32 0b011_101_110010_100101_010110_00110111 = some (.vshr 22 37 50 3) ∧
  decodeTableWord 32 0b011_110_110010_100101_010110_00110111 = some (.vsar 22 37 50 3) ∧
  decodeTableWord 32 0b011_111_110010_100101_010110_00110111 = some (.vsel 22 37 50 3) ∧
  decodeTableWord 32 0b011_000_110010_100101_010110_00111001 = some (.vcmpeq 22 37 50 3) ∧
  decodeTableWord 32 0b011_001_110010_100101_010110_00111001 = some (.vcmplt 22 37 50 3) ∧
  decodeTableWord 32 0b011_010_110010_100101_010110_00111001 = some (.vcmple 22 37 50 3) ∧
  decodeTableWord 32 0b011_011_110010_100101_010110_00111001 = some (.vdot 22 37 50 3) ∧
  decodeTableWord 32 0b011_100_110010_100101_010110_00111001 = some (.vperm 22 37 50 3) ∧
  decodeTableWord 32 0b011_101_110010_100101_010110_00111001 = some (.vbcast 22 37 50 3) ∧
  decodeTableWord 32 0b011_110_110010_100101_010110_00111001 = some (.vext 22 37 50 3) ∧
  decodeTableWord 32 0b011_111_110010_100101_010110_00111001 = some (.vins 22 37 50 3) ∧
  decodeTableWord 32 0b101_000000000_100101_010110_00111011 = some (.vmov 22 37 5) ∧
  decodeTableWord 32 0b101_001000000_100101_010110_00111011 = some (.vabs 22 37 5) ∧
  decodeTableWord 32 0b101_010000000_100101_010110_00111011 = some (.vneg 22 37 5) ∧
  decodeTableWord 32 0b101_011000000_100101_010110_00111011 = some (.vsqrt 22 37 5) ∧
  decodeTableWord 32 0b011_100_110010_100101_010110_00111011 = some (.vcvt 22 37 50 3) ∧
  decodeTableWord 32 0b011_101_110010_100101_010110_00111011 = some (.vtag 22 37 50 3) ∧
  decodeTableWord 32 0b011_110_110010_100101_010110_00111011 = some (.vred 22 37 50 3) ∧
  decodeTableWord 32 0b011_111_110010_100101_010110_00111011 = some (.vnzs 22 37 50 3) :=
  ⟨rfl, rfl, rfl, rfl, rfl, rfl, rfl, rfl, rfl, rfl, rfl, rfl, rfl, rfl, rfl, rfl, rfl, rfl, rfl, rfl, rfl, rfl, rfl, rfl, rfl, rfl, rfl, rfl, rfl, rfl, rfl, rfl⟩

theorem test_decode_lane_constants :
  decodeTableWord 32 0b011_0_10100011_100101_010110_00111101 = some (.vaddK 22 37 163 3) ∧
  decodeTableWord 32 0b011_1_10100011_100101_010110_00111101 = some (.vsubK 22 37 163 3) ∧
  decodeTableWord 32 0b011_0_10100011_100101_010110_00111111 = some (.vmulK 22 37 163 3) ∧
  decodeTableWord 32 0b011_1_10100011_100101_010110_00111111 = some (.vfmaK 22 37 163 3) ∧
  decodeTableWord 32 0b011_0_10100011_100101_010110_01000001 = some (.vminK 22 37 163 3) ∧
  decodeTableWord 32 0b011_1_10100011_100101_010110_01000001 = some (.vmaxK 22 37 163 3) ∧
  decodeTableWord 32 0b011_0_10100011_100101_010110_01000011 = some (.vandK 22 37 163 3) ∧
  decodeTableWord 32 0b011_1_10100011_100101_010110_01000011 = some (.vorK 22 37 163 3) ∧
  decodeTableWord 32 0b011_0_10100011_100101_010110_01000101 = some (.vxorK 22 37 163 3) ∧
  decodeTableWord 32 0b011_1_10100011_100101_010110_01000101 = some (.vandnK 22 37 163 3) ∧
  decodeTableWord 32 0b011_0_10100011_100101_010110_01000111 = some (.vcmpeqK 22 37 163 3) ∧
  decodeTableWord 32 0b011_1_10100011_100101_010110_01000111 = some (.vcmpltK 22 37 163 3) ∧
  decodeTableWord 32 0b011_0_10100011_100101_010110_01001001 = some (.vcmpleK 22 37 163 3) ∧
  decodeTableWord 32 0b011_1_10100011_100101_010110_01001001 = some (.vbcastK 22 37 163 3) ∧
  decodeTableWord 32 0b011_000_110010_100101_010110_01001011 = some (.vshlImm 22 37 50 3) ∧
  decodeTableWord 32 0b011_100_110010_100101_010110_01001011 = some (.vshrImm 22 37 50 3) ∧
  decodeTableWord 32 0b011_000_110010_100101_010110_01001101 = some (.vsarImm 22 37 50 3) :=
  ⟨rfl, rfl, rfl, rfl, rfl, rfl, rfl, rfl, rfl, rfl, rfl, rfl, rfl, rfl, rfl, rfl, rfl⟩

theorem test_decode_lane_relative :
  decodeTableWord 32 0b011_000_110010_100101_010110_01001111 = some (.vaddRel 22 37 50 3) ∧
  decodeTableWord 32 0b011_001_110010_100101_010110_01001111 = some (.vsubRel 22 37 50 3) ∧
  decodeTableWord 32 0b011_010_110010_100101_010110_01001111 = some (.vmulRel 22 37 50 3) ∧
  decodeTableWord 32 0b011_011_110010_100101_010110_01001111 = some (.vdivRel 22 37 50 3) ∧
  decodeTableWord 32 0b011_100_110010_100101_010110_01001111 = some (.vminRel 22 37 50 3) ∧
  decodeTableWord 32 0b011_101_110010_100101_010110_01001111 = some (.vmaxRel 22 37 50 3) ∧
  decodeTableWord 32 0b011_110_110010_100101_010110_01001111 = some (.vfmaRel 22 37 50 3) ∧
  decodeTableWord 32 0b011_111_110010_100101_010110_01001111 = some (.vfmsRel 22 37 50 3) ∧
  decodeTableWord 32 0b011_000_110010_100101_010110_01010001 = some (.vandRel 22 37 50 3) ∧
  decodeTableWord 32 0b011_001_110010_100101_010110_01010001 = some (.vorRel 22 37 50 3) ∧
  decodeTableWord 32 0b011_010_110010_100101_010110_01010001 = some (.vxorRel 22 37 50 3) ∧
  decodeTableWord 32 0b011_011_110010_100101_010110_01010001 = some (.vandnRel 22 37 50 3) ∧
  decodeTableWord 32 0b011_100_110010_100101_010110_01010001 = some (.vshlRel 22 37 50 3) ∧
  decodeTableWord 32 0b011_101_110010_100101_010110_01010001 = some (.vshrRel 22 37 50 3) ∧
  decodeTableWord 32 0b011_110_110010_100101_010110_01010001 = some (.vsarRel 22 37 50 3) ∧
  decodeTableWord 32 0b011_111_110010_100101_010110_01010001 = some (.vselRel 22 37 50 3) ∧
  decodeTableWord 32 0b011_000_110010_100101_010110_01010011 = some (.vcmpeqRel 22 37 50 3) ∧
  decodeTableWord 32 0b011_001_110010_100101_010110_01010011 = some (.vcmpltRel 22 37 50 3) ∧
  decodeTableWord 32 0b011_010_110010_100101_010110_01010011 = some (.vcmpleRel 22 37 50 3) ∧
  decodeTableWord 32 0b011_011_110010_100101_010110_01010011 = some (.vdotRel 22 37 50 3) ∧
  decodeTableWord 32 0b011_100_110010_100101_010110_01010011 = some (.vpermRel 22 37 50 3) ∧
  decodeTableWord 32 0b101_000000000_100101_010110_01010101 = some (.vmovRelA 22 37 5) ∧
  decodeTableWord 32 0b101_001000000_100101_010110_01010101 = some (.vmovRelD 22 37 5) :=
  ⟨rfl, rfl, rfl, rfl, rfl, rfl, rfl, rfl, rfl, rfl, rfl, rfl, rfl, rfl, rfl, rfl, rfl, rfl, rfl, rfl, rfl, rfl, rfl⟩

theorem test_decode_mask :
  decodeTableWord 32 0b000000_110010_100101_010110_01010111 = some (.mand 22 37 50) ∧
  decodeTableWord 32 0b000001_110010_100101_010110_01010111 = some (.mor 22 37 50) ∧
  decodeTableWord 32 0b000010_110010_100101_010110_01010111 = some (.mxor 22 37 50) ∧
  decodeTableWord 32 0b000011000000_100101_010110_01010111 = some (.mnot 22 37) ∧
  decodeTableWord 32 0b000100000000_100101_010110_01010111 = some (.mmov 22 37) :=
  ⟨rfl, rfl, rfl, rfl, rfl⟩

theorem test_decode_matrix :
  decodeTableWord 32 0b00000000000000_1_101_110_011_01011001 = some (.mma 3 6 5 1) ∧
  decodeTableWord 32 0b00000000000000_1_101_110_011_01011011 = some (.mmaz 3 6 5 1) ∧
  decodeTableWord 32 0b00000000_1101_000000000_011_01011101 = some (.achain 3 13) ∧
  decodeTableWord 32 0b0000_10100011_000000_011_00001011111 = some (.tset 3 163) ∧
  decodeTableWord 32 0b0000_10100011_000000000_011_01100001 = some (.aalloc 3 163) ∧
  decodeTableWord 32 0b000000000000000000000_011_01100011 = some (.afree 3) ∧
  decodeTableWord 32 0b000000000000000000000_011_01100101 = some (.azero 3) ∧
  decodeTableWord 32 0b00000000_1001_00_1_000000_011_01100111 = some (.astore 3 1 9) ∧
  decodeTableWord 32 0b00000000_1001_00_1_000000_011_01101001 = some (.aload 3 1 9) ∧
  decodeTableWord 32 0b0000_1001_1101_000000000_011_01101011 = some (.amovv 3 13 9) ∧
  decodeTableWord 32 0b00000000_1101_000_011_00000001101101 = some (.winit 3 13) ∧
  decodeTableWord 32 0b0000_10100011_00_1_101_110_011_01101111 = some (.walk 3 6 5 1 163) ∧
  decodeTableWord 32 0b00000000000000_1_101_110_011_01110001 = some (.wstep 3 6 5 1) ∧
  decodeTableWord 32 0b0000_1001_1101_000_011_00000001110011 = some (.wres 3 13 9) ∧
  decodeTableWord 32 0b0000_1101_0000000_011_00000001110101 = some (.wfix 3 13) ∧
  decodeTableWord 32 0b00000000_1001_110_011_00000001110111 = some (.wcnt 3 6 9) :=
  ⟨rfl, rfl, rfl, rfl, rfl, rfl, rfl, rfl, rfl, rfl, rfl, rfl, rfl, rfl, rfl, rfl⟩

theorem test_decode_messages :
  decodeTableWord 32 0b000_101_100101_010110_00000001111001 = some (.send 22 37 5) ∧
  decodeTableWord 32 0b000_011_110010_100101_010110_01111011 = some (.sendr 22 37 50 3) ∧
  decodeTableWord 32 0b000_101_100101_010110_00000001111101 = some (.reply 22 37 5) ∧
  decodeTableWord 32 0b000000000000_100101_010110_01111111 = some (.bind 22 37) ∧
  decodeTableWord 32 0b000000000000000000_010110_10000001 = some (.unbind 22) ∧
  decodeTableWord 32 0b000000_100101_010110_00000010000011 = some (.hmask 22 37) ∧
  decodeTableWord 32 0b000000_100101_010110_00000010000101 = some (.hprio 22 37) ∧
  decodeTableWord 32 0b000000000000_100101_010110_10000111 = some (.peek 22 37) ∧
  decodeTableWord 32 0b000000000000_010110_00000010001001 = some (.drop 22) ∧
  decodeTableWord 32 0b00000000000000000000000010001011 = some .yield ∧
  decodeTableWord 32 0b00000000000000000000000010001101 = some .exit ∧
  decodeTableWord 32 0b000000000000_100101_010110_10001111 = some (.launch 22 37) ∧
  decodeTableWord 32 0b000000_110010_100101_010110_10010001 = some (.mqfold 22 37 50) ∧
  decodeTableWord 32 0b000000_100101_010110_00000010010011 = some (.mqbind 22 37) ∧
  decodeTableWord 32 0b000000000000_010110_00000010010101 = some (.mqdrain 22) ∧
  decodeTableWord 32 0b000000000000_100101_010110_10010111 = some (.mqstat 22 37) ∧
  decodeTableWord 32 0b000001_100101_010110_00000010010111 = some (.mqcfg 22 37) :=
  ⟨rfl, rfl, rfl, rfl, rfl, rfl, rfl, rfl, rfl, rfl, rfl, rfl, rfl, rfl, rfl, rfl, rfl⟩

theorem test_decode_memory :
  decodeTableWord 32 0b0_1011010101_000_1101_00_0110_10011001 = some (.ldB 6 13 725) ∧
  decodeTableWord 32 0b0_1011010101_001_1101_00_0110_10011001 = some (.ldH 6 13 725) ∧
  decodeTableWord 32 0b0_1011010101_010_1101_00_0110_10011001 = some (.ldW 6 13 725) ∧
  decodeTableWord 32 0b0_1011010101_011_1101_00_0110_10011001 = some (.ldD 6 13 725) ∧
  decodeTableWord 32 0b0_1011010101_100_1101_00_0110_10011001 = some (.ldSb 6 13 725) ∧
  decodeTableWord 32 0b0_1011010101_101_1101_00_0110_10011001 = some (.ldSh 6 13 725) ∧
  decodeTableWord 32 0b0_1011010101_110_1101_00_0110_10011001 = some (.ldSw 6 13 725) ∧
  decodeTableWord 32 0b0_1011010101_000_1101_00_0110_10011011 = some (.stB 6 13 725) ∧
  decodeTableWord 32 0b0_1011010101_001_1101_00_0110_10011011 = some (.stH 6 13 725) ∧
  decodeTableWord 32 0b0_1011010101_010_1101_00_0110_10011011 = some (.stW 6 13 725) ∧
  decodeTableWord 32 0b0_1011010101_011_1101_00_0110_10011011 = some (.stD 6 13 725) ∧
  decodeTableWord 32 0b0_1011010101_10101_1101_0110_10011101 = some (.ldv 6 13 21 725) ∧
  decodeTableWord 32 0b0_1011010101_10101_1101_0110_10011111 = some (.stv 6 13 21 725) ∧
  decodeTableWord 32 0b000000000000_100101_010110_10100001 = some (.rld 22 37) ∧
  decodeTableWord 32 0b000000_100101_010110_00000010100011 = some (.rst 22 37) ∧
  decodeTableWord 32 0b000000_100101_010110_00000010100101 = some (.rdf 22 37) ∧
  decodeTableWord 32 0b000000_110010_100101_010110_10100111 = some (.wrf 22 37 50) ∧
  decodeTableWord 32 0b000000000000_100101_010110_10101001 = some (.ldf 22 37) ∧
  decodeTableWord 32 0b000000_100101_010110_00000010101011 = some (.stf 22 37) ∧
  decodeTableWord 32 0b000000_110010_100101_010110_10101101 = some (.cas 22 37 50) ∧
  decodeTableWord 32 0b000000_110010_100101_010110_10101111 = some (.amoAdd 22 37 50) ∧
  decodeTableWord 32 0b000001_110010_100101_010110_10101111 = some (.amoAnd 22 37 50) ∧
  decodeTableWord 32 0b000010_110010_100101_010110_10101111 = some (.amoOr 22 37 50) ∧
  decodeTableWord 32 0b000011_110010_100101_010110_10101111 = some (.amoXor 22 37 50) ∧
  decodeTableWord 32 0b000100_110010_100101_010110_10101111 = some (.amoMin 22 37 50) ∧
  decodeTableWord 32 0b000101_110010_100101_010110_10101111 = some (.amoMax 22 37 50) ∧
  decodeTableWord 32 0b000110_110010_100101_010110_10101111 = some (.amoMinu 22 37 50) ∧
  decodeTableWord 32 0b000111_110010_100101_010110_10101111 = some (.amoSwap 22 37 50) :=
  ⟨rfl, rfl, rfl, rfl, rfl, rfl, rfl, rfl, rfl, rfl, rfl, rfl, rfl, rfl, rfl, rfl, rfl, rfl, rfl, rfl, rfl, rfl, rfl, rfl, rfl, rfl, rfl, rfl⟩

theorem test_decode_phases :
  decodeTableWord 32 0b000000_100101_010110_00000010110001 = some (.phase 22 37) ∧
  decodeTableWord 32 0b000001_010110_00000000000010110001 = some (.fence 22) ∧
  decodeTableWord 32 0b000000000000_100101_010110_10110011 = some (.tstate 22 37) ∧
  decodeTableWord 32 0b000001_100101_010110_00000010110011 = some (.twait 22 37) ∧
  decodeTableWord 32 0b000010_100101_010110_00000010110011 = some (.lfill 22 37) ∧
  decodeTableWord 32 0b000011_100101_010110_00000010110011 = some (.lempty 22 37) ∧
  decodeTableWord 32 0b000000000000_010110_00000010110101 = some (.semp 22) ∧
  decodeTableWord 32 0b000001000000_010110_00000010110101 = some (.semv 22) ∧
  decodeTableWord 32 0b000010000000_100101_010110_10110101 = some (.semr 22 37) :=
  ⟨rfl, rfl, rfl, rfl, rfl, rfl, rfl, rfl, rfl⟩

theorem test_decode_engines :
  decodeTableWord 32 0b000000000000_100101_010110_10110111 = some (.strm 22 37) ∧
  decodeTableWord 32 0b000001_110010_100101_010110_10110111 = some (.strmx 22 37 50) ∧
  decodeTableWord 32 0b000010000000000000_010110_10110111 = some (.strmoff 22) ∧
  decodeTableWord 32 0b000011_110010_100101_010110_10110111 = some (.xfer 22 37 50) ∧
  decodeTableWord 32 0b000100_110010_100101_010110_10110111 = some (.gath 22 37 50) ∧
  decodeTableWord 32 0b00010100000000000000000010110111 = some .gend ∧
  decodeTableWord 32 0b000110_110010_100101_010110_10110111 = some (.mcast 22 37 50) ∧
  decodeTableWord 32 0b000111000000_100101_010110_10110111 = some (.engq 22 37) ∧
  decodeTableWord 32 0b000000000000_100101_010110_10111001 = some (.glz 22 37) ∧
  decodeTableWord 32 0b000000_110010_100101_010110_10111011 = some (.plane 22 37 50) ∧
  decodeTableWord 32 0b000001_110010_100101_010110_10111011 = some (.unplane 22 37 50) ∧
  decodeTableWord 32 0b000010_110010_100101_010110_10111011 = some (.lkenc 22 37 50) ∧
  decodeTableWord 32 0b000011_110010_100101_010110_10111011 = some (.lkdec 22 37 50) :=
  ⟨rfl, rfl, rfl, rfl, rfl, rfl, rfl, rfl, rfl, rfl, rfl, rfl, rfl⟩

theorem test_decode_system :
  decodeTableWord 32 0b0000_01101000101011_010110_10111101 = some (.srr 22 6699) ∧
  decodeTableWord 32 0b0001_01101000101011_010110_10111101 = some (.srw 22 6699) ∧
  decodeTableWord 32 0b0010_01101000101011_00000010111101 = some (.trap 6699) ∧
  decodeTableWord 32 0b0011_01101000101011_00000010111101 = some (.bkpt 6699) ∧
  decodeTableWord 32 0b0100_0_00000_10100011_0000_10_10111101 = some (.mirror 2 163 0) ∧
  decodeTableWord 32 0b01010000000000000000000010111101 = some .eret ∧
  decodeTableWord 32 0b011000000000000000_010110_10111101 = some (.halt 22) ∧
  decodeTableWord 32 0b000000000000000000_010110_10111111 = some (.image 22) ∧
  decodeTableWord 32 0b000100000000000000_010110_10111111 = some (.resume 22) ∧
  decodeTableWord 32 0b001000000000000000_010110_10111111 = some (.tlbw 22) ∧
  decodeTableWord 32 0b001100000000000000_010110_10111111 = some (.tlbiDrain 22) ∧
  decodeTableWord 32 0b001100000000000001_010110_10111111 = some (.tlbiConfirm 22) ∧
  decodeTableWord 32 0b010000000000000000_010110_10111111 = some (.fltrplRetry 22) ∧
  decodeTableWord 32 0b010000000000000001_010110_10111111 = some (.fltrplFail 22) :=
  ⟨rfl, rfl, rfl, rfl, rfl, rfl, rfl, rfl, rfl, rfl, rfl, rfl, rfl, rfl⟩

/-! ### Scalar and control instructions -/

/-- W1 = -5, W2 = 7, K3 = 9 on an arithmetic core; a message 21 in channel 4; Q4, read by this core, holds 6. -/
def sc : State :=
  let s := withBox (withK (withW (withW (on 2) 1 neg5) 2 7) 3 9) 4 [21]
  s.setQueue 0 4 [⟨0, 0, 6⟩]

theorem test_short_word_forms : running sc 0 = true ∧ kOk sc 3 = true ∧ wOk sc 1 = true ∧ wOk sc 2 = true ∧
    exec (.mov16 1 3) sc = .next (past 2 (setW sc 1 9)) ∧ exec (.sub16 1 2 0) sc = .next (past 2 (setW sc 1 (-12))) ∧
    exec (.mul16 1 3 1) sc = .next (past 2 (setW sc 1 (-45))) ∧ exec (.neg16 2 1 0) sc = .next (past 2 (setW sc 2 5)) :=
  ⟨rfl, rfl, rfl, rfl, rfl, rfl, rfl, rfl⟩
theorem test_short_all : shortTwo.map (fun p => exec (p.1 1 2 0) sc) = shortTwo.map (fun p => .next (past 2 (setW sc 1 (p.2 (-5) 7)))) ∧
    shortTwo.map (fun p => exec (p.1 1 3 1) sc) = shortTwo.map (fun p => .next (past 2 (setW sc 1 (p.2 (-5) 9)))) ∧
    shortOne.map (fun p => exec (p.1 2 1 0) sc) = shortOne.map (fun p => .next (past 2 (setW sc 2 (p.2 (-5))))) := ⟨rfl, rfl, rfl⟩
/-- Fields 1 and 2 are W registers, 36 is Q4, 44 is channel 4. -/
theorem test_scalar_results : running sc 0 = true ∧ wDest sc 3 = true ∧ wSource sc 36 = true ∧ wSource sc 44 = true ∧
    source sc 36 = some (6, sc.setQueue 0 4 []) ∧ source (sc.setQueue 0 4 []) 44 = some (21, (sc.setQueue 0 4 []).setBox 2 4 []) ∧
    canTake ((sc.setQueue 0 4 []).setBox 2 4 []) 3 = true ∧
    exec (.mul 3 36 44) sc = .next (past 4 (setW ((sc.setQueue 0 4 []).setBox 2 4 []) 3 126)) :=
  ⟨rfl, rfl, rfl, rfl, rfl, rfl, rfl, rfl⟩
theorem test_scalar_all : twoSources.map (fun p => exec (p.1 3 1 2) sc) = twoSources.map (fun p => .next (past 4 (setW sc 3 (p.2 (-5) 7)))) := rfl
theorem test_division : quotS (-5) 7 = 0 ∧ remS (-5) 7 = -5 ∧ quotS (-7) 5 = -1 ∧ quotS 3 0 = BitVec.allOnes 64 ∧ remU 3 0 = 3 ∧
    quotS (BitVec.intMin 64) (-1) = BitVec.intMin 64 ∧ remS (BitVec.intMin 64) (-1) = 0 ∧ mulHigh (-5) 7 = -1 ∧ mulHighU (-5) 7 = 6 := by decide
theorem test_one_source : exec (.clz 3 2) sc = .next (past 4 (setW sc 3 61)) ∧ exec (.ctz 3 2) sc = .next (past 4 (setW sc 3 0)) ∧
    exec (.popc 3 1) sc = .next (past 4 (setW sc 3 63)) ∧ exec (.bswap 3 2) sc = .next (past 4 (setW sc 3 0x0700000000000000)) ∧
    exec (.mov 3 1) sc = .next (past 4 (setW sc 3 (-5))) := ⟨rfl, rfl, rfl, rfl, rfl⟩
theorem test_constant_results : kOk sc 3 = true ∧ kOk sc 0 = true ∧ kOk sc 1 = true ∧ canTake sc 3 = true ∧ source sc 1 = some (-5, sc) ∧
    exec (.movK 3 3) sc = .next (past 4 (setW sc 3 9)) ∧ exec (.sarImm 3 1 1) sc = .next (past 4 (setW sc 3 (-3))) ∧
    exec (.arel 3 2 2) sc = .next (past 4 (setW sc 3 0x1C000007)) ∧ exec (.arelK 3 2 3) sc = .next (past 4 (setW sc 3 0x24000007)) :=
  ⟨rfl, rfl, rfl, rfl, rfl, rfl, rfl, rfl, rfl⟩
theorem test_constant_all :
    constantForms.map (fun p => exec (p.1 3 1 3) sc) = constantForms.map (fun p => .next (past 4 (setW sc 3 (p.2 (-5) 9)))) ∧
    countForms.map (fun p => exec (p.1 3 1 4) sc) = countForms.map (fun p => .next (past 4 (setW sc 3 (p.2 (-5) 4)))) := ⟨rfl, rfl⟩
/-- R36: displacement 0xFFE is -2, so the target is IP - 4. -/
theorem test_branches :
    branches.map (fun p => exec (p.1 1 2 0xFFE) sc) = branches.map (fun p => .next (if p.2 (-5) 7 then goTo 0x2FFC sc else past 4 sc)) ∧
    branchTo 0x3000 12 0xFFE = 0x2FFC ∧ branchTo 0 24 0xFFFFFF = 0x1FFFFE := ⟨rfl, rfl, rfl⟩
theorem test_control_results : exec .nop sc = .next (past 4 sc) ∧ exec (.j 4) sc = .next (goTo 0x3008 sc) ∧
    exec (.call 4) sc = .next (goTo 0x3008 (setW sc 15 0x3004)) ∧ exec (.loop 2 4) sc = .next (goTo 0x3008 (setW sc 2 6)) ∧
    exec (.loop 2 4) (setW sc 2 1) = .next (past 4 (setW (setW sc 2 1) 2 0)) ∧ wOk sc 2 = true := ⟨rfl, rfl, rfl, rfl, rfl, rfl⟩
theorem test_register_jumps : let s := setW sc 2 0x1FFFFE
    source s 2 = some (0x1FFFFE, s) ∧ exec (.jr 2) s = .next (goTo 0x1FFFFE s) ∧
    exec (.callr 2) s = .next (goTo 0x1FFFFE (setW s 15 0x3004)) := ⟨rfl, rfl, rfl⟩

/-- READY tile-table entry 5 covers line 64 of the vat, where W0 to W15 of the workspace at 0x2000 stand. -/
def held (s : State) : State := s.setTile s.node 5 { v := true, slot := s.curEntry.slot, first := 64, state := .ready, uses := 1, uleft := 1 }
theorem test_scalar_waits : let s := held (setW (setW (on 2) 1 5) 2 7)
    wFree s 3 = false ∧ source s 1 = some (5, s) ∧ source s 2 = some (7, s) ∧
    exec (.add 3 1 2) s = .next (s.blockEntry s.curKey .retry) := by
  refine ⟨rfl, rfl, rfl, rfl⟩

/-! ### Vector and mask instructions -/

/-- `x` in the three lowest lanes of 32 bits, 0 in the others. -/
def three (x : Nat) : Nat := packFields 32 [x, x, x]
/-- V1 = 1.0, V2 = 2.0, V3 = 3.0 in the three lowest F32 lanes; M1 selects lanes 0 and 2; W1 = -5, W2 = 7, W6 = 1; K3 = 2.0. -/
def vc : State :=
  let s := withK (withM (withW (withW (withW (on 2) 1 neg5) 2 7) 6 1) 1 5) 3 0x40000000
  withV (withV (withV s 1 tF32 (three 0x3F800000)) 2 tF32 (three 0x40000000)) 3 tF32 (three 0x40400000)
/-- V4 = 3, 0, 1, 0, … as N8 and V5 = -3 in the three lowest S32 lanes; the rest as above. -/
def vi : State :=
  let s := withM (withW (withW (withW (on 2) 1 neg5) 2 7) 6 1) 1 5
  withV (withV s 4 tN8 0x010003) 5 tS32 (three 0xFFFFFFFD)
/-- Lanes 0 and 2 of V`n` set to `x`, the others as they were. -/
def lanes02 (s : State) (n x : Nat) : State := setReg (setReg s (0x80 + 64 * n) 4 x) (0x80 + 64 * n + 8) 4 x

theorem test_lane_results_masked : running vc 1 = true ∧ vSource vc 17 = true ∧ vSourceOf vc 17 = some (⟨tF32, three 0x3F800000⟩, vc) ∧
    bReads vc vc (.field 18) tF32 = some (⟨tF32, three 0x40000000⟩, vc) ∧ laneAllowed .add tF32 = true ∧ vDest vc 22 = true ∧
    maskOk vc 1 = true ∧ gives (exec (.vadd 22 17 18 1) vc) (past 4 (flagged {} (setTag (lanes02 vc 6 0x40400000) 6 tF32))) := by decide +kernel
/-- V3 := 1.0 · 2.0 + 3.0, with V[W6 + 1] for b in the relative form. -/
theorem test_lane_results_fma : vRead vc 3 = some (⟨tF32, three 0x40400000⟩, vc) ∧
    gives (exec (.vfma 19 17 18 0) vc) (past 4 (flagged {} (setTag (setReg vc 0x140 64 (three 0x40A00000)) 3 tF32))) ∧
    relReg vc 22 = some 2 ∧ gives (exec (.vfmaRel 19 17 22 0) vc) (past 4 (setTag (setReg vc 0x140 64 (three 0x40A00000)) 3 tF32)) ∧
    gives (exec (.vfmaK 19 17 3 0) vc) (past 4 (setTag (setReg vc 0x140 64 (three 0x40A00000)) 3 tF32)) := by decide +kernel
theorem test_lane_results_short : isV 17 = true ∧ gives (exec (.mul16 17 18 0) vc) (past 2 (flagged {} (setTag (setReg vc 0xC0 64 (three 0x40000000)) 1 tF32))) ∧
    gives (exec (.neg16 17 18 0) vc) (past 2 (flagged {} (setTag (setReg vc 0xC0 64
      (packFields 32 ([0xC0000000, 0xC0000000, 0xC0000000] ++ List.replicate 13 0x80000000))) 1 tF32))) := by decide +kernel
/-- 1.0 / 3.0 is not exact: NX. -/
theorem test_division_flags : gives (exec (.vdiv 22 17 19 1) vc) (past 4 (flagged { nx := true } (setTag (lanes02 vc 6 0x3EAAAAAB) 6 tF32))) := by decide +kernel
theorem test_integer_results : intLane .sar 32 true 0xFFFFFFFD 1 0 = 0xFFFFFFFE ∧ intLane .min 8 true 0x80 0x7F 0 = 0x80 ∧
    intLane .min 8 false 0x80 0x7F 0 = 0x7F ∧ intLane .shl 8 false 0x81 1 0 = 2 ∧
    matElem 0 true [(valOfInt (-3), valOfInt 5)] 7 = (0xFFFFFFF8, {}) := by decide +kernel
theorem test_compare_results : isM 58 = true ∧ isLaneTag tF32 = true ∧ gives (exec (.vcmplt 58 17 18 1) vc) (past 4 (setM vc 2 5)) ∧
    gives (exec (.vcmpleK 58 19 3 1) vc) (past 4 (setM vc 2 0)) := by decide +kernel
theorem test_select_results : isLane15 tF32 = true ∧ mOk vc 1 = true ∧
    gives (exec (.vsel 22 17 18 1) vc) (past 4 (setTag (setReg vc 0x200 64
      (packFields 32 [0x3F800000, 0x40000000, 0x3F800000])) 6 tF32)) ∧
    gives (exec (.vperm 22 20 20 0) vi) (past 4 (setTag (setReg vi 0x200 64 (packFields 8 ([0, 3, 0] ++ List.replicate 61 3))) 6 tN8)) := by decide +kernel
/-- 3 · (1.0 · 2.0) = 6.0; the sum of two active lanes of 3.0; the first active lane from 1 up that is not zero is lane 2. -/
theorem test_reduction_results : gives (exec (.vdot 22 17 18 0) vc) (past 4 (flagged {} (setTag (setReg vc 0x200 64 0x40C00000) 6 tF32))) ∧
    reduceOp 0 = .add ∧ laneAllowed (reduceOp 0) tF32 = true ∧ gives (exec (.vred 7 19 0 1) vc) (past 4 (flagged {} (setW vc 7 0x40C00000))) ∧
    gives (exec (.vnzs 7 17 6 1) vc) (past 4 (setW vc 7 2)) := by decide +kernel
/-- With no active lane VRED gives 0, or the first lanes found: here M2 = 0. -/
theorem test_reduction_empty : gives (exec (.vred 7 19 0 2) vc) (past 4 (setW vc 7 0)) := by decide +kernel
theorem test_lane_moves : gives (exec (.vbcast 22 2 tN8 0) vc) (past 4 (setTag (setReg vc 0x200 64 (packFields 8 (List.replicate 64 7))) 6 tN8)) ∧
    gives (exec (.vbcastK 22 tF32 3 1) vc) (past 4 (setTag (lanes02 vc 6 0x40000000) 6 tF32)) ∧
    gives (exec (.vext 7 20 6 0) vi) (past 4 (setW vi 7 0)) ∧ gives (exec (.vext 7 21 6 0) vi) (past 4 (setW vi 7 0xFFFFFFFFFFFFFFFD)) ∧
    gives (exec (.vext 7 21 6 1) vi) (past 4 (setW vi 7 0)) ∧
    gives (exec (.vins 20 2 1 0) vi) (past 4 (setReg vi 0x187 1 0xFB)) := by decide +kernel
theorem test_unary_vector_results : isVTag tS32 = true ∧
    gives (exec (.vmov 22 20 0) vi) (past 4 (setTag (setReg vi 0x200 64 0x010003) 6 tN8)) ∧
    gives (exec (.vmov 22 17 1) vc) (past 4 (setTag (lanes02 vc 6 0x3F800000) 6 tF32)) ∧
    gives (exec (.vabs 22 21 0) vi) (past 4 (flagged {} (setTag (setReg vi 0x200 64 (three 3)) 6 tS32))) ∧
    gives (exec (.vtag 22 21 tN32 0) vi) (past 4 (setTag (setReg vi 0x200 64 (three 0xFFFFFFFD)) 6 tN32)) := by decide +kernel
/-- -3 as F32 is 0xC0400000; V[W6 + 1] is V2 as a source and as a destination. -/
theorem test_conversion : gives (exec (.vcvt 22 21 tF32 0) vi) (past 4 (flagged {} (setTag (setReg vi 0x200 64 (three 0xC0400000)) 6 tF32))) ∧
    gives (exec (.vmovRelA 22 22 0) vc) (past 4 (setTag (setReg vc 0x200 64 (three 0x40000000)) 6 tF32)) ∧
    gives (exec (.vmovRelD 22 17 0) vc) (past 4 (setTag (setReg vc 0x100 64 (three 0x3F800000)) 2 tF32)) ∧
    gives (exec (.vsqrt 22 17 1) vc) (past 4 (flagged {} (setTag (lanes02 vc 6 0x3F800000) 6 tF32))) := by decide +kernel
theorem test_mask_results : mOk vc 2 = true ∧ gives (exec (.mnot 58 57) vc) (past 4 (setM vc 2 0xFFFFFFFFFFFFFFFA)) ∧
    gives (exec (.mor 58 57 57) vc) (past 4 (setM vc 2 5)) ∧ gives (exec (.mxor 58 57 57) vc) (past 4 (setM vc 2 0)) ∧
    gives (exec (.mmov 58 1) vc) (past 4 (setM vc 2 (-5))) ∧ gives (exec (.mmov 7 57) vc) (past 4 (setW vc 7 5)) := by decide +kernel

/-! ### Local memory -/

/-- W2 = 0x4000, where the bytes 80 FF 01 … stand; W3 = 0x38 (K7), W4 = 0x838, a word of another window; W1 = -5. -/
def lm : State := withWords (withW (withW (withW (withW (on 2) 1 neg5) 2 0x4000) 3 0x38) 4 0x838) 0x4000 [0x8007060504FF80, 9]

theorem test_load_results : loadOk lm 0x4000 8 = true ∧ localAddr lm 2 0x3FF 4 = 0x3FFC ∧
    gives (exec (.ldSb 7 2 0) lm) (past 4 (setW lm 7 (-128))) ∧ gives (exec (.ldH 7 2 0) lm) (past 4 (setW lm 7 0xFF80)) ∧
    gives (exec (.ldSh 7 2 0) lm) (past 4 (setW lm 7 (-128))) ∧ gives (exec (.ldW 7 2 1) lm) (past 4 (setW lm 7 0x800706)) ∧
    gives (exec (.ldD 7 2 1) lm) (past 4 (setW lm 7 9)) := by decide +kernel
/-- R21: offset 0x38 shows the role of core 2; R20: another window reads as zero. -/
theorem test_load_window : loadOk lm 0x38 8 = true ∧ loadOk lm 0x838 8 = true ∧ gives (exec (.ldD 7 3 0) lm) (past 4 (setW lm 7 2)) ∧
    gives (exec (.ldD 7 4 0) lm) (past 4 (setW lm 7 0)) := by decide +kernel
theorem test_store_results : lm.tileHeld 0 0x4002 2 = false ∧ gives (exec (.stH 1 2 1) lm) (past 4 (lm.poke 0x4002 2 0xFFFB)) ∧
    gives (exec (.stB 1 2 0x3FF) lm) (past 4 (lm.poke 0x3FFF 1 0xFB)) := by decide +kernel
/-- A store below 0x2000, and a misaligned one, trap without a handler: the entry ends masked. -/
theorem test_store_traps : goes (exec (.stD 1 3 0) lm) (fun t => (t.entry 64).msk && t.mem == lm.mem) ∧
    goes (exec (.stW 1 3 0) (setW lm 3 0x2002)) (fun t => (t.entry 64).msk) := by decide +kernel
theorem test_vector_memory : isVTag tF32 = true ∧ localAddr lm 2 0 64 = 0x4000 ∧ loadOk lm 0x4000 64 = true ∧
    gives (exec (.ldv 6 2 tF32 0) lm) (past 4 (setTag (setReg lm 0x200 64 (9 * 2 ^ 64 + 0x8007060504FF80)) 6 tF32)) ∧
    gives (exec (.stv 3 2 tF32 1) (setW vc 2 0x4000)) (past 4 ((setW vc 2 0x4000).poke 0x4040 64 (three 0x40400000))) := by decide +kernel

/-! ### The matrix array -/

/-- Z0 names run 0 of four banks; T0 is a full N8 tile of one row and one column at 0x4000, whose element is 3; T1 is a plane N8 tile at 0x4080
whose element is 5 = 101: planes 0 and 2 have their bit; T2 is a progress tile at 0x6000; W2 = 0x8000, W3 = 0; K8 and K9 are T1's
descriptor words with its format. -/
def mm : State :=
  let s := withK (withK (withW (withW (on 2) 2 0x8000) 3 0) 8 (0x4080 + tN8 * 2 ^ 24 + 2 ^ 29)) 9 0
  let s := withT (withT (withT s 0 tN8 0x4000) 1 tN8 (0x4080 + 2 ^ 29)) 2 tPRG (0x6000 + 2 * 2 ^ 29)
  let s := setZ (s.setRun 0 0 ⟨4, 1, 0, 64, 0x2000⟩) 0 (0x10000 + 0x400)
  withWords (withWords (withWords s 0x4000 [3]) 0x4080 [1]) (0x4080 + 1024) [1]

theorem test_run_results : kOk mm 8 = true ∧ kOk mm 9 = true ∧ tileAccepted (tileDesc (0x4080 + tN8 * 2 ^ 24 + 2 ^ 29) tN8) ∧
    gives (exec (.tset 4 8) mm) (past 4 (setTag (setReg mm 0x500 16 (0x4080 + tN8 * 2 ^ 24 + 2 ^ 29)) 20 tN8)) := by
  unfold tileAccepted; decide +kernel
/-- With banks 0 to 3 taken, a run of K9 + 2 banks begins at bank 4, under the slot's generation 1; AFREE and AZERO act on run 0. -/
theorem test_runs : zOk mm 1 = true ∧ mm.liveRun (regVal mm 0x544 4) = none ∧ zOk mm 0 = true ∧ mm.liveRun (regVal mm 0x540 4) = some (0, ⟨4, 1, 0, 64, 0x2000⟩) ∧
    mget? mm.arrays 0 = none ∧ goes (exec (.aalloc 1 9) (withK mm 9 2)) (fun t => regVal t 0x544 4 == 0x10204 && t.run? 0 4 == some ⟨2, 1, 0, 64, 0x2000⟩) ∧
    gives (exec (.afree 0) mm) (past 4 (setZ { mm with runs := [] } 0 0)) ∧
    gives (exec (.azero 0) { mm with accMem := [(7, 1)] }) (past 4 (mm.setRun 0 0 ⟨4, 1, 0, 64, 0x2000⟩)) := by decide +kernel
/-- 3 · 5 = 15 in row 0. -/
theorem test_matrix_product : tOk mm 0 = true ∧ tOk mm 1 = true ∧ (tile mm 0).kind = 0 ∧ (tile mm 1).kind = 1 ∧ mm.tileReady 0 0 (tile mm 0) = true ∧
    mm.tileReady 0 0 (tile mm 1) = true ∧ isMatInt tN8 = true ∧
    goes (exec (.mma 0 0 1 1) mm) (fun t => t.accRow 0 0 0 == 15 && t.run? 0 0 == some ⟨4, 1, tS32, 64, 0x2000⟩ && t.agenda == [.arrayRetire 0]) ∧
    goes (exec (.mmaz 0 0 1 1) mm) (fun t => t.accRow 0 0 0 == 15 && t.curEntry.ip == 0x3004) := by decide +kernel
theorem test_tiles_accepted : tileAccepted (tile mm 0) ∧ tileAccepted (tile mm 1) ∧ tileAccepted (tile mm 2) := by
  unfold tileAccepted; decide +kernel
/-- Run 0 of one bank with S32 elements, of which the first is 7. -/
def mr : State := { setZ (mm.setRun 0 0 ⟨1, 1, tS32, 64, 0x2000⟩) 0 0x10100 with accMem := [(0, 7)] }
theorem test_run_moves : zOk mr 0 = true ∧ mr.liveRun (regVal mr 0x540 4) = some (0, ⟨1, 1, tS32, 64, 0x2000⟩) ∧ wOk mr 2 = true ∧
    mr.tileHeld 0 0x8000 0x800 = false ∧ mr.hasEmpty 0x8000 0x800 = false ∧ (List.range 8).all (fun r => !mr.accBad 0 0 r) = true ∧
    gives (exec (.amovv 0 6 3) mr) (past 4 (setTag (setReg mr 0x200 64 7) 6 tS32)) := by decide +kernel
theorem test_astore : goes (exec (.astore 0 1 2) mr) (fun t => t.peek 0x8000 8 == 7) := by decide +kernel
theorem test_aload : goes (exec (.aload 0 0 2) (mr.poke 0x8004 1 9)) (fun t => accByte t 4 == 9 &&
      accByte t 0 == 0 && t.run? 0 0 == some ⟨1, 1, tF32, 64, 0x2000⟩) := by decide +kernel
/-- A WALK with the row tile T0 and the progress tile T2, four levels at most. -/
def wj : WalkJob := { f := 0x4000, ftag := tN8, p := 0x6000 + 2 * 2 ^ 29, lim := 4, traps := false, single := false }
/-- A matrix instruction retires; a walk with one VALID row to step does not; with its row INVALID it does, and counts it. -/
theorem test_array_retirement : let s : State := { mm with arrays := [(0, ⟨64, 0, [], [], none⟩)] }
    let w : State := { (mm.blockEntry 64 .walk) with arrays := [(0, ⟨64, 0, [], [], some wj⟩)] }
    gives (exec (.arrayRetire 0) s) mm ∧ goes (exec (.walkStepCommit 0) (w.poke 0x6000 8 (2 ^ 58))) (fun t =>
      (t.entry 64).state == .active && (t.entry 64).ip == 0x3004 && t.peek 0x2000 8 == 2 ^ 8 && mget? t.arrays 0 == none) := by decide +kernel

/-- The array holds another instruction. -/
theorem test_array_waits : let s : State := { mm with arrays := [(0, ⟨68, 4, [], [], none⟩)] }
    mm.arrayTurn mm.curKey = true ∧ gives (exec (.mma 0 0 1 1) s) (s.blockEntry 64 .array) ∧ gives (exec (.mmaz 0 0 1 1) s) (s.blockEntry 64 .array) := by
  decide +kernel
/-- A walk in the array, its row's record `rec`; near nodes: a leaf at 0xB000 (node id 77) and an inner node at 0xA000 (rule 0, children 0xE000 and
0xB000), with the matrix at 0xC000 whose element is 5. -/
def wl (w : WalkJob) (rec : Nat) : State :=
  let s := { mm.blockEntry 64 .walk with arrays := [(0, ⟨64, 0, [], [], some w⟩)] }
  let s := withWords (withWords s 0xC000 [1]) (0xC000 + 1024) [1]
  let h := 2 ^ 21 + 2 ^ 28 + tN8 * 2 ^ 35
  let s := withWords (withWords (withWords s 0xB000 [h + 1, 0xC000, 0, 77 * 2 ^ 32]) 0xA000 [h + 2 * 2 ^ 16, 0xC000, 0xD000, 0]) 0xD000 [0xE000, 0xB000]
  withWords s 0x6000 [rec, 0]
theorem test_walk_pointers : nearPointer 0xA000 0xA000 64 128 ∧ nearPointer 0xC000 0xC000 (planeSize tN8) 128 ∧ nearPointer 0xD000 0xD000 16 8 := by
  unfold nearPointer; decide
/-- A null pointer faults with code 1; where traps are on, the handler traps. -/
theorem test_walk_null : (wl wj 0).stepRows 0 wj = [(0, 0)] ∧ goes (exec (.walkStepCommit 0) (wl wj 0)) (fun t =>
      t.peek 0x6000 8 == 2 ^ 60 + 3 * 2 ^ 58 && t.agenda == [.walkStepCommit 0]) ∧
    goes (exec (.walkStepCommit 0) ((wl { wj with traps := true } 0).modCore 2 (fun c => { c with eh := [(0, 0x140000100005000#64)] }))) (fun t =>
      t.curEntry.ip == 0x5000 && fld t.curEntry.st.toNat 48 6 == 0x0C && fld t.curEntry.st.toNat 24 24 == 32 && t.arrays == []) := by decide +kernel
/-- A leaf: the row is DONE with the node's id, its accumulator row 3 · 5; WSTEP retires with one row DONE. -/
theorem test_walk_leaf : readable (wl wj 0xB000) 0xB000 64 = true ∧ (wl wj 0xB000).hasEmpty 0xC000 4096 = false ∧
    (let h := nodeOfWords ((List.range 8).map (fun i => (wl wj 0).peek (0xB000 + 8 * i) 8))
     headerBad h true = false ∧ h.kind = 1 ∧ h.din = 1 ∧ h.dout = 1 ∧ h.mptr = 0xC000) ∧
    goes (exec (.walkStepCommit 0) (wl wj 0xB000)) (fun t => t.peek 0x6000 16 == 2 ^ 58 + 77 && t.accRow 0 0 0 == 15 &&
      (t.run? 0 0).map (·.afmt) == some tS32 && t.agenda == [.walkStepCommit 0]) ∧
    goes (exec (.walkStepCommit 0) (wl { wj with single := true } 0xB000)) (fun t => t.curEntry.ip == 0x3004 && wVal t 0 == 2 ^ 8 && t.arrays == []) := by
  decide +kernel
/-- An inner node: 15 is not below 0, so child 1, a level deeper, with 1 in PATH; once more from the node cache, where the header stands. -/
theorem test_walk_inner : let h := nodeOfWords ((List.range 8).map (fun i => (wl wj 0).peek (0xA000 + 8 * i) 8))
    headerBad h true = false ∧ h.kind = 0 ∧ h.mode = 0 ∧ h.kch = 2 ∧ decide3 true h [15] = some 1 ∧
    goes (exec (.walkStepCommit 0) (wl wj 0xA000)) (fun t => t.peek 0x6000 16 == 2 ^ 64 + 2 ^ 49 + 0xB000 &&
      ((mget? t.arrays 0).bind (·.walk)).map (fun w => w.cache.map (·.1)) == some [0xA000]) ∧
    (let w := { wj with cache := [(0xA000, (List.range 8).map (fun i => (wl wj 0).peek (0xA000 + 8 * i) 8))] }
     ((wl w 0xA000).cachedHeader 0 0xA000).isSome = true ∧ goes (exec (.walkStepCommit 0) ((wl w 0xA000).poke 0xA000 8 0)) (fun t =>
       t.peek 0x6000 16 == 2 ^ 64 + 2 ^ 49 + 0xB000)) := by decide +kernel
/-- W0's line is held by a READY tile: the walk with nothing to do waits with its step over. -/
theorem test_walk_held : let s := held (wl wj (2 ^ 58))
    s.walkHeld 0 ⟨64, 0, [], [], some wj⟩ = true ∧ goes (exec (.walkStepCommit 0) s) (fun t =>
      ((mget? t.arrays 0).bind (·.walk)).map (·.stepped) == some true && t.agenda == [.walkStepCommit 0]) := by decide +kernel
/-- Rules 0 and 2 compare element 0 with 0 or the threshold; rule 1 takes the greatest, the first of equals. -/
theorem test_walk_decisions : let h : WalkNode := ⟨true, 0, 0, 0, 2, 1, 1, tN8, 0, 0, 7, 0⟩
    decide3 true h [0xFFFFFFFF] = some 0 ∧ decide3 true h [0] = some 1 ∧ decide3 true { h with rule := 2 } [6] = some 0 ∧
    decide3 true { h with rule := 2 } [7] = some 1 ∧ decide3 true { h with rule := 1, kch := 3 } [5, 9, 9] = some 1 := by decide +kernel

/-- `mr` with identity words for a chain of two vats side by side, of which this one is number `me`; W3 is the chain word `w`. -/
def ch (me w : Nat) : State := withW (withK (withK (withK (withK mr 2 me) 3 2) 4 1) 5 0) 3 w
theorem test_chain_results : kOk (ch 0 0) 5 = true ∧ wOk (ch 0 0) 3 = true ∧ gives (exec (.achain 0 3) (ch 0 0)) (past 4 (ch 0 0)) ∧
    (let s := ch 0 0x10000
     gives (exec (.achain 0 3) s) (((s.modEntry 64 (fun e => { e with asked := true })).later (.chainReserveRequest ⟨2, 0, 1, 1⟩)).blockEntry
       64 .chainGrant)) ∧
    (let s := (ch 0 0x10000).modEntry 64 (fun e => { e with asked := true, grant := true })
     goes (exec (.achain 0 3) s) (fun t => t.curEntry.wait == .chainSent && !t.curEntry.grant && t.agenda == [.chainPartialArrival ⟨2, 0, 1, 1⟩
       ⟨1, tS32, 7 :: List.replicate 511 0, List.replicate 8 false⟩])) := by decide +kernel
/-- Vat `me` of a chain from 0 to `hi` of three, with the partial 5, 0, … and a poisoned row 0 in its inbox; `q` changes it. -/
def chIn (me hi : Nat) (q : Partial → Partial) : State :=
  (withK (ch me (hi * 2 ^ 16)) 3 3).modSlot 0 0 (fun r => { r with inbox := some (q ⟨1, tS32, 5 :: List.replicate 511 0, [true]⟩) })
/-- The last vat adds it: 7 + 5 in element 0, 0 in element 511, row 0 poisoned, row 7 not. -/
def chEnd : State := chIn 1 1 id
theorem test_chain_end : (chEnd.curSlot?.bind (·.inbox)).map (fun q => (q.count, q.elems.length)) = some (1, 512) ∧
    goes (exec (.achain 0 3) chEnd) (fun t => laneAt 32 (t.accRow 0 0 0) 0 == 12 && laneAt 32 (t.accRow 0 0 7) 63 == 0 && t.accBad 0 0 0 &&
      !t.accBad 0 0 7 && (t.curSlot?.map (·.inbox)) == some none && t.curEntry.ip == 0x3004 && t.curEntry.st == chEnd.curEntry.st) := by decide +kernel
/-- F32: 1.0 + 2^-24 rounds and sets NX; a partial without format takes the run's. -/
theorem test_chain_float : let s := chIn 1 1 (fun q => { q with afmt := tF32, elems := 0x3F800000 :: List.replicate 511 0 })
    goes (exec (.achain 0 3) ({ s with accMem := storeN zeroFill [] 0 4 0x33800000 }.setRun 0 0 ⟨1, 1, tF32, 64, 0x2000⟩)) (fun t =>
      laneAt 32 (t.accRow 0 0 0) 0 == 0x3F800000 && t.curEntry.st == flagBits { nx := true }) ∧
    goes (exec (.achain 0 3) (chIn 1 1 (fun q => { q with afmt := 0 }))) (fun t => laneAt 32 (t.accRow 0 0 0) 0 == 12) := by decide +kernel
/-- A middle vat asks, and with its grant sends the sum on; of two requests that wait the older is granted the inbox. -/
theorem test_chain_middle : goes (exec (.achain 0 3) (chIn 1 2 id)) (fun t => t.curEntry.wait == .chainGrant && t.curEntry.asked &&
      t.agenda == [.chainReserveRequest ⟨2, 0, 2, 1⟩] && (t.curSlot?.bind (·.inbox)).isSome) ∧
    goes (exec (.achain 0 3) (((chIn 1 2 id).modEntry 64 (fun e => { e with grant := true })).modSlot 0 0 (fun r =>
      { r with asking := [⟨9, 0, 0, 1⟩, ⟨5, 0, 0, 1⟩] }))) (fun t => t.curEntry.wait == .chainSent && t.agenda == [.chainGrant ⟨9, 0, 0, 1⟩,
      .chainPartialArrival ⟨2, 0, 2, 1⟩ ⟨1, tS32, 12 :: List.replicate 511 0, true :: List.replicate 7 false⟩] &&
      (t.curSlot?.map (fun r => (r.inbox, r.asking))) == some (none, [⟨5, 0, 0, 1⟩])) := by decide +kernel
/-- A request for an inbox that is free is granted; the grant and the partial enter. -/
theorem test_chain_events : (mr.slotOfLid 0 1).map (·.1) = some 0 ∧
    goes (exec (.chainReserveRequest ⟨9, 0, 0, 1⟩) mr) (fun t => t.agenda == [.chainGrant ⟨9, 0, 0, 1⟩]) ∧
    goes (exec (.chainReserveRequest ⟨9, 0, 0, 1⟩) chEnd) (fun t => t.agenda == [] && (t.curSlot?.map (·.asking)) == some [⟨9, 0, 0, 1⟩]) ∧
    goes (exec (.chainGrant ⟨2, 0, 1, 1⟩) (ch 0 0)) (fun t => t.curEntry.grant) ∧
    goes (exec (.chainPartialArrival ⟨2, 0, 0, 1⟩ ⟨1, tS32, [5], []⟩) (mr.blockEntry 64 .chainSent)) (fun t =>
      t.curEntry.state == .active && t.curEntry.ip == 0x3004 && (t.curSlot?.map (·.inbox)) == some (some ⟨1, tS32, [5], []⟩)) := by decide +kernel

/-! ### The tree walk -/

theorem test_walk_enters : running mm 3 = true ∧ (tile mm 2).kind = 2 ∧ mm.tileReady 0 0 (tile mm 2) = true ∧ (tile mm 2).rows = (tile mm 0).rows ∧
    kOk mm 9 = true ∧ goes (exec (.walk 0 0 2 1 9) (withK mm 9 5)) (fun t => t.curEntry.wait == .walk && t.agenda == [.walkStepCommit 0] &&
      ((mget? t.arrays 0).bind (·.walk)).map (fun w => (w.lim, w.traps, w.single)) == some (5, true, false)) ∧
    goes (exec (.wstep 0 0 2 0) mm) (fun t => ((mget? t.arrays 0).bind (·.walk)).map (fun w => (w.lim, w.traps, w.single)) ==
      some (32, false, true)) := by decide +kernel
/-- One record: DONE (STATUS 1) with value 9; then FAULT (STATUS 3) with code 5, which WFIX clears. -/
theorem test_progress_records :
    (let s := withWords mm 0x6000 [2 ^ 58, 9]
     readable s 0x6000 16 = true ∧ goes (exec (.wres 2 5 3) s) (fun t => wVal t 5 == 0x400000000000000 && wVal t 6 == 9) ∧
     gives (exec (.wcnt 2 1 5) s) (past 4 (setW s 5 1)) ∧ gives (exec (.wcnt 2 0 5) s) (past 4 (setW s 5 0))) ∧
    (let s := withWords mm 0x6000 [3 * 2 ^ 58 + 5 * 2 ^ 60, 9]
     goes (exec (.wfix 2 3) s) (fun t => t.peek 0x6000 8 == 0 && t.peek 0x6008 8 == 9)) ∧
    gives (exec (.winit 2 2) mm) (past 4 (mm.poke 0x6000 16 0x8000)) := by decide +kernel

/-! ### Messages and handlers -/

/-- W2 names channel 4 of core 1 of vat 3, W3 the same with REL 0 and RT, W4 = 0x77; RFA is channel 5. -/
def ms : State :=
  let s := withW (withW (withW (on 2) 2 0x410003) 3 0x40410003) 4 0x77
  s.modSlot 0 0 (fun r => { r with rfcs := 0xFFFF0500 })
theorem test_send_results : destCore 0 false 0x410003 = some 13 ∧ slotFree ms = true ∧ ms.refusalChan = 5 ∧ chanField ms 45 = true ∧
    gives (exec (.send 2 4 0) ms) (past 4 ((slotTaken true ms).later (.messageAccept ⟨2, 13, 4, 0x410003, [0x77], 0, 5, 1, 0, 0⟩))) ∧
    gives (exec (.reply 3 4 0) ms) (past 4 ((slotTaken true ms).later (.messageAccept ⟨2, 13, 4, 0x40410003, [0x77], 2, 5, 1, 0, 0⟩))) ∧
    gives (exec (.sendr 45 2 4 0) ms) (past 4 ((slotTaken true ms).later
      (.messageAccept ⟨2, 13, 4, 0x410003, [0x40520000, 0x77], 1, 5, 1, 0, 0⟩))) := by decide +kernel
/-- To channel 4 of core 2 of vat 0, which the rectangle reserves; a refusal to channel 5; an item that waits for channel 6. -/
def mg : Message := ⟨2, 2, 4, 0x420000, [1, 2], 0, 5, 1, 0, 0⟩
theorem test_message_delivery : ms.waiting 2 4 = [] ∧ (ms.chanOwner 2 4).map (·.1) = some 0 ∧ ms.chanOwner 2 0 = none ∧
    goes (exec (.messageAccept mg) ms) (fun t => t.box 2 4 == [⟨1, false, false⟩, ⟨2, true, false⟩]) ∧
    gives (exec (.messageAccept { mg with chan := 0 }) ms) (ms.later (.refusalArrival { mg with chan := 0 } 2)) ∧
    gives (exec (.messageAccept mg) (withBox ms 4 (List.replicate 15 0))) ((withBox ms 4 (List.replicate 15 0)).later (.refusalArrival mg 1)) ∧
    gives (exec (.messageAccept mg) (ms.modSlot 0 0 (fun r => { r with stopped := true }))) ((ms.modSlot 0 0 (fun r =>
      { r with stopped := true })).later (.refusalArrival mg 3)) := by decide +kernel
theorem test_refusal : ms.box 2 5 = [] ∧ goes (exec (.refusalArrival mg 1) ms) (fun t => t.box 2 5 ==
      [⟨0x241, false, false⟩, ⟨0x420000, false, false⟩, ⟨1, false, false⟩, ⟨2, true, false⟩]) ∧
    goes (exec (.neverRefusedEntry 2 6) (ms.post 2 6 { words := [9], acq := true })) (fun t => t.box 2 6 == [⟨9, true, true⟩] &&
      t.waiting 2 6 == []) := by decide +kernel
theorem test_handler_controls : ms.entryOfLhn 0 = some 0 ∧ chanField ms 44 = true ∧ source (setW ms 6 0) 6 = some (0, setW ms 6 0) ∧
    goes (exec (.bind 44 6) ms) (fun t => t.curEntry.chans == 16) ∧
    goes (exec (.unbind 44) (ms.modEntry 64 (fun e => { e with chans := 0x30 }))) (fun t => t.curEntry.chans == 0x20) ∧
    goes (exec (.drop 44) (withBox (withBox ms 4 [1, 2]) 4 [1, 2])) (fun t => t.box 2 4 == []) ∧
    goes (exec (.peek 7 44) (withBox ms 4 [1, 2])) (fun t => wVal t 7 == 0x202) ∧
    goes (exec (.hmask 6 8) (setW ms 8 1)) (fun t => t.curEntry.msk) ∧ goes (exec (.hprio 6 8) (setW ms 8 7)) (fun t => t.curEntry.prio == 7) :=
  by decide +kernel
theorem test_handler_turns : goes (exec .yield ms) (fun t => t.curEntry.yld && t.curEntry.pset == []) ∧
    ms.arrays = [] ∧ ms.runs = [] ∧ goes (exec .exit ms) (fun t => t.curEntry.state == .idle && t.curEntry.wp == 0) ∧
    (let s := ms.modEntry 64 (fun e => { e with state := .idle, lnch := true, entry := 0x4000 })
     s.entryState 2 (s.entry 64) = .runnable ∧ goes (exec (.activationStart 2 0) (s.poke 0x2540 4 7)) (fun t => t.curEntry.state == .active &&
       t.curEntry.ip == 0x4000 && t.peek 0x2540 4 == 0 && t.peek 0x2020 8 == 0x77)) := by decide +kernel

/-- EH for `s`: WS 5 (0x2800), entry 0x5000. -/
def withEh (s : State) : State := s.modCore s.cur.ck (fun c => { c with eh := [(s.curEntry.slot, 0x140000100005000#64)] })
/-- WRES of a row with PSN takes the poison trap with the row in INFO; a mark of the record word alone raises none. -/
theorem test_progress_poison : let s := withEh (withWords mm 0x6000 [2 ^ 58 + 2 ^ 57, 9])
    regFree s 0x570 16 = true ∧ s.otherTrap s.curKey = false ∧ gives (exec (.wres 2 5 3) s) (entered s 0x09 (2 * 2 ^ 21) 0x3000) ∧
    goes (exec (.wres 2 5 3) ((withWords mm 0x6000 [2 ^ 58, 9]).mark 0x6000 8)) (fun t => wVal t 5 == 0x400000000000000) := by decide +kernel
/-- On a service core UNBIND changes nothing, and BIND, HMASK and HPRIO name no handler. -/
theorem test_service_controls : let s := withEh (setW (setW (on 8195) 6 0) 8 1)
    s.node = 2048 ∧ chanField s 44 = true ∧ source s 6 = some (0, s) ∧ source s 8 = some (1, s) ∧ s.otherTrap s.curKey = false ∧
    (eh s).getLsbD 32 = true ∧ gives (exec (.unbind 44) s) (past 4 s) ∧ gives (exec (.bind 44 6) s) (entered s 0x02 49 0x3000) ∧
    gives (exec (.hmask 6 8) s) (entered s 0x02 49 0x3000) ∧ gives (exec (.hprio 6 8) s) (entered s 0x02 49 0x3000) := by decide +kernel
/-- A REPLY for channel 4 of core 13, whose SENDR the vat's slot has still to see answered, goes to core 1 of that vat, and answers it. -/
theorem test_reply_answers : let s := ms.modSlot 0 0 (fun r => { r with tags := [(212, 1)] })
    s.sendTo 2 1 13 4 = (1, 213, ms) ∧ ms.sendTo 2 1 13 4 = (13, 0, ms) ∧ s.sendTo 0 1 13 4 = (13, 0, s) ∧ s.sendTo 2 6 13 4 = (13, 0, s) ∧
    gives (exec (.reply 3 4 0) s) (past 4 ((slotTaken true ms).later (.messageAccept ⟨2, 1, 4, 0x40410003, [0x77], 2, 5, 1, 0, 213⟩))) := by
  decide +kernel
/-- The core's mirror slots with their owner. -/
def mir (l : Map Nat) : State := sc.modCore 2 (fun c => { c with owner := some 0, mir := l })
/-- A handler with a `.mirror` list, and an EXIT that gives up a chain reservation and the mirror slots. -/
theorem test_mirror_turns : let s := (mir [(1, 20)]).modEntry 64 (fun e => { e with state := .idle, lnch := true, mirrors := [20, 3] })
    goes (exec (.activationStart 2 0) s) (fun t => t.core 2 == { sc.core 2 with owner := some 0, mir := [(0, 20), (1, 3)] }) ∧
    goes (exec .exit (((mir [(1, 20)]).modEntry 64 (fun e => { e with asked := true })).later (.chainReserveRequest ⟨2, 0, 1, 1⟩))) (fun t =>
      t.agenda == [] && (t.core 2).mir == [] && (t.core 2).owner == none && !t.curEntry.asked) := by decide +kernel

/-- R79: unsigned, signed and float lanes at the edges: 0x7F and 0x80; -0 below +0; a positive NaN above infinity and equal to itself. -/
theorem test_relation_edges : isLaneTag tN8 = true ∧ relHolds .lt tN8 0x7F 0x80 = true ∧ relHolds .lt tS8 0x80 0x7F = true ∧
    relHolds .lt tS8 0x7F 0x80 = false ∧ relHolds .lt tF32 0x80000000 0 = true ∧ relHolds .eq tF32 0x80000000 0 = false ∧
    relHolds .lt tF32 0x7F800000 0x7FC00000 = true ∧ relHolds .eq tF32 0x7FC00000 0x7FC00000 = true ∧
    relHolds .le tF32 0xFFC00000 0xFF800000 = true ∧ relHolds .lt tF16 0x8001 0x8000 = true ∧ relHolds .le tN64 0 (2 ^ 64 - 1) = true := by decide
/-- A compare into V6 is an illegal operand at position 0, and a handler that has EH.V and no trap open is entered for it. -/
theorem test_compare_traps : isM 22 = false ∧ (let s := withEh vc
    s.curEntry.state = .active ∧ (s.cur.ent < 32 ∧ s.curEntry.st.getLsbD 15 = false ∧ (eh s).getLsbD 32 = true ∧ s.otherTrap s.curKey = false ∧
      regFree s 0x570 16 = true) ∧
    goes (exec (.vcmplt 22 17 18 1) s) (fun t => t.curEntry.ip == 0x5000 && fld t.curEntry.st.toNat 48 6 == 2)) := by decide +kernel
/-- The masked relative forms of VMOV write lanes 0 and 2 only. -/
theorem test_relative_moves : relReg vc 22 = some 2 ∧ maskOk vc 1 = true ∧
    gives (exec (.vmovRelA 22 22 1) vc) (past 4 (setTag (lanes02 vc 6 0x40000000) 6 tF32)) ∧
    gives (exec (.vmovRelD 22 19 1) vc) (past 4 (setTag (lanes02 vc 2 0x40400000) 2 tF32)) := by decide +kernel
/-- A NaN in the third operand does not hide 0 × infinity: NV is raised (R54). -/
theorem test_fma_invalid : laneOp .fma 0 tF32 0 0x7F800000 0x7FC00000 false = (0x7FC00000, { nv := true }) ∧
    laneOp .fma 0 tF32 0x3F800000 0x3F800000 0x7FC00000 false = (0x7FC00000, {}) := by decide +kernel

/-! ### Launches -/

/-- The request of 09's example: vats (8, 4) and (9, 4), two handlers of the arithmetic core. Launch id 1 is in use. -/
def rq : List Nat := [0x04010108, 0x1004, 0x2800000000, 0x500, 0, 0x0120800000003000, 0, 0x0160000000003040, 8]
def la : State := withWords (withW (on 2) 2 0x4000) 0x4000 rq
theorem test_launch_issues : chanField la 45 = true ∧ readable la 0x4000 72 = true ∧ wordsAt la 0x4000 9 = rq ∧ requestOk rq = true ∧
    goes (exec (.launch 45 2) la) (fun t => t.curEntry.ip == 0x3004 && (t.vat 0).ctr == 3 &&
      t.agenda == [.launchReserve 264 2, .launchReserve 265 2]) := by decide +kernel
/-- A launch of it by the host, from reset; and with both answers in, and with the first vat committed. -/
def lh : Launch := ⟨9, none, rq, List.replicate 240 0, 0, none, 0, [], []⟩
def ls (l : Launch) : State := { State.reset with launches := [l] }
theorem test_launch_reserve : (ls lh).reserveCode 264 rq = (0, 0) ∧ goes (exec (.launchReserve 264 9) (ls lh)) (fun t =>
      (t.vat 264).resv == [⟨9, rq, 0⟩] && t.launches == [{ lh with answers := [(0, 0, 0)] }]) ∧
    goes (exec (.launchReserve 265 9) (ls { lh with answers := [(0, 0, 0)] })) (fun t => t.agenda == [.launchCommit 264 9, .launchCommit 265 9]) ∧
    goes (exec (.launchReserve 265 9) (ls { lh with answers := [(0, 1, 0)] })) (fun t => t.agenda == [.launchReject 9]) := by decide +kernel
theorem test_launch_commit : shapeSize 0x04010108 = 2 ∧ goes (exec (.launchCommit 264 9) (ls lh)) (fun t =>
      (t.slotOfLid 264 9).isSome && t.peek (0x200000 * 264 + 0x30) 8 == 9 && (t.entry (32 * 1058)).lnch && (t.entry (32 * 1058 + 1)).chans == 8) ∧
    goes (exec (.launchCommit 265 9) (ls { lh with commits := [264] })) (fun t => t.launches == [] && t.rects.map (·.lid) == [9]) ∧
    goes (exec (.launchReject 9) (ls lh)) (fun t => t.launches == []) := by decide +kernel
theorem test_rectangle_end : let s := (on 2).modEntry 64 (fun e => { e with state := .idle })
    s.quiet 1 = true ∧ goes (exec (.rectangleEnd 1) s) (fun t => t.rects == [] && t.slots == [] && !(t.entry 64).v) := by decide +kernel

/-! ### The Mordant queue -/

/-- A header: SUM into class 3 of key 5; its target is this core; V1 = 2, 2, 2, 0, … as N32. The slot has 512 entries, and RFA is channel 5. -/
def mq : State :=
  let s := withW (withW (withW (on 2) 2 0x20000) 3 (3 * 2 ^ 48 + 5)) 4 6
  (withV s 1 tN32 (three 2)).modSlot 0 0 (fun r => { r with rfcs := 0xFFFF0500 })
def fq (v : Nat) : FoldReq := ⟨2, 2, 1, 0x20000, BitVec.ofNat 64 (3 * 2 ^ 48 + 5), v, tN32, 5, 0⟩
def rec1 : MqRec := ⟨0, (fq 0).header, three 2, tN32, 1, 0, 0, .waiting, false, false, false, false, 0, 0⟩
/-- The same with a record of that key, and class 3 bound to channel 6. -/
def mqR : State := ({ mq with mqs := [(0, rec1)] }).modSlot 0 0 (fun r => { r with classes := [(3, { ch := 6, fth := 1 })] })
theorem test_mordant_instructions : targetCore 0 0x20000 = some 2 ∧ opAccepts 0 tN32 = true ∧ slotFree mq = true ∧ (mq.curSlot?).isSome = true ∧
    gives (exec (.mqfold 2 3 17) mq) (past 4 ((slotTaken true mq true).later (.foldRequestArrival (fq (three 2))))) ∧
    goes (exec (.mqbind 4 4) mq) (fun t => (t.curSlot?.map (fun r => (r.cls 6).ch)) == some 6) ∧
    goes (exec (.mqcfg 4 5) (withW mq 5 0x0001000200030000)) (fun t => (t.curSlot?.map (fun r => ((r.cls 6).rval, (r.cls 6).ath, (r.cls 6).fth))) ==
      some (1, 2, 3)) ∧
    goes (exec (.mqcfg 4 5) (withW (withW mq 5 7) 4 16)) (fun t => (t.curSlot?.map (·.hwm)) == some 7) := by decide +kernel
/-- Draining class 3 dispatches its record with reason COUNT, its own, before DRAIN. -/
theorem test_drain_and_status : goes (exec (.mqdrain 4) (withW mqR 4 8)) (fun t => (mget? t.mqs 0) == some { rec1 with state := .dispatching, reason := 2 }) ∧
    gives (exec (.mqstat 7 4) (withW mqR 4 3)) (past 4 (setW (withW mqR 4 3) 7 0x600000001)) ∧
    gives (exec (.mqstat 7 4) (withW mqR 4 16)) (past 4 (setW (withW mqR 4 16) 7 0x20000010200)) := by decide +kernel
theorem test_combine_lanes : laneAt 32 (combine 0 tN32 (three 2) (three 0xFFFFFFFF)).1 1 = 1 ∧ laneAt 8 (combine 1 tN8 0xF0 0x20).1 0 = 0xFF ∧
    laneAt 8 (combine 3 tS8 0x80 0x7F).1 0 = 0x80 ∧ laneAt 8 (combine 4 tN8 0x80 0x7F).1 0 = 0x80 ∧ (combine 9 tN64 41 0).1 = 42 := by decide +kernel
/-- An arrival that becomes a record, one that combines with it, one for a slot without entries, one for a full queue. -/
theorem test_fold_arrivals : (mq.slotOfLid 0 1).map (·.1) = some 0 ∧ goes (exec (.foldRequestArrival (fq 1)) mq) (fun t =>
      (mget? t.mqs 0) == some { rec1 with payload := 1 } && t.agenda == [.mqDispatch 0 0, .ageTick 0]) ∧
    goes (exec (.foldRequestArrival (fq (three 3))) mqR) (fun t => (mget? t.mqs 0) == some { rec1 with payload := three 5, folds := 2 }) ∧
    (let s := mq.modSlot 0 0 (fun r => { r with space := 4 })
     gives (exec (.foldRequestArrival (fq 1)) s) (s.later (.foldRefusalArrival (fq 1) 3))) ∧
    (let s := { mq.modSlot 0 0 (fun r => { r with space := 4 + 2 ^ 28 }) with mqs := [(0, { rec1 with header := 7 })] }
     gives (exec (.foldRequestArrival (fq 1)) s) (s.later (.foldRefusalArrival (fq 1) 1))) := by decide +kernel
theorem test_fold_refusal : goes (exec (.foldRefusalArrival (fq 9) 1) mq) (fun t => (t.box 2 5).map (·.val) ==
    [0x713901, 0x20000, 0x3000000000005, 9, 0, 0, 0, 0, 0, 0, 0]) ∧
    (let s := mq.modSlot 0 0 (fun r => { r with stopped := true })
     gives (exec (.foldRequestArrival { fq 1 with src := 6 }) s) (s.later (.foldRefusalArrival { fq 1 with src := 6 } 4))) := by decide +kernel
theorem test_queue_cycle : (mqR.slot? 0 0).isSome = true ∧ goes (exec (.mqDispatch 0 0) mqR) (fun t =>
      (mget? t.mqs 0) == some { rec1 with state := .dispatching, reason := 2 } && t.agenda == [.dispatchDelivery 0 0]) ∧
    (let s := { mqR with mqs := [(0, { rec1 with state := .dispatching, reason := 2 })] }
     s.dispatchingRecs 0 0 = [(0, { rec1 with state := .dispatching, reason := 2 })] ∧ goes (exec (.dispatchDelivery 0 0) s) (fun t => t.mqs == [] &&
       (t.box 2 6).map (·.val) == [0x3000000000005, 0x1000050380000, 0x200000002, 2, 0, 0, 0, 0, 0, 0])) ∧
    goes (exec (.ageTick 0) { mq with mqs := [(0, rec1)] }) (fun t => (mget? t.mqs 0) == some { rec1 with age := 1 }) := by decide +kernel

/-- A service core's launch: id of its home vat, no slot as a launcher. -/
theorem test_launch_service : let s := withWords (withW (on 8195) 2 0x4000) 0x4000 rq
    chanField s 45 = true ∧ goes (exec (.launch 45 2) s) (fun t => t.launches.map (fun l => (l.lid, l.auth)) == [(1, none)] && (t.vat 0).ctr == 2) := by
  decide +kernel
/-- A vat whose range the request overlaps answers code 2; a launch with a launcher that is not resident has START held; of two refusals the one of
the lower logical number is reported. -/
theorem test_launch_answers : (let s : State := { ls lh with slots := [(4 * 264, (on 2).curSlot?.getD ⟨0, 0, 0, 0, 0, 4 + 1024 * 16, 0, 0, 0, 1, [], 0, none,
      none, [], false, false, 0, [], [], 0, false, []⟩)] }
     (s.reserveCode 264 rq).1 = 2 ∧ goes (exec (.launchReserve 264 9) s) (fun t => t.launches == [{ lh with answers := [(0, 2, 0)] }] && (t.vat 264).resv == [])) ∧
    goes (exec (.launchCommit 265 9) (ls { lh with commits := [264], endto := 2 ^ 32 })) (fun t => t.held == [⟨2 ^ 32, BitVec.ofNat 64 (9 * 2 ^ 32)⟩] &&
      t.agenda.contains (.rectangleEnd 9)) ∧
    goes (exec (.launchReject 9) (ls { lh with answers := [(1, 4, 2), (0, 3, 1)] })) (fun t => t.launches == [] &&
      t.host.window.map (fun f => (f.type, f.payload)) == [(0x81, 3 + 2 ^ 8 + 9 * 2 ^ 32)]) := by decide +kernel
/-- A rectangle that is not quiet stays; END of one with an absent launcher is held; a word for the resident launcher 1 goes to channel 4 of its core 1. -/
theorem test_rectangle_words : (on 2).quiet 1 = false ∧ gives (exec (.rectangleEnd 1) (on 2)) ((on 2).later (.rectangleEnd 1)) ∧
    (let s := (on 2).modEntry 64 (fun e => { e with state := .idle })
     goes (exec (.rectangleEnd 1) { s with rects := s.rects.map (fun r => { r with endto := 7 * 2 ^ 32 }) }) (fun t => t.held == [⟨7 * 2 ^ 32, 0x100000010⟩])) ∧
    (on 2).imageBegun 0 1 = false ∧ ((on 2).deliver (2 ^ 32 + 2 ^ 8 + 4) 7).waiting 1 4 = [{ words := [7] }] := by decide +kernel

/-- A sum above the XS limit is +INF with an overflow; +INF and −INF give NaN with NV. ARGMIN: of 2.0 with id 5 and 1.0 with id 9 the second; of equal
values the lesser id. F32 MIN orders −0 below +0. -/
theorem test_combine_more : combine 2 tXS (2 ^ 319 - 2) 1 = (2 ^ 319 - 1, true, false) ∧ combine 2 tXS (2 ^ 319 - 1) (2 ^ 319 + 1) = (2 ^ 319, false, true) ∧
    combine 2 tXS 5 7 = (12, false, false) ∧ laneAt 64 (combine 8 tF32 (5 * 2 ^ 32 + 0x40000000) (9 * 2 ^ 32 + 0x3F800000)).1 0 = 9 * 2 ^ 32 + 0x3F800000 ∧
    laneAt 64 (combine 8 tS32 (9 * 2 ^ 32 + 7) (5 * 2 ^ 32 + 7)).1 0 = 5 * 2 ^ 32 + 7 ∧ laneAt 32 (combine 3 tF32 0 0x80000000).1 0 = 0x80000000 ∧
    laneAt 32 (combine 4 tF32 0x80000000 0).1 0 = 0 ∧ (combine 0 tS8 0x7F 1).2 = (true, false) ∧ (combine 0 tN8 0xFF 1).2 = (true, false) ∧
    (combine 1 tN8 0xF0 0x20).2 = (true, false) ∧ (combine 9 tN64 (2 ^ 64 - 1) 0) = (0, true, false) := by decide +kernel
/-- A fold with another operator clashes; under CHK a sum that overflows splits the record, and is refused when the queue is full. -/
theorem test_fold_clash_split : let f : FoldReq := { fq (three 0xFFFFFFFF) with header := BitVec.ofNat 64 (2 ^ 58 + 3 * 2 ^ 48 + 5) }
    let s (n : Nat) : State := { mqR.modSlot 0 0 (fun r => { r with space := 4 + n * 2 ^ 28 }) with mqs := [(0, { rec1 with header := f.header })] }
    goes (exec (.foldRequestArrival { fq 1 with header := BitVec.ofNat 64 (5 * 2 ^ 52 + 3 * 2 ^ 48 + 5) }) mqR) (fun t =>
      t.agenda == [.foldRefusalArrival { fq 1 with header := BitVec.ofNat 64 (5 * 2 ^ 52 + 3 * 2 ^ 48 + 5) } 2] && t.mqs == mqR.mqs) ∧
    (combine 0 tN32 (three 2) (three 0xFFFFFFFF)).2.1 = true ∧ goes (exec (.foldRequestArrival f) (s 2)) (fun t =>
      (t.mqs.map (fun p => (p.2.state, p.2.reason, p.2.payload))) == [(.dispatching, 6, three 2), (.waiting, 0, three 0xFFFFFFFF)]) ∧
    goes (exec (.foldRequestArrival f) (s 1)) (fun t => t.agenda == [.foldRefusalArrival f 1]) := by decide +kernel

/-! ### Near and far memory -/

/-- A far address word; a page that maps it to physical 0x8000, readable and writable. -/
def fa : Nat := 0xFF00000000004000
def farMap : Map Tlb := [(0, ⟨0x10000000000401C, 0x8000, false, 0⟩)]
/-- On core `ck`: W2 = 0x4000 of the own vat, W3 = 0x4000 of vat (1, 0), W4 = 9, W5 far, W6 a request for 16 bytes by channel 4 with TAG 7. -/
def nf (ck : Nat) : State :=
  let s := withW (withW (withW (withW (withW (on ck) 2 0x4000) 3 0x4004000) 4 9) 5 fa) 6 0x70104
  { withWords s 0x4000 [0x55] with tlb := farMap, far := [(0x8000, 0x33)] }
theorem test_near_access : running (nf 2) 5 = true ∧ slotFree (nf 2) = true ∧ loadOk (nf 2) 0x4000 8 = true ∧ (nf 2).tileHeld 0 0x4000 8 = false ∧
    gives (exec (.rld 7 2) (nf 2)) (past 4 (setW (nf 2) 7 0x55)) ∧ gives (exec (.rst 2 4) (nf 2)) (past 4 ((nf 2).poke 0x4000 8 9)) ∧
    gives (exec (.rld 7 3) (nf 2)) (((slotTaken false (nf 2)).later (.nearReadRequest ⟨2, 0, .read, 0x204000, 0, 0, 7, 1, 0⟩)).blockEntry 64 (.reply 0)) ∧
    goes (exec (.rst 3 4) (nf 2)) (fun t => t.agenda == [.nearStoreArrival ⟨2, 0, .write, 0x204000, 9, 0, 0, 1, 0⟩] && t.curEntry.ip == 0x3004) := by
  decide +kernel
/-- A near request of core 2 of vat 0 to its own word 0x4000, which holds 0x55; the reply 0x66 to W7. -/
def nr (op : MemOp) : NearReq := ⟨2, 0, op, 0x4000, 9, 0x55, 7, 1, 0⟩
theorem test_near_events : (nf 2).hasEmpty 0x4000 8 = false ∧ (nf 2).poisoned 0x4000 8 = none ∧ (nf 2).granule 64 0 false 0x100 = none ∧
    goes (exec (.nearReadRequest (nr .read)) (nf 2)) (fun t => t.agenda == [.nearReadReply (nr .read) 0x55 false] && t.curEntry.snap.length == 1) ∧
    goes (exec (.nearStoreArrival (nr .write)) (nf 2)) (fun t => t.peek 0x4000 8 == 9) ∧
    goes (exec (.nearAtomicArrival (nr .cas)) (nf 2)) (fun t => t.peek 0x4000 8 == 9 && t.agenda == [.nearReadReply (nr .cas) 0x55 false]) ∧
    goes (exec (.nearAtomicArrival (nr .add)) (nf 2)) (fun t => t.peek 0x4000 8 == 0x5E) ∧
    goes (exec (.nearReadReply (nr .read) 0x66 false) ((nf 2).blockEntry 64 (.reply 0))) (fun t => wVal t 7 == 0x66 && t.curEntry.ip == 0x3004) := by
  decide +kernel
/-- The waits: an empty line, and a READY tile over the word. -/
theorem test_near_waits : (let s : State := { nf 2 with empty := [0x80] }
     s.hasEmpty 0x4000 8 = true ∧ gives (exec (.nearReadRequest (nr .read)) s) (s.later (.nearReadRequest (nr .read)))) ∧
    (let s := (nf 2).setTile 0 1 { v := true, first := 0x80, state := .ready }
     s.tileHeld 0 0x4000 8 = true ∧ gives (exec (.nearStoreArrival (nr .write)) s) (s.later (.nearStoreArrival (nr .write))) ∧
     gives (exec (.nearAtomicArrival (nr .add)) s) (s.later (.nearAtomicArrival (nr .add)))) := by decide +kernel
theorem test_far_form : farForm (BitVec.ofNat 64 fa) := ⟨by decide, fun i h h' =>
  (by decide : ∀ j < 64, 57 ≤ j → (BitVec.ofNat 64 fa).getLsbD j = (BitVec.ofNat 64 fa).getLsbD 56) i h' h⟩
theorem test_far_requests : farRequest 0x70104 ∧ (nf 2).ownsChan 4 = true ∧
    (nf 2).lookup 0 fa accRead = .physical 0x8000 0 ∧ (nf 2).lookup 0 fa accWrite = .physical 0x8000 0 ∧
    goes (exec (.rdf 5 6) (nf 2)) (fun t => t.curEntry.ip == 0x3004 && t.agenda == [.farMemoryAccess ⟨2, 0, .read, 0x100000000004000, 0x8000, 16, 0, 0,
      .chan 4 7 1, 1, 0, 0, 0, 0, false⟩]) ∧
    goes (exec (.wrf 6 5 3) (nf 2)) (fun t => t.agenda == [.farMemoryAccess ⟨2, 0, .write, 0x100000000004000, 0x8000, 16, 0x4004000 + 9 * 2 ^ 64, 0,
      .chan 4 7 1, 1, 0, 0, 0, 0, false⟩]) ∧
    goes (exec (.ldf 7 5) (nf 2)) (fun t => t.curEntry.wait == .reply 0 && t.agenda == [.farMemoryAccess ⟨2, 0, .read, 0x100000000004000, 0x8000, 8, 0, 0,
      .load 7, 1, 0, 0, 0, 0, false⟩]) ∧
    goes (exec (.stf 5 4) (nf 2)) (fun t => t.curEntry.wait == .reply 0 && t.agenda == [.farMemoryAccess ⟨2, 0, .write, 0x100000000004000, 0x8000, 8, 9, 0,
      .store, 1, 0, 0, 0, 0, false⟩]) := by
  unfold farRequest; decide +kernel
theorem test_atomic_requests : (nf 2).lookup 0 fa accAtomic = .physical 0x8000 0 ∧ wOk (nf 2) 4 = true ∧
    goes (exec (.cas 4 3 6) (nf 2)) (fun t => t.agenda == [.nearAtomicArrival ⟨2, 0, .cas, 0x204000, 0x70104, 9, 4, 1, 0⟩] && t.curEntry.wait == .reply 0) ∧
    goes (exec (.amoMin 7 5 4) (nf 2)) (fun t => t.agenda == [.farAtomicService ⟨2, 0, .min, 0x100000000004000, 0x8000, 8, 9, 0, .atomic 7, 1, 0, 0, 0, 0,
      false⟩]) := by decide +kernel
/-- Far requests at 0x8000, which holds 0x33, and beyond the tiers. -/
def fr (op : MemOp) (size : Nat) (replyTo : ReplyTo) : FarReq := ⟨2, 0, op, 0x100000000004000, 0x8000, size, 9, 0x33, replyTo, 1, 0, 0, 0, 0, false⟩
theorem test_far_events : noMem 0x8000 = false ∧ noMem 0x30000000000 = true ∧ (nf 2).farBad 0x8000 16 = false ∧
    goes (exec (.farMemoryAccess (fr .write 8 .store)) (nf 2)) (fun t => t.farPeek 0x8000 8 == 9 &&
      t.agenda == [.farReplyArrival { fr .write 8 .store with pos := 8 } 0 0]) ∧
    goes (exec (.farMemoryAccess (fr .read 16 (.load 7))) (nf 2)) (fun t => t.agenda.length == 1 && t.far == [(0x8000, 0x33)]) ∧
    goes (exec (.farAtomicService (fr .cas 8 (.atomic 7))) (nf 2)) (fun t => t.farPeek 0x8000 8 == 9 &&
      t.agenda == [.farReplyArrival (fr .cas 8 (.atomic 7)) 0 0x33]) ∧
    (let r := { fr .read 8 (.load 7) with pa := 0x30000000000 }
     gives (exec (.farMemoryAccess r) (nf 2)) ((nf 2).later (.farReplyArrival r 2 0)) ∧
     gives (exec (.farMemoryAccess { r with op := .write }) (nf 2)) ((nf 2).later (.farReplyArrival { r with op := .write } 2 0)) ∧
     gives (exec (.farMemoryAccess { r with op := .write, replyTo := .chan 0 0 0 }) (nf 2)) ((nf 2).freeOut 2 0)) := by decide +kernel
theorem test_far_replies : (let s := (nf 2).blockEntry 64 (.reply 0)
     goes (exec (.farReplyArrival (fr .read 8 (.load 7)) 0 0x66) s) (fun t => wVal t 7 == 0x66 && t.curEntry.ip == 0x3004) ∧
     goes (exec (.farReplyArrival (fr .write 8 .store) 0 0) s) (fun t => t.curEntry.state == .active && t.curEntry.ip == 0x3004) ∧
     goes (exec (.farReplyArrival (fr .read 8 (.load 7)) 2 0) s) (fun t => t.curEntry.msk) ∧
     goes (exec (.farReplyArrival (fr .read 8 (.load 7)) 1 0) s) (fun t => t.curEntry.msk)) ∧
    goes (exec (.farReplyArrival (fr .read 16 (.chan 4 7 1)) 0 (3 + 4 * 2 ^ 64)) (nf 2)) (fun t => (t.box 2 4).map (·.val) == [0x70100, 3, 4]) ∧
    goes (exec (.farReplyArrival (fr .write 16 (.chan 4 7 1)) 2 0) (nf 2)) (fun t => (t.box 2 4).map (·.val) == [0x71120]) := by decide +kernel

/-! ### Phases, tiles, semaphores -/

/-- W2 = 0x8000: PHASE word of barrier 0, a group of the own vat of one; W3 = 1. -/
def ph : State := withW (withW (withW (on 2) 2 0x8000) 3 1) 4 0x4000
theorem test_phase_and_fence : source ph 0 = some (0, ph) ∧ ph.agenda = [] ∧ goes (exec (.fence 1) ph) (fun t => t.curEntry.phase == 1 && t.curEntry.ip == 0x3004) ∧
    goes (exec (.phase 2 1) ph) (fun t => t.agenda == [.phaseDeparture ⟨1, 0, 0, 1, 1⟩] && t.curEntry.wait == .phase ⟨1, 0, 0, 1, 1⟩) ∧
    (let g : PhaseKey := ⟨1, 0, 0, 1, 1⟩
     let s : State := { ph.blockEntry 64 (.phase g) with phases := [⟨g, 0, [(0, 0x8000, 64)]⟩] }
     generationFull (s.phaseRec g) = true ∧ goes (exec (.phaseDeparture g) s) (fun t => t.curEntry.state == .active && t.curEntry.ip == 0x3004 &&
       (t.phaseRec g).gen == 1 && t.curEntry.phase == 1) ∧ generationFull (ph.phaseRec g) = false) := by decide +kernel
/-- Entry 1 of the tile table: READY, one use left of two, two consumers. -/
def ti : State := ph.setTile 0 1 { v := true, uses := 2, uleft := 1, first := 0x80, state := .ready, cons := 2 }
theorem test_tile_instructions : gives (exec (.tstate 7 3) ti) (past 4 (setW ti 7 0x1820000000)) ∧ stateCode .ready = 2 ∧
    gives (exec (.twait 3 4) (withW ti 4 4)) (past 4 (withW ti 4 4)) ∧ gives (exec (.twait 3 4) (withW ti 4 2)) ((withW ti 4 2).blockEntry 64 .retry) ∧
    goes (exec (.lfill 4 5) ({ withW ph 5 0x100 with empty := [0x80, 0x81] })) (fun t => t.empty == []) ∧
    goes (exec (.lempty 4 5) (withW ph 5 0x100)) (fun t => t.empty == [0x80, 0x81]) ∧ ph.tileHeld 0 0x4000 128 = false := by decide +kernel
theorem test_semaphores : ph.ownsSem 1 = true ∧ goes (exec (.semv 3) ph) (fun t => t.semCount 0 1 == 1) ∧
    goes (exec (.semp 3) (ph.setSem 0 1 2)) (fun t => t.semCount 0 1 == 1 && t.curEntry.phase == 1) ∧ ph.semCount 0 1 = 0 ∧
    gives (exec (.semp 3) ph) (ph.blockEntry 64 (.sem 1)) ∧ gives (exec (.semr 7 3) (ph.setSem 0 1 65535)) (past 4 (setW (ph.setSem 0 1 65535) 7 65535)) ∧
    goes (exec (.semv 3) (ph.setSem 0 1 65535)) (fun t => t.semCount 0 1 == 65535) := by decide +kernel

/-- An address in channel 4 is popped by RLD and kept; the poison trap at the reply puts it back, and so does one of a queue. -/
theorem test_popped_address : let s := withEh (withBox (nf 2) 4 [0x4004000])
    s.poppedBy 44 = [.chan 4 ⟨0x4004000, true, false⟩] ∧ sc.poppedBy 36 = [.queue 4 ⟨0, 0, 6⟩] ∧ goes (exec (.rld 7 44) s) (fun t =>
      t.box 2 4 == [] && t.curEntry.taken == [.chan 4 ⟨0x4004000, true, false⟩] && goes (exec (.nearReadReply (nr .read) 0 true) t) (fun u =>
        u.box 2 4 == [⟨0x4004000, true, false⟩] && u.curEntry.ip == 0x5000 && fld u.curEntry.st.toNat 48 6 == 9 && (u.core 2).outs == [])) ∧
    ((sc.setQueue 0 4 []).modEntry 64 (fun e => { e with taken := [.queue 4 ⟨0, 0, 6⟩] })).putBack 64 =
      sc.modEntry 64 (fun e => { e with taken := [.queue 4 ⟨0, 0, 6⟩] }) := by decide +kernel
/-- A reply waits while a READY tile holds its register; a poisoned word is answered so, and an atomic leaves it. -/
theorem test_near_more : (let s := held ((nf 2).blockEntry 64 (.reply 0))
     s.regsHeld 64 56 8 = true ∧ gives (exec (.nearReadReply (nr .read) 0x66 false) s) (s.later (.nearReadReply (nr .read) 0x66 false))) ∧
    (let s := (nf 2).mark 0x4000 8
     (s.poisoned 0x4000 8).isSome = true ∧ goes (exec (.nearReadRequest (nr .read)) s) (fun t => t.agenda == [.nearReadReply (nr .read) 0x55 true]) ∧
     gives (exec (.nearAtomicArrival (nr .add)) s) ((s.nearSeen 64 0).later (.nearReadReply (nr .add) 0 true))) ∧
    (let s : State := { nf 2 with empty := [0x80] }
     gives (exec (.nearAtomicArrival (nr .add)) s) (s.later (.nearAtomicArrival (nr .add)))) := by decide +kernel
/-- 64-byte, queue and V forms: LDF into V1 and Q4, STF of V1, WRF of one word and of V1; W7 is a request of 8 bytes without reply, W9 of 64. -/
def nv : State := setW (setW (withV (nf 2) 1 tF32 (three 0x3F800000)) 7 0) 9 0x200
theorem test_far_vectors : isV 17 = true ∧ vDest nv 17 = true ∧ wDest nv 36 = false ∧ nv.lookup 0 fa accRead = .physical 0x8000 0 ∧
    goes (exec (.ldf 17 5) nv) (fun t => t.agenda == [.farMemoryAccess { fr .read 64 (.load 17) with data := 0, cmp := 0 }]) ∧
    goes (exec (.stf 5 17) nv) (fun t => t.agenda == [.farMemoryAccess { fr .write 64 .store with data := three 0x3F800000, cmp := 0 }]) ∧
    goes (exec (.wrf 7 5 4) nv) (fun t => t.agenda == [.farMemoryAccess { fr .write 8 (.chan 0 0 0) with cmp := 0 }] && t.curEntry.ip == 0x3004) ∧
    goes (exec (.wrf 9 5 17) nv) (fun t => t.agenda == [.farMemoryAccess { fr .write 64 (.chan 0 0 2) with data := three 0x3F800000, cmp := 0 }]) := by
  decide +kernel
/-- A core that writes Q5 loads into it while it has room; the reply of 64 bytes enters V1 under N8; one for Q5 enters the queue. -/
theorem test_far_destinations : (wDest (nf 2) 35 = true ∧ goes (exec (.ldf 35 5) (nf 2)) (fun t => t.curEntry.wait == .reply 0)) ∧
    (let s := nv.blockEntry 64 (.reply 0)
     goes (exec (.farReplyArrival (fr .read 64 (.load 17)) 0 (three 9)) s) (fun t => tagOf t 1 == tN8 && regVal t 0xC0 64 == three 9 && t.curEntry.ip == 0x3004) ∧
     goes (exec (.farReplyArrival (fr .read 8 (.load 37)) 0 7) s) (fun t => t.queue 0 5 == [⟨0, 0, 7⟩] && t.curEntry.ip == 0x3004) ∧
     goes (exec (.farReplyArrival (fr .read 64 (.load 38)) 0 7) s) (fun t => t.queue 0 6 == [⟨0, tN8, 7⟩]) ∧
     gives (exec (.farReplyArrival (fr .read 8 (.load 7)) 0 7) (held s)) ((held s).later (.farReplyArrival (fr .read 8 (.load 7)) 0 7)) ∧
     gives (exec (.farReplyArrival (fr .cas 8 (.atomic 7)) 0 7) (held s)) ((held s).later (.farReplyArrival (fr .cas 8 (.atomic 7)) 0 7))) := by decide +kernel
/-- Units of 16 bytes: of a write of 64, of a read whose granule the phase has fixed; a write without reply frees its slot and ends what is fixed. -/
theorem test_far_units : (let r := { fr .write 64 .store with data := 3 + 5 * 2 ^ 128 }
     goes (exec (.farMemoryAccess r) (nf 2)) (fun t => t.agenda == [.farMemoryAccess { r with pos := 16 }] && t.farPeek 0x8000 8 == 3) ∧
     goes (exec (.farMemoryAccess { r with pos := 48 }) (nf 2)) (fun t => t.agenda == [.farReplyArrival { r with pos := 64 } 0 0])) ∧
    (let g : Granule := ⟨0, true, 0x800, 7 + 9 * 2 ^ 64, [1]⟩
     let s := (nf 2).noteGranule 64 g
     s.granule 64 0 true 0x800 = some g ∧ goes (exec (.farMemoryAccess (fr .read 8 (.load 7))) s) (fun t =>
       t.agenda == [.farReplyArrival { fr .read 8 (.load 7) with pos := 8, got := 7 } 0 7]) ∧
     goes (exec (.farMemoryAccess (fr .read 64 (.load 17))) s) (fun t =>
       t.agenda == [.farMemoryAccess { fr .read 64 (.load 17) with pos := 16, got := 7 + 9 * 2 ^ 64, bad := true }]) ∧
     goes (exec (.farMemoryAccess (fr .write 8 (.chan 0 0 0))) s) (fun t => t.curEntry.snap == [] && t.agenda == [] && t.farPeek 0x8000 8 == 9)) ∧
    (let s : State := { nf 2 with farPoison := [0x1000] }
     goes (exec (.farAtomicService (fr .cas 8 (.atomic 7))) s) (fun t => t.agenda == [.farReplyArrival (fr .cas 8 (.atomic 7)) 1 0] && t.far == s.far)) := by
  decide +kernel
/-- A tile entry of another slot, a cleared one of the own slot with a count left, and a service core. -/
theorem test_tile_state : let s := ph.setTile 0 1 { v := true, slot := 1, uleft := 1 }
    gives (exec (.tstate 7 3) s) (past 4 (setW s 7 0)) ∧
    (let s := ph.setTile 0 1 { uleft := 3, pend := 5 }
     gives (exec (.tstate 7 3) s) (past 4 (setW s 7 (3 * 2 ^ 36 + 5)))) ∧
    gives (exec (.tstate 7 3) (setW (on 8195) 3 1)) (past 4 (setW (setW (on 8195) 3 1) 7 0)) := by decide +kernel
/-- LEMPTY leaves a line that a READY entry covers full. -/
theorem test_lempty_held : let s := (withW ph 5 0x100).setTile 0 1 { v := true, first := 0x80, state := .ready, cons := 1 }
    s.tileHeld 0 0x4000 128 = true ∧ s.tileHeld 0 0x4080 128 = false ∧ goes (exec (.lempty 4 5) s) (fun t => t.empty == [0x81]) := by decide +kernel

/-! ### Engines -/

/-- A transfer core: W2 = 0x4000 and W4 = 0x5000 of the own vat; control words with LEN 16 in W3, 2 in W5, 64 in W6, 0 in W8; W9 = 7;
W10 = 0x7000; an arithmetic handler 0 of the slot. At 0x4000 stand 17 and 34. -/
def en : State :=
  let s := withW (withW (withW (withW (on 0) 2 0x4000) 3 (16 * 2 ^ 40)) 4 0x5000) 5 (2 * 2 ^ 40)
  let s := withW (withW (withW s 6 (64 * 2 ^ 40)) 9 7) 10 0x7000
  (withWords s 0x4000 [17, 34]).modEntry 64 (fun e => { e with v := true })
/-- A gather's descriptor at 0x5000: base 0x8000, stage lines at 0x9000, destination 0xA000, elements of 128 bytes. -/
def gd : List Nat := [0x8000, 0x140 + 0x120 * 2 ^ 14]
theorem test_engine_operands : goodControl en (BitVec.ofNat 64 (16 * 2 ^ 40)) 16 0xFFFFF0 true ∧ freeSlotOf en 0 ∧ gathDescOk 0x8000 (0x140 + 0x120 * 2 ^ 14) 2 = true ∧
    mcastOk 0x4000 64 ((en.slot? 0 0).get (by decide)) = true ∧ en.agenda = [] := by
  unfold goodControl freeSlotOf; decide +kernel
theorem test_engine_range : engineRange 0x4000 16 16 := ⟨by decide, Or.inr (by decide)⟩
theorem test_engine_acquires : acquires en (BitVec.ofNat 64 (16 * 2 ^ 40)) := fun h => absurd h (by decide)
/-- A command of this handler as it starts. -/
def cmd0 (kind : CmdKind) (ctl src dst : Nat) (args : List Nat) (limit : Nat) (recv : List (Nat × Nat)) : Cmd :=
  { kind := kind, lid := 1, ent := 0, ctl := BitVec.ofNat 64 ctl, src := BitVec.ofNat 64 src, dst := BitVec.ofNat 64 dst, args := args, limit := limit,
    recv := recv }
theorem test_xfer : gives (exec (.xfer 4 2 3) en) (past 4 (started en 0 (cmd0 .xfer (16 * 2 ^ 40) 0x4000 0x5000 [] 16 []) [.xferUnit 0 0])) := by
  decide +kernel
theorem test_gath : let s := withWords en 0x5000 gd
    gives (exec (.gath 4 2 5) s) (past 4 ((started s 0 (cmd0 .gath (2 * 2 ^ 40) 0x4000 0 gd 2 []) [.gatherStage 0 0, .gatherElementIssue 0 0]).emptyFree
      0xA000 256)) := by decide +kernel
theorem test_mcast : gives (exec (.mcast 4 2 6) en) (past 4 (started en 0 (cmd0 .mcast (64 * 2 ^ 40) 0x5000 0x4000 [] 1 [(0, 0)])
    [.mcastUnit 0 0 0])) := by decide +kernel
/-- One strip of F32 at 0x4000 for handler 0, into V12. -/
def sd : List Nat := [0x4000, 0x100010001, 0, tF32 * 2 ^ 32]
def strm0 (ctl : Option Word) : Strm := { lid := 1, slot := 0, desc := sd, ctl := ctl }
theorem test_strm : let s := withWords en 0x7000 sd
    strmDescOk sd (fun h => h == 0) = true ∧ gives (exec (.strm 28 10) s) (past 4 ((s.setStrm 0 0 (strm0 none)).later (.streamFetch 0 0))) ∧
    gives (exec (.strmx 28 10 8) s) (past 4 ((s.setStrm 0 0 (strm0 (some 0))).later (.streamFetch 0 0))) := by decide +kernel
theorem test_strmoff : gives (exec (.strmoff 28) en) (past 4 en) ∧ goes (exec (.strmoff 28) (en.setStrm 0 0 (strm0 none)))
    (fun t => t.strm? 0 0 == none) := by decide +kernel
/-- No command with TAG 7; then one, of kind GATH, in slot 3, with DONE 5. -/
def gc : Cmd := { cmd0 .gath 0x70000 0x4000 0 gd 9 [] with done := 5 }
theorem test_engq : gives (exec (.engq 7 9) en) (past 4 (setW en 7 0)) ∧ goes (exec (.engq 7 9) (en.setCmd 0 3 gc)) (fun t =>
    fld (wVal t 7).toNat 0 48 == 5 && fld (wVal t 7).toNat 55 3 == 3 && fld (wVal t 7).toNat 60 4 == 10) := by decide +kernel
theorem test_gend : let s := ((withWords en 0x9000 [17, 34]).setCmd 0 3 { gc with args := [0x8000, 0x140 + 0x120 * 2 ^ 14 + 4 * 2 ^ 33], stage := [⟨8, 0, 2, false, []⟩] }).modEntry 0 (fun e => { e with chans := 16 })
    s.heldStages = [(8, 3, 0)] ∧ goes (exec .gend s) (fun t => (t.cmd? 0 3).map (·.stage) == some [⟨8, 0, 2, true, [17, 34]⟩]) := by decide +kernel
/-- RESTRICT in one dimension from two F32 points at 0xB000 to one at 0xC000, with weight 1 at offset 0. -/
def gb : List Nat := [0xB000, 1 + tF32 * 2 ^ 36, 0, 0, 0xC000, tF32 * 2 ^ 36, 0, 0, 0xD000 * 2 ^ 8]
def gt : List Nat := List.replicate 8 0 ++ [0x10000, 0, 0, 0, 0, 0, 0, 0]
def ge : State := withWords (withWords en 0x5000 gb) 0xD000 gt
theorem test_glz : blockOk gb = true ∧ woffOk (0xD000 * 2 ^ 8) = true ∧ weightsOk gt 1 0 = true ∧ gridsMeet (gridAt gb 0) (gridAt gb 4) 0 = false ∧
    running ge 7 = true ∧ gridNearOk (gridAt gb 0) 0 = true ∧ gridAligned (gridAt gb 4) 0 = true ∧
    gives (exec (.glz 4 8) ge) (past 4 (started (ge.poke 0x5048 8 0) 0 (cmd0 .glz 0 0xB000 0xC000 (gb ++ [0x5000] ++ gt) 1 []) [.glzPoint 0 0])) := by
  decide +kernel

/-- A copy of 16 bytes from 0x4000 to 0x5000 as it works, its last unit. -/
def xc : Cmd := cmd0 .xfer (16 * 2 ^ 40 + 0x70004) 0x4000 0x5000 [] 16 []
/-- Two steps of one event: a copy reads a unit, then it writes it. -/
def twice (i : Instr) (s : State) (p : State → Bool) : Bool := goes (exec i s) (fun t => goes (exec i { t with agenda := [] }) p)
theorem test_copy_unit : (en.setCmd 0 0 xc).slotOfLid 0 1 = en.slotOfLid 0 1 ∧ (en.slotOfLid 0 1).all (fun p => !p.2.stopped) = true ∧
    readable en 0x4000 16 = true ∧ en.tilesMeeting 0 0x4000 16 = [] ∧ copyUnit xc = 16 ∧ goes (exec (.xferUnit 0 0) (en.setCmd 0 0 xc)) (fun t => t.mem == en.mem &&
      t.agenda == [.xferUnit 0 0] && (t.cmd? 0 0).map (fun c => (c.pos, c.done, c.flight)) == some (0, 0, [(0, 17 + 34 * 2 ^ 64)])) ∧
    twice (.xferUnit 0 0) (en.setCmd 0 0 xc) (fun t => t.peek 0x5000 16 == 17 + 34 * 2 ^ 64 && t.agenda == [.engineCompletion 0 0] && (t.cmd? 0 0).map (fun c => (c.done, c.status)) == some (16, 0)) := by
  decide +kernel
theorem test_near_at : nearAt 0x4000 0x4000 16 ∧ nearAt 0x4004000 0x204000 16 := by unfold nearAt; decide
theorem test_multicast_unit : goes (exec (.mcastUnit 0 0 0) (en.setCmd 0 0 { xc with kind := .mcast, limit := 1, recv := [(0, 0)] })) (fun t =>
    t.peek 0x5000 64 == 17 + 34 * 2 ^ 64 && t.agenda == [.bufferFreeAcknowledgement 0 0]) := by decide +kernel
/-- The stage line takes both indices; element 0 (index 17) issues at 0x8000 + 17 · 128; an index of all ones is skipped; an element lands. -/
def gg (f : Cmd → Cmd) : State := en.setCmd 0 3 (f { gc with limit := 2, done := 0 })
theorem test_gather_stage : goes (exec (.gatherStage 0 3) (gg id)) (fun t => t.peek 0x9000 16 == 17 + 34 * 2 ^ 64 && t.agenda == [.gatherStage 0 3] &&
    (t.cmd? 0 3).map (·.stage) == some [⟨0, 0, 2, true, []⟩]) := by decide +kernel
def gg1 (x : Nat) : State := (gg (fun c => { c with pos := 1, stage := [⟨0, 0, 2, true, []⟩] })).poke 0x9000 8 x
theorem test_gather_issue : goes (exec (.gatherElementIssue 0 3) (gg1 17)) (fun t => t.agenda == [.gatherElementLand 0 3 0, .gatherElementIssue 0 3] &&
      (t.cmd? 0 3).map (fun c => (c.issued, c.flight)) == some (1, [(0, 2 ^ 57 + 0x8880)])) ∧
    goes (exec (.gatherElementIssue 0 3) (gg1 (2 ^ 64 - 1))) (fun t => (t.cmd? 0 3).map (fun c => (c.issued, c.done)) == some (1, 1)) := by decide +kernel
theorem test_gather_land : goes (exec (.gatherElementLand 0 3 1) ((gg (fun c => { c with issued := 2, flight := [(1, 2 ^ 57 + 0x4000)] }))))
    (fun t => t.peek 0xA080 16 == 17 + 34 * 2 ^ 64 && (t.cmd? 0 3).map (·.done) == some 1) := by decide +kernel
theorem test_stream_fetch : let s := en.setStrm 0 0 (strm0 none)
    engAt 0x4000 (stripOffset sd 0) = some (false, 0x4000) ∧ goes (exec (.streamFetch 0 0) s) (fun t =>
      (t.strm? 0 0).map (·.fetched) == some [17 + 34 * 2 ^ 64] && t.agenda == [.streamFetch 0 0]) := by decide +kernel
/-- Completions: a channel takes DONE 16, TAG 7, KIND 1, STATUS 0; a semaphore a count; none nothing. -/
def xd (ck : Nat) : State := en.setCmd 0 0 { xc with ctl := BitVec.ofNat 64 (0x70004 + 16 * ck), done := 16, closing := true }
theorem test_engine_ends : goes (exec (.engineCompletion 0 0) (xd 2)) (fun t => (t.waiting 0 4).map (·.words) == [[0x1000070100]] && t.cmd? 0 0 == none) ∧
    goes (exec (.engineCompletion 0 0) (xd 1)) (fun t => t.semCount 0 4 == 1) ∧ gives (exec (.engineCompletion 0 0) (xd 0)) { en with cmds := [] } ∧
    gives (exec (.bufferFreeAcknowledgement 0 0) (xd 0)) ((xd 0).later (.engineCompletion 0 0)) := by decide +kernel
/-- A fault with no completion asked goes to the transfer core's refusal channel. -/
theorem test_engine_fault : let s := (en.setCmd 0 0 { xc with ctl := 0x70000, status := 3, closing := true }).modSlot 0 0 (fun r => { r with rfcs := 0xFFFF0005 })
    goes (exec (.engineCompletion 0 0) s) (fun t => (t.waiting 0 5).map (·.words) == [[0x70103]]) := by decide +kernel
/-- The one point of the sum above is 2.5: the point is summed, then written as F32; then the result word, DONE 1. -/
def gz (pos done : Nat) (w : GlzWork := {}) : State := (ge.poke 0xB000 4 0x40200000).setCmd 0 0
  { cmd0 .glz 0 0xB000 0xC000 (gb ++ [0x5000] ++ gt) 1 [] with pos := pos, done := done, work := w }
/-- Its sum, in units of 2^-1074 times the weight's. -/
def gsum : GlzSum := glzAdd {} (glzTerm (elemVal tF32 0x40200000) 1 0)
theorem test_glaze_point : goes (exec (.glzPoint 0 0) (gz 0 0)) (fun t =>
      (t.cmd? 0 0).map (fun c => (c.pos, c.done, c.work)) == some (0, 0, { parts := [(0, (1, gsum))] }) && t.agenda == [.glzPoint 0 0]) ∧
    goes (exec (.glzPoint 0 0) (gz 0 0 { parts := [(0, (1, gsum))] })) (fun t => t.peek 0xC000 4 == 0x40200000 &&
      (t.cmd? 0 0).map (fun c => (c.pos, c.done, c.work)) == some (1, 1, {}) && t.agenda == [.glzPoint 0 0]) ∧
    goes (exec (.glzPoint 0 0) (gz 1 1)) (fun t => t.peek 0x5048 8 == 0x100000000 && t.agenda == [.engineCompletion 0 0]) := by decide +kernel
theorem test_glaze_terms : pointTerms (gridAt gb 0) (gridAt gb 4) (0xD000 * 2 ^ 8) gt 0 = [((0, 0, 0), 1)] ∧
    pointOffset (gridAt gb 0) 0 (0, 0, 0) = 0 ∧ engAt 0xB000 0 = some (false, 0xB000) ∧ nextUnit (gridAt gb 4) 0 1 1 0 = 0 ∧
    unitPoints (gridAt gb 4) 0 0 = [0] ∧ (glzOuts (gridAt gb 4) (0xD000 * 2 ^ 8) (unitStart (gridAt gb 4) 0 0) (0, []) [(0, gsum)]).1 =
      [(0, 0x40200000, false)] := by decide +kernel

/-- A copy of `n` bytes from 0x4000 to 0x6000. -/
def xn (n : Nat) (f : Cmd → Cmd) : State := en.setCmd 0 0 (f (cmd0 .xfer (n * 2 ^ 40 + 0x70004) 0x4000 0x6000 [] n []))
/-- A unit of 64 bytes; one that a FILLING entry covers is credited; one that a READY entry covers waits. -/
theorem test_copy_near : copyUnit (cmd0 .xfer (256 * 2 ^ 40 + 0x70004) 0x4000 0x6000 [] 256 []) = 64 ∧ twice (.xferUnit 0 0) (xn 256 id) (fun t => t.peek 0x6000 64 == 17 + 34 * 2 ^ 64 && t.agenda == [.xferUnit 0 0] &&
      (t.cmd? 0 0).map (fun c => (c.pos, c.done, c.status)) == some (64, 64, 0)) ∧
    (let s := (xn 256 id).setTile 0 1 { v := true, first := 0xC0, state := .filling, pend := 128 }
     twice (.xferUnit 0 0) s (fun t => (t.tile 0 1).pend == 64)) ∧
    (let s := (xn 256 id).setTile 0 1 { v := true, first := 0xC0, state := .ready }
     goes (exec (.xferUnit 0 0) s) (fun t => gives (exec (.xferUnit 0 0) t) (t.later (.xferUnit 0 0)))) := by decide +kernel
/-- A source entry that is FILLING holds the unit back; a READY one is consumed and held until the last read of its range. -/
theorem test_copy_source : let e : Tile := { v := true, first := 0x80, nl := 3, uses := 2, uleft := 2 }
    (let s := (xn 256 id).setTile 0 1 { e with state := .filling, pend := 9 }
     gives (exec (.xferUnit 0 0) s) (s.later (.xferUnit 0 0))) ∧
    (let s := (xn 256 id).setTile 0 1 { e with state := .ready }
     s.tilesMeeting 0 0x40FF 1 = [(1, { e with state := .ready })] ∧ goes (exec (.xferUnit 0 0) s) (fun t => t.tile 0 1 == (s.consumeTile 0 1).tile 0 1 &&
       (t.cmd? 0 0).map (·.tiles) == some [1])) ∧
    (let s := ((xn 256 (fun c => { c with pos := 192, tiles := [1] })).setTile 0 1 { e with state := .ready, uleft := 1, cons := 1 })
     twice (.xferUnit 0 0) s (fun t => (t.tile 0 1).cons == 0 && (t.cmd? 0 0).map (·.tiles) == some [])) := by decide +kernel
/-- Near to far, and far to near. -/
theorem test_copy_far : (let s := { xn 64 (fun c => { c with dst := BitVec.ofNat 64 fa }) with tlb := farMap }
     engAt fa 0 = some (true, fa % 2 ^ 57) ∧ s.lookup 0 (fa % 2 ^ 57) accWrite = .physical 0x8000 0 ∧ twice (.xferUnit 0 0) s (fun t => t.farPeek 0x8000 16 == 17 + 34 * 2 ^ 64 &&
       t.agenda == [.xferUnit 0 0] && (t.cmd? 0 0).map (fun c => (c.pos, c.done)) == some (16, 16))) ∧
    (let s := { xn 16 (fun c => { c with src := BitVec.ofNat 64 fa, dst := 0x6010 }) with tlb := farMap, far := [(0x8000, 0x33)] }
     s.lookup 0 (fa % 2 ^ 57) accRead = .physical 0x8000 0 ∧ s.farBad 0x8000 16 = false ∧ twice (.xferUnit 0 0) s (fun t => t.peek 0x6010 16 == 0x33 &&
       t.agenda == [.engineCompletion 0 0])) := by decide +kernel
/-- A stage line with a kernel channel is not free, and its word of 0x9000 and two indices enters channel 4. -/
theorem test_gather_kernel : goes (exec (.gatherStage 0 3) (gg (fun c => { c with args := [0x8000, 0x140 + 0x120 * 2 ^ 14 + 4 * 2 ^ 33] }))) (fun t =>
    t.agenda == [.neverRefusedEntry 0 4, .gatherStage 0 3] && (t.waiting 0 4).map (·.words) == [[0x9000, 0x200000000]] && (t.cmd? 0 3).map (·.stage) == some [⟨0, 0, 2, false, []⟩]) := by decide +kernel
/-- An index is the word that GEND captured; a skipped element credits a FILLING entry; of a failed gather both elements become zero in turn. -/
theorem test_gather_more : (goes (exec (.gatherElementIssue 0 3) (gg (fun c => { c with pos := 1, stage := [⟨0, 0, 2, true, [5]⟩] }))) (fun t =>
      (t.cmd? 0 3).map (fun c => (c.issued, c.flight)) == some (1, [(0, 2 ^ 57 + 0x8280)]))) ∧
    (let s := (gg1 (2 ^ 64 - 1)).setTile 0 1 { v := true, first := 0x140, nl := 1, state := .filling, pend := 256 }
     s.tileHeld 0 0xA000 128 = false ∧ goes (exec (.gatherElementIssue 0 3) s) (fun t => (t.tile 0 1).pend == 128 && (t.cmd? 0 3).map (·.done) == some 1)) ∧
    (let s := withWords (gg (fun c => { c with pos := 1, issued := 2, flight := [(0, 2 ^ 59 + 2)] })) 0xA000 [1, 2]
     goes (exec (.gatherElementLand 0 3 0) s) (fun t => t.peek 0xA000 128 == 0 && (t.cmd? 0 3).map (·.done) == some 0 &&
       t.agenda == [.gatherElementLand 0 3 1])) := by decide +kernel
/-- REL counts its release step; a command that still holds an entry lets it go. -/
theorem test_engine_release : goes (exec (.engineCompletion 0 0) ((xd 0).setCmd 0 0 { xc with ctl := 0x70040, done := 16, closing := true }))
    (fun t => t.rels == 1 && t.cmds == []) := by decide +kernel
/-- PROLONG.ADD adds 2.5 to the old value 1.0; nothing else of the unit is written. -/
theorem test_glaze_add : let w := gb.take 8 ++ [0xD000 * 2 ^ 8 + 2]
    let s := ((ge.poke 0xC000 4 0x3F800000).poke 0xC004 4 9).setCmd 0 0
      { cmd0 .glz 0 0xB000 0xC000 (w ++ [0x5000] ++ gt) 1 [] with work := { parts := [(0, (1, gsum))] } }
    gridAligned (gridAt w 4) 0 = true ∧ s.resBits 0xC000 64 = 0 ∧ goes (exec (.glzPoint 0 0) s) (fun t => t.peek 0xC000 8 == 0x940600000 &&
      (t.cmd? 0 0).map (fun c => (c.pos, c.done)) == some (1, 1)) := by decide +kernel
/-- STRMOFF of a unit that another slot's STRM turned on ends it too (R259). -/
theorem test_strmoff_other : goes (exec (.strmoff 28) (en.setStrm 0 0 { strm0 none with lid := 9, slot := 4 })) (fun t => t.strm? 0 0 == none) := by
  decide +kernel
/-- A weight slot past 3^(DIM + 1) is not read: a mark on it raises no trap (R276). -/
theorem test_glz_table : (ge.poisoned 0xD048 8 = none ∧ ge.mark 0xD048 8 ≠ ge) ∧ goes (exec (.glz 4 8) (ge.mark 0xD048 8)) (fun t =>
    (t.cmd? 0 0).map (·.kind) == some .glz) := by decide +kernel

/-! ### Shaping -/

/-- A shaping core: W2 = 0x4000 (source), W4 = 0x8000 (destination), W5 = a shape word; at 0x4000 the bytes 3, 0, …. -/
def sh (w : Nat) : State := withWords (withW (withW (withW (on 1) 2 0x4000) 4 0x8000) 5 w) 0x4000 [3]
/-- PLANE of one row of N8: element (0, 0) = 3 sets bit 0 of plane words (0, 0) and (1, 0); UNPLANE takes bit 0 of word (0, 0) and bit 1 of word (0, 0). -/
theorem test_plane : running (sh 0x10005) 8 = true ∧ isMatTag tN8 = true ∧ readable (sh 0x10005) 0x4000 64 = true ∧ (sh 0x10005).tileHeld 0 0x8000 4096 = false ∧
    fld (toPlanes tN8 3 1) 0 64 = 1 ∧ fld (toPlanes tN8 3 1) (64 * 64) 64 = 1 ∧ fld (toPlanes tN8 3 1) (64 * 128) 64 = 0 ∧
    toRows tN8 3 1 = 0x101 ∧ planeSize tN8 = 4096 := by decide +kernel
theorem test_unplane : goes (exec (.unplane 4 2 5) (sh 0x10005)) (fun t => t.peek 0x8000 8 == 0x101) := by decide +kernel
/-- LKENC of sixteen F32 elements, 1.0 and zeros, and back. -/
theorem test_lake : isLakeTag tLK8 = true ∧ isLaneFloat tF32 = true ∧
    (let s := (sh (0x10000 + tF32 * 256 + tLK8)).poke 0x4000 4 0x3F800000
     goes (exec (.lkenc 4 2 5) s) (fun t => goes (exec (.lkdec 4 2 5) (setW (setW t 2 0x8000) 4 0x4000)) (fun u => u.peek 0x4000 64 == 0x3F800000))) := by
  decide +kernel

/-! ### System registers and unit controls -/

theorem test_system_registers : gives (exec (.srr 7 1) sc) (past 4 (setW sc 7 0x3000)) ∧ gives (exec (.srr 7 0) sc) (past 4 (setW sc 7 0x2000)) ∧
    gives (exec (.srr 7 0x10) sc) (past 4 (setW sc 7 0x3F)) ∧ gives (exec (.srr 7 0x101) (sc.modEntry 64 (fun e => { e with chans := 0x10 })))
      (past 4 (setW (sc.modEntry 64 (fun e => { e with chans := 0x10 })) 7 0x10)) ∧ gives (exec (.srw 2 0x10) sc) (past 4 sc) ∧
    goes (exec (.srw 1 2) sc) (fun t => t.curEntry.st == 0xFFFFFFFFFF00BF03#64 &&& (-5)) ∧
    goes (exec (.srw 2 3) (setW sc 2 (5 * 2 ^ 54 + 2 ^ 32 + 0x5000))) (fun t => eh t == 0x140000100005000#64) := by decide +kernel
/-- The fault service core of cluster 0, with one address in its queue and OVF set. -/
def fs : State := { on 8199 with faqs := [(0, { items := [0x8000000000000080, 5], ovf := true })] }
theorem test_fault_queue : fs.node = 2049 ∧ clusterOf fs.node = 0 ∧ goes (exec (.faultQueuePop 7) fs) (fun t => wVal t 7 == 0x8000000000000080 &&
      (mget t.faqs 0 {}).items == [5]) ∧ goes (exec (.srr 7 0x300) fs) (fun t => wVal t 7 == 0x8000000000000080) ∧
    goes (exec (.srr 7 0x301) fs) (fun t => wVal t 7 == 0x8000000000000002) ∧
    goes (exec (.faultQueueClearOvf 6) (setW fs 6 0x8000000000000000)) (fun t => !(mget t.faqs 0 {}).ovf) := by decide +kernel
theorem test_tile_control : let s := setW sc 6 0x8002000000000080
    goes (exec (.tileEntryWrite 6 1) s) (fun t => t.tile 0 1 == { v := true, uses := 2, uleft := 2, first := 0x80 }) ∧
    goes (exec (.srw 6 0x202) s) (fun t => (t.tile 0 1).v) ∧
    goes (exec (.tileEntryArm 2 1) (s.setTile 0 1 { v := true, uses := 2, uleft := 2, first := 0x80 })) (fun t => (t.tile 0 1).state == .filling &&
      (t.tile 0 1).pend == 7) ∧ goes (exec (.srw 2 0x203) (s.setTile 0 1 { v := true, first := 0x80 })) (fun t => (t.tile 0 1).pend == 7) := by decide +kernel
/-- Matching entry 3: LEN 16, DST channel 4 of core 0 of vat 0, address 0x6000. -/
def mt : Match := { len := 16, dst := 0x400000, addr := 0x6000, mtag := 9 }
def fb : State := (setW (setW en 12 0x8000000000000007) 13 7).setMatch 3 mt
theorem test_match_control : fb.coreNo = 0 ∧ fb.matchMine mt = true ∧ fb.armOk mt 0x8000000000000007 = true ∧
    goes (exec (.matchArm 12 3) fb) (fun t => t.matchOf 3 == { mt with state := 1, slot := 0, node := 0, lid := 1, tag := 7 }) ∧
    goes (exec (.srw 12 0x80F) fb) (fun t => (t.matchOf 3).state == 1) ∧ goes (exec (.matchDisarm 13 3) (fb.setMatch 3 { mt with state := 1 }))
      (fun t => t.matchOf 3 == { mt with tag := 7 }) ∧ goes (exec (.srw 13 0x80C) fb) (fun t => (t.matchOf 3).mtag == 7) := by decide +kernel
/-- A send of 16 bytes from 0x4000 to device 0 under MTAG 9. -/
theorem test_fabric_send : let s := withWords (setW en 12 0x7000) 0x7000 [16 * 2 ^ 40, 0x4000, 0, 9]
    s.fabric.count = 1 ∧ readable s 0x7000 32 = true ∧ gives (exec (.fabricSend 12) s) (past 4 (started s 0 { cmd0 .fabric (16 * 2 ^ 40) 0x4000 0 [9, 0] 16 []
      with lid := 0, ent := 0 } [.xferUnit 0 0])) ∧ goes (exec (.srw 12 0x700) s) (fun t => t.agenda == [.xferUnit 0 0]) := by decide +kernel
theorem test_lane_control : let s := setW (setW { fs with lsel := 5 } 6 1) 7 2
    laneOk 5 = true ∧ goes (exec (.laneRetrain 6) s) (fun t => (t.lane 5).state == 1 && t.pauses == [0] && t.agenda == [.retrainDone 0]) ∧
    goes (exec (.laneRepair 7) s) (fun t => (t.lane 5).spr && mget t.spares 0 0 == 1) ∧ goes (exec (.srw 7 0x602) { s with spares := [(0, 8)] })
      (fun t => (t.lane 5).state == 2) ∧ goes (exec (.srw 6 0x602) s) (fun t => t.pauses == [0]) := by decide +kernel

/-! ### Traps and core controls -/

/-- `sc` with EH: WS 5 (0x2800), entry 0x5000. -/
def th : State := sc.modCore 2 (fun c => { c with eh := [(0, 0x140000100005000#64)] })
theorem test_handled : th.curEntry.st.getLsbD 15 = false ∧ (eh th).getLsbD 32 = true ∧ th.otherTrap th.curKey = false ∧
    gives (exec (.trap 7) th) (entered th 0x08 7 0x3004) ∧ gives (exec (.bkpt 7) th) (entered th 0x07 7 0x3004) ∧
    gives (exec (.illegalEncoding 16 0) th) (entered th 0x01 0 0x3000) ∧ gives (exec (.illegalEncoding 32 0xE1) th) (entered th 0x05 0x70 0x3000) ∧
    gives (exec .gend th) (entered th 0x05 0x5B 0x3000) ∧ running th 6 = false := by decide +kernel
/-- A compare whose d field names W3. -/
theorem test_compare_operand : running th 1 = true ∧ th.curEntry.state = .active ∧ isM 3 = false ∧
    gives (exec (.vcmpeq 3 16 17 0) th) (entered th 0x02 24 0x3000) ∧ gives (exec (.vcmpltK 3 16 17 0) th) (entered th 0x02 24 0x3000) ∧
    gives (exec (.vcmpleRel 3 16 17 0) th) (entered th 0x02 24 0x3000) := by decide +kernel
theorem test_entered : let t := entered th 0x08 7 0x3004
    t.peek 0x2570 8 = 0x3004 ∧ t.curEntry.ip = 0x5000 ∧ t.curEntry.wp = 0x2800 ∧ t.curEntry.st = 0x0108000007008000#64 := by decide +kernel
theorem test_double_trap : (eh sc).getLsbD 32 = false ∧ sc.inArray sc.curKey = false ∧ goes (exec (.trap 7) sc) (fun t => (t.entry 64).msk &&
    t.entry 64 == { sc.entry 64 with state := .idle, msk := true, ip := 0, wp := 0 } && t.waiting 8199 1 == [{ words := [0x70800003004, 0x2000, 0x11] }] &&
    t.agenda == [.neverRefusedEntry 8199 1]) := by decide +kernel
theorem test_eret : let s := withWords (sc.modEntry 64 (fun e => { e with st := 0x0108000007008000#64, wp := 0x2800, ip := 0x5000 })) 0x2570 [0x3004, 1]
    readable s 0x2570 16 = true ∧ gives (exec .eret s) (s.modEntry 64 (fun e => { e with wp := 0x2000, ip := 0x3004, st := 1 })) := by decide +kernel
theorem test_core_controls : gives (exec (.mirror 1 20 0) sc) (past 4 (mir [(1, 20)])) ∧ gives (exec (.mirror 1 0 1) (mir [(1, 20)])) (past 4 (mir [])) ∧
    goes (exec (.bkpt 7) (sc.modCore 2 (fun c => { c with hob := true }))) (fun t => (t.core 2).hlt && t.curEntry.ip == 0x3004) ∧
    gives (exec (.halt 6) (setW sc 6 0xC1000)) (past 4 ((setW sc 6 0xC1000).later (.debugSetHob 1 0))) ∧
    gives (exec (.halt 6) (setW sc 6 0x1000)) (past 4 ((setW sc 6 0x1000).later (.debugHalt 1))) := by decide +kernel
theorem test_debug_events : goes (exec (.debugHalt 2) sc) (fun t => (t.core 2).hlt) ∧ goes (exec (.debugRelease 2) (sc.modCore 2 (fun c =>
      { c with hlt := true }))) (fun t => !(t.core 2).hlt) ∧ goes (exec (.debugStep 2) (sc.modCore 2 (fun c => { c with hlt := true }))) (fun t => (t.core 2).step) ∧
    goes (exec (.debugSetHob 2 1) sc) (fun t => (t.core 2).hob) := by decide +kernel

/-! ### Translation -/

/-- The translation service core of cluster 0: W4, W5 a page of vat 0 at 0x4000, mapped to 0x8000. -/
def ts : State := setW (setW (on 8195) 4 0x401C) 5 0x8000
theorem test_tlbw : ts.node = 2048 ∧ pageLowOk 0x401C 0x8000 = true ∧ ts.tlbOf 0 = [] ∧ goes (exec (.tlbw 4) ts) (fun t =>
    (match t.lookup 0 0x4008 accRead with | .physical pa _ => pa == 0x8008 | _ => false) && t.curEntry.ip == 0x3004) := by decide +kernel
theorem test_tlbi : let s := { ts with tlb := [(5, ⟨0x401C, 0x8000, false, 0⟩), (70, ⟨0x801C, 0xC000, true, 0⟩)] }
    goes (exec (.tlbiDrain 4) s) (fun t => t.tlb.map (fun p => p.2.drain) == [true, true]) ∧ s.drainBusy 0 = false ∧
    goes (exec (.tlbiConfirm 4) s) (fun t => t.tlb.map (fun p => p.1) == [5]) ∧
    gives (exec (.tlbiConfirm 4) { s with agenda := [.farMemoryAccess { fr .read 8 (.load 7) with src := 6, va := 0x8000 }] })
      ({ s with agenda := [.farMemoryAccess { fr .read 8 (.load 7) with src := 6, va := 0x8000 }] }.blockEntry ts.curKey .retry) := by decide +kernel
theorem test_fault_reply : requesterOk 0 0x2000 = true ∧ gives (exec (.fltrplRetry 6) (setW fs 6 0x2000)) (past 4 ((setW fs 6 0x2000).later
      (.faultReplyArrival 0x2000 true))) ∧ gives (exec (.fltrplFail 6) (setW fs 6 0x2000)) (past 4 ((setW fs 6 0x2000).later (.faultReplyArrival 0x2000 false))) ∧
    (let s := th.blockEntry 64 (.fault 0x4000 0)
     goes (exec (.faultReplyArrival 0x2000 true) s) (fun t => t.curEntry.wait == .retry && t.curEntry.seq == 1) ∧
     goes (exec (.faultReplyArrival 0x2000 false) s) (fun t => t.curEntry.ip == 0x5000 && fld t.curEntry.st.toNat 48 6 == 0x0B) ∧
     gives (exec (.faultReplyArrival 0x1002000 true) s) s) := by decide +kernel

/-- A tile entry written with V = 0 keeps its fields, and one not in use is armed all the same. -/
theorem test_tile_control_open : let s := setW sc 6 0x0002000000030080
    goes (exec (.tileEntryWrite 6 1) s) (fun t => t.tile 0 1 == { uses := 2, uleft := 2, nl := 3, first := 0x80 }) ∧
    goes (exec (.tileEntryArm 2 1) (sc.setTile 0 1 { first := 0x80 })) (fun t => t.tile 0 1 == { first := 0x80, state := .filling, pend := 7 }) := by decide +kernel
/-- A halt: a handler that waits for a fault reply translates again, and a walk in the array is given up at its step with IP at it. -/
theorem test_debug_halt_waits : let s := th.blockEntry 64 (.fault 0x4000 0)
    goes (exec (.debugHalt 2) s) (fun t => (t.core 2).hlt && t.curEntry.wait == .retry && t.curEntry.seq == 1) ∧
    (let s := (wl wj 0).later (.walkStepCommit 0)
     s.curEntry.wait = .walk ∧ goes (exec (.debugHalt 2) s) (fun t => t.arrays == [] && t.curEntry.state == .active && t.curEntry.ip == 0x3000 &&
       t.agenda == [])) := by decide +kernel
/-- A MIRROR release by another entry than the owner: it owns the mirrors from then on, and the others' are released (log 101). -/
theorem test_mirror_taken : gives (exec (.mirror 1 0 1) (sc.modCore 2 (fun c => { c with owner := some 5, mir := [(0, 3), (1, 20)] }))) (past 4 (mir [])) := by
  decide +kernel
/-- A double trap of the mirror owner releases its slots. -/
theorem test_double_trap_mirrors : goes (exec (.trap 7) (mir [(1, 20)])) (fun t => (t.core 2).owner == none && (t.core 2).mir == []) := by decide +kernel
/-- While an element is in flight through the page of its last byte, CONFIRM waits (R248). -/
theorem test_tlbi_element : let c : Cmd := { gc with flight := [(0, 0x7FC0)] }
    elementThrough 0x801C (c.args.getD 1 0) 0x7FC0 = true ∧ (let s := { ts with tlb := [(5, ⟨0x801C, 0x8000, true, 0⟩)] }.setCmd 0 0 c
      gives (exec (.tlbiConfirm 4) s) (s.blockEntry ts.curKey .retry)) := by decide +kernel

/-! ### Images -/

/-- The translation service core of cluster 0, with the rectangle of `on 2` (launch id 1) resident; W6 = 0x4000, where an image request stands: launch
id 1, base 0x100000000010000, verdict to channel 1. -/
def im (w0 : Nat) : State := withWords (setW { on 8195 with rects := (on 2).rects, slots := (on 2).slots, entries := (on 8195).entries ++ [] } 6 0x4000)
  0x4000 [w0, 0xFF00000000010001]
def ij : ImageJob := { lid := 1, keep := false, incr := false, base := 0x100000000010000, endto := (im 1).myEndto 1, auth := none }
theorem test_image_request : readable (im 1) 0x100004000 16 = true ∧ (im 1).ownsChan 1 = true ∧ (im 1).authority = none ∧ (im 1).activeImage 1 = none ∧
    goes (exec (.image 6) (im 1)) (fun t => t.images == [{ ij with active := true }] && t.agenda == [.imageStop 0 1, .vatImage 0 1]) ∧
    goes (exec (.image 6) (im 2)) (fun t => t.images == [] && t.agenda.length == 1) := by decide +kernel
theorem test_image_stop : let s := (on 2).blockEntry 64 .retry
    (s.slotOfLid 0 1).map (·.1) = some 0 ∧ (s.slotEntries 0 0).map (·.1) = [64] ∧ goes (exec (.imageStop 0 1) s) (fun t =>
      (t.slot? 0 0).map (·.stopped) == some true && (t.entry 64).state == .active && (t.entry 64).ip == 0x3000) := by decide +kernel
/-- The rectangle stopped, of one 2 KiB span of scratchpad; its image job with what is left of the vat's units; one page of 2 MiB. -/
def iv (todo : Map (List Nat)) : State := { (on 2).modSlot 0 0 (fun r => { r with stopped := true, space := 4 + 1024 }) with
  images := [{ ij with active := true, todo := todo }], tlb := [(0, ⟨0x10000000000001D, 0x200000, false, 0⟩)] }
theorem test_image_settles : (iv []).imageReady 0 1 = true ∧ (iv []).fabricHeld 1 = false ∧ goes (exec (.vatImage 0 1) (iv [])) (fun t =>
    t.images.map (·.todo) == [[(0, [2])]] && t.agenda == [.vatImage 0 1]) := by decide +kernel
/-- The units chosen: the header first and last, the entries' and the first line's among them. -/
theorem test_image_chooses : goes (exec (.vatImage 0 1) (iv [(0, [2])])) (fun t => (t.slot? 0 0).map (fun r => (r.imaged, r.igen)) == some (true, 1) &&
    (match (t.activeImage 1).bind (fun i => mget? i.todo 0) with
      | some os => os.head? == some 0 && os.getLast? == some 1 && os.contains 0x400 && os.contains 0x20000 && os.contains 0x20780
      | none => false)) := by decide +kernel
/-- The header's words 0, 1 and 8: generation, launch id, COMPLETE; with COMPLETE 0 while a unit waits for the page that drains. -/
theorem test_image_header : goes (exec (.vatImage 0 1) (iv [(0, [1])])) (fun t => t.farPeek 0x210000 8 == 0x7D210820 && t.farPeek 0x210008 8 == 1 &&
      fld (t.farPeek 0x210040 8) 1 1 == 1 && t.agenda == [.imageVerdict 1]) ∧
    (let s : State := { iv [(0, [0, 0x4000])] with tlb := [(0, ⟨0x10000000001001C, 0x210000, false, 0⟩), (1, ⟨0x10000000001401C, 0x214000, true, 0⟩)] }
     (match s.engLookup 0 (ij.base + 0x4000) accWrite with | .error .wait => true | _ => false) = true ∧
     goes (exec (.vatImage 0 1) s) (fun t => t.farPeek 0x210000 8 == 0x7D210820 && fld (t.farPeek 0x210040 8) 1 1 == 0 &&
       t.images.map (·.todo) == [[(0, [0x4000])]])) := by decide +kernel
/-- The frame is withheld: the image fails, and the vat is imaged no more. -/
theorem test_image_fails : let s : State := { iv [(0, [0, 0x4000])] with badFrames := [0x84] }
    (match s.engLookup 0 ij.base accWrite with | .ok pa => pa == 0x210000 && s.noMem pa | _ => false) = true ∧
    goes (exec (.vatImage 0 1) s) (fun t => t.far == [] && t.images.map (·.failed) == [true]) := by decide +kernel
theorem test_image_verdict : goes (exec (.imageVerdict 1) (iv [])) (fun t => t.images == [] && t.rects == [] && t.slots == []) ∧
    goes (exec (.imageVerdict 1) { iv [] with images := [{ ij with active := true, keep := true }] }) (fun t => t.images == [] && t.rects.length == 1 &&
      (t.slot? 0 0).map (·.stopped) == some false) ∧
    goes (exec (.imageVerdict 1) { iv [] with images := [{ ij with active := true, failed := true }] }) (fun t => t.rects.length == 1) := by decide +kernel
/-- A resume of one vat whose read has failed is answered BADIMG, and one with that answer is given up; RESUME of an unmapped header sends a miss. -/
def rj : ResumeJob := { id := 4, lid := 9, shape := 1 * 2 ^ 25, base := 0x100000000010000, stride := 0x24000, replyTo := ij.endto, endto := 0, auth := none,
                        fails := [0] }
def rs (j : ResumeJob) : State := { on 8195 with resumes := [j] }
theorem test_resume : (rs rj).resumeJob 4 = some rj ∧ goes (exec (.resumeReserve 0 4) (rs rj)) (fun t => t.agenda == [.resumeRestore 4] &&
      t.resumes == [{ rj with answers := [(0, 7, 0)] }]) ∧ goes (exec (.resumeRestore 4) (rs { rj with answers := [(0, 7, 0)] })) (fun t => t.resumes == [] &&
      t.rects == []) ∧ goes (exec (.resume 6) { im 0 with tlb := [(0, ⟨0x10000000001001C, 0x8000, false, 0⟩)] }) (fun t => t.curEntry.ip == 0x3004) := by
  decide +kernel
/-- A vat that has read its image but for the last page: the header of launch 9 with one span of scratchpad, everything else zero. -/
def rh : Nat := packFields 64 [0x17D210820, 9, 1 * 2 ^ 25, 4 + 1024, 0, 0, 0, 0x24000, 2]
def rg : ResumeJob := { rj with fails := [], got := [(0, some (rh, []) :: List.replicate 7 (some (0, [])))] }
def rx : VatBytes := ⟨rh, []⟩
def rt : State := { rs rg with tlb := (iv []).tlb }
theorem test_resume_reads : State.readPages 0 (rg.vaOf 0) 1 rt (mget rg.got 0 []) = (rt.engTouch 0 0x100000000030000 accRead,
    some (rh, []) :: List.replicate 8 (some (0, [])), none) := by decide +kernel
theorem test_resume_good : let i : ResumeJob := { rg with got := [(0, some (rh, []) :: List.replicate 8 (some (0, [])))] }
    rt.resumeJob 4 = some rg ∧ mget rg.waits 0 .none = .none ∧ i.imageOf 0 = some rx ∧ rt.resumeCode 0 9 rx rg.shape = (0, 0) ∧
    goes (exec (.resumeReserve 0 4) rt) (fun t => (t.vat 0).resv.map (·.lid) == [9] && t.agenda == [.resumeRestore 4] && t.resumes == [{ i with
      answers := [(0, 0, 0)] }]) := by decide +kernel
/-- The rectangle comes back, with the slot that the image gives. -/
theorem test_resume_restores : let i : ResumeJob := { rg with got := [(0, some (rh, []) :: List.replicate 8 (some (0, [])))], answers := [(0, 0, 0)] }
    let s := (rs i).modVat 0 (fun v => { v with resv := [⟨9, resumeReq rg.shape rx, 0⟩] })
    rectNodes i.shape (shapeX i.shape) (shapeY i.shape) = [0] ∧ s.lateRefusals i [(0, i.imageOf 0)] = [] ∧ goes (exec (.resumeRestore 4) s) (fun t =>
      t.rects.map (·.lid) == [9] && t.agenda.contains (.rectangleEnd 9) && t.slot? 0 0 == some (resumedSlot i 0 rx)) := by decide +kernel

/-! ### Fabric, device, host -/

/-- A message of 16 bytes under MTAG 9 from command 2 of vat 0 of this device; the second half of its payload may carry a mark. -/
def fm (at' : Option (Nat × Nat)) (mark : Nat := 0) : FabricMsg := ⟨0, 0, 2, 9, 16, 17 + 34 * 2 ^ 64 + mark * 2 ^ 129, at'⟩
theorem test_fabric_events : fb.fabric.addr = 0 ∧ goes (exec (.fabricArrival (fm none)) fb) (fun t => t.agenda == [.fabricAcknowledgement 0 2 4]) ∧
    goes (exec (.fabricArrival (fm none)) (fb.setMatch 3 { mt with state := 1 })) (fun t => (t.matchOf 3).state == 2 &&
      t.agenda == [.fabricArrival (fm (some (3, 0)))]) ∧ goes (exec (.fabricArrival (fm (some (3, 0)))) (fb.setMatch 3 { mt with state := 2 })) (fun t =>
      t.peek 0x6000 16 == 17 + 34 * 2 ^ 64 && t.agenda == [.fabricArrival (fm (some (3, 16)))]) ∧
    goes (exec (.fabricArrival (fm (some (3, 16)))) (fb.setMatch 3 { mt with state := 2, tag := 7 })) (fun t => (t.matchOf 3).state == 0 &&
      (t.waiting 0 4).map (·.words) == [[0x1000070600]] && t.agenda == [.neverRefusedEntry 0 4, .fabricAcknowledgement 0 2 0]) := by decide +kernel
/-- A message of a domained address that is no peer is taken, one without a domain is discarded; a poisoned word is marked and raises STATUS. -/
theorem test_fabric_domains : let m : FabricMsg := { fm none with src := 5 }
    let s : State := { fb with fabric := { fb.fabric with domains := [(5, 1)] } }
    gives (exec (.fabricArrival m) fb) fb ∧ goes (exec (.fabricArrival m) (s.setMatch 3 { mt with state := 1 })) (fun t => (t.matchOf 3).state == 2) ∧
    gives (exec (.fabricArrival m) s) s ∧ goes (exec (.fabricArrival (fm (some (3, 0)) 1)) (fb.setMatch 3 { mt with state := 2 })) (fun t =>
      (t.matchOf 3).status == 1 && (t.poisoned 0x6008 8).isSome && (t.poisoned 0x6000 8).isNone) := by decide +kernel
theorem test_fabric_ends : let s := fb.setCmd 0 2 { cmd0 .fabric (16 * 2 ^ 40) 0x4000 0 [9, 0] 16 [] with closing := true }
    goes (exec (.fabricAcknowledgement 0 2 0) s) (fun t => (t.cmd? 0 2).map (·.done) == some 16 && t.agenda == [.engineCompletion 0 2]) ∧
    goes (exec (.fabricDeliveryFailure 0 2) s) (fun t => (t.cmd? 0 2).map (·.status) == some 5) := by decide +kernel
/-- Device events on a state with a far byte and a rectangle. -/
def dv : State := { on 2 with far := [(7, 9)] }
theorem test_device_reset : goes (exec .deviceReset dv) (fun t => t.far == [(7, 9)] && t.slots == [] && t.mem == []) ∧
    goes (exec .fatalFault dv) (fun t => t.far == [(7, 9)] && t.host.epoch == 2 && t.host.window.map (·.type) == [0x84] && t.rects == []) ∧
    goes (exec (.eccError .control) dv) (fun t => t.entries == []) := by decide +kernel
/-- Past 105 °C the die's islands slow down; at 100 °C they go up again. -/
theorem test_island_steps : goes (exec (.throttleStep ⟨0, 106⟩) dv) (fun t => (mget t.islands 0 {}).mhz == 3900 && (mget t.islands 0 {}).thr &&
      (mget t.islands 31 {}).mhz == 4000) ∧ goes (exec (.throttleStep ⟨0, 105⟩) dv) (fun t => (mget t.islands 0 {}).mhz == 4000) ∧
    goes (exec (.throttleRecover ⟨0, 100⟩) { dv with islands := [(0, { thr := true, mhz := 3900 })] }) (fun t =>
      (mget t.islands 0 {}).mhz == 4000 && !(mget t.islands 0 {}).thr) ∧
    goes (exec (.throttleRecover ⟨0, 101⟩) { dv with islands := [(0, { thr := true, mhz := 3900 })] }) (fun t => (mget t.islands 0 {}).mhz == 3900) := by
  decide +kernel
theorem test_errors : gives (exec (.eccError (.scratchCorrected 5)) dv) dv ∧ goes (exec (.eccError (.acc 5)) dv) (fun t => t.accPoison == [5]) ∧
    goes (exec (.eccError (.farCorrected 3)) dv) (fun t => mget t.farCount 3 0 == 1) ∧
    goes (exec (.eccError (.farCorrected 3)) { dv with farCount := [(3, 16)] }) (fun t => (mget t.faqs 3 {}).items == [0xA000000000000180]) ∧
    goes (exec (.eccError (.far 48)) dv) (fun t => t.farPoison == [48] && (mget t.faqs 3 {}).items == [0x8000000000000180]) := by decide +kernel
/-- A link with a failed lane turns an uncorrectable error into a fatal fault; a scrub adds to a line's count and reports the threshold passed once. -/
theorem test_errors_links : let bad : State := { dv with lanes := [(5, { state := 2, failed := true })] }
    laneLink 5 = 0 ∧ goes (exec (.eccError (.link 0)) bad) (fun t => t.entries == []) ∧ gives (exec (.eccError (.link 1)) bad) bad ∧
    goes (exec (.scrub [(3, 5)]) { dv with farCount := [(3, 14)] }) (fun t => mget t.farCount 3 0 == 19 && (mget t.faqs 3 {}).items == [0xA000000000000180]) ∧
    goes (exec (.scrub [(3, 5)]) { dv with farCount := [(3, 19)] }) (fun t => mget t.farCount 3 0 == 24 && (mget t.faqs 3 {}).items == []) := by decide +kernel
/-- A margin below its threshold of 18 mV or 96/1024 UI is reported; one at both is only kept. -/
theorem test_lanes : laneOk 5 = true ∧ goes (exec (.marginMessage 5 1 2) dv) (fun t => (t.lane 5).pend && (t.waiting 8199 2).map (·.words) ==
      [[5, 0x8000000000010002]]) ∧ goes (exec (.marginMessage 5 18 96) dv) (fun t => t.lane 5 == { vmarg := 18, hmarg := 96 } && t.waiting 8199 2 == []) ∧
    goes (exec (.retrainDone 0) { dv with pauses := [0, 1], lanes := [(5, { state := 1 })] }) (fun t => t.pauses == [1] &&
      (t.lane 5).state == 0) := by decide +kernel
/-- Boot: copy A accepted or not, copy B not; two HEALTH records of VER 1 and 2, two of BADPAGE, a FABRIC record with a bad signature. -/
def bt (ok : Bool) : BootRecords :=
  let y : Signatures := ⟨true, true⟩
  ⟨⟨ok, ok⟩, ⟨true, false⟩, [⟨3 * 2 ^ 56 + 2 * 2 ^ 32, .health { ecc := 5 }, y⟩, ⟨3 * 2 ^ 56 + 2 ^ 32, .health { ecc := 9 }, y⟩, ⟨4 * 2 ^ 56, .badpage [7], y⟩,
    ⟨4 * 2 ^ 56 + 2 ^ 32, .badpage [8], y⟩, ⟨2 * 2 ^ 56, .fabric 77 [], ⟨true, false⟩⟩], []⟩
theorem test_boot : usedOf (bt true).records 3 = some (.health { ecc := 5 }) ∧ usedOf (bt true).records 2 = none ∧ goes (exec (.boot (bt true)) dv) (fun t =>
      t.far == [] && t.slots == [] && t.health == { ecc := 5 } && t.badFrames == [7, 8] && t.fabric == {} && t.host == {}) ∧
    gives (exec (.boot (bt false)) dv) { State.reset with far := [(7, 9)], moves := dv.moves } := by decide +kernel
/-- The device with its ports up, and frame 1 of the host. -/
def hs : State := { State.reset with fabric := { up := true } }
def hf (type len payload : Nat) : Frame := ⟨0x48435031, type, len, 1, 0, 1, 0, payload, false⟩
theorem test_host_memory : hs.host.held = [] ∧ hs.host.ha = 0 ∧ goes (exec (.loadFrame (hf 1 24 (0x4000 + (17 + 34 * 2 ^ 64) * 2 ^ 64))) hs) (fun t =>
      t.peek 0x4000 16 == 17 + 34 * 2 ^ 64 && t.host.ha == 1 && t.host.hc == 1) ∧
    goes (exec (.readFrame (hf 3 16 (0x4000 + 16 * 2 ^ 64))) (hs.poke 0x4000 1 5)) (fun t => t.host.window.map (fun f => (f.type, f.payload)) == [(0x83, 5)]) :=
  by decide +kernel
/-- A LOAD into the range of a READY tile waits, and is written once the tile is gone. -/
theorem test_host_load_waits : let f := hf 1 24 (0x4000 + (17 + 34 * 2 ^ 64) * 2 ^ 64)
    let s := hs.setTile 0 1 { v := true, first := 0x80, state := .ready }
    let g := { f with held := true }
    let q (s : State) (fs : List Frame) : State := { s with host := { s.host with ha := 1, queued := fs } }
    let f2 : Frame := { f with seq := 2 }
    goes (exec (.loadFrame f) s) (fun t => t.host.queued == [g] && t.agenda == [.loadFrame g] && t.host.ha == 1 && t.host.hc == 0) ∧
    gives (exec (.loadFrame g) (q s [g])) ((q s [g]).later (.loadFrame g)) ∧
    goes (exec (.loadFrame g) (q hs [g])) (fun t => t.peek 0x4000 16 == 17 + 34 * 2 ^ 64 && t.host.hc == 1 && t.host.queued == []) ∧
    gives (exec (.loadFrame g) hs) hs ∧ goes (exec (.loadFrame f2) (q hs [g])) (fun t => t.host.queued == [g, { f2 with held := true }] && t.host.ha == 2 &&
      t.agenda == [.loadFrame { f2 with held := true }] && gives (exec (.loadFrame { f2 with held := true }) { t with agenda := [] }) t) ∧
    ({ hs with pauses := [74] }).loadWaits f = true := by decide +kernel
theorem test_host_order : gives (exec (.loadFrame { hf 1 24 0x4000 with seq := 2 }) hs) hs ∧ goes (exec (.readFrame { hf 3 16 0x4000 with seq := 0 }) hs) (fun t =>
      t.host.sent == [stateFrame hs]) ∧ goes (exec (.syncFrame (hf 4 0 0)) hs) (fun t => t.host.sent == [stateFrame hs]) ∧
    goes (exec (.frameResend 1) { hs with host := { window := [hf 0x84 0 0] } }) (fun t => t.agenda == [.frameResend 1]) ∧
    gives (exec (.frameResend 1) hs) hs := by decide +kernel
theorem test_host_launch : reqNh (wordsOf (packFields 64 rq) 5) = 2 ∧ wordsOf (packFields 64 rq) 9 = rq ∧
    goes (exec (.launchFrame (hf 2 1992 (packFields 64 rq))) hs) (fun t => t.agenda == [.launchReserve 264 0x80000001, .launchReserve 265 0x80000001]) ∧
    goes (exec (.launchFrame (hf 2 1992 0)) hs) (fun t => t.host.window.map (fun f => (f.type, f.payload)) == [(0x81, 0x0C)]) := by decide +kernel
theorem test_peers : let p := packFields 64 [1, 2, 0x111, 0x222]
    goes (exec (.peersFrame (hf 5 32 p)) hs) (fun t => t.agenda == [.peersApply] && t.fabric.held == [(p, 1)]) ∧
    goes (exec .peersApply { hs with fabric := { up := true, held := [(p, 1)] } }) (fun t => t.fabric.own == 1 && t.fabric.count == 2 &&
      mget? t.fabric.peers 1 == some 0x222 && t.fabric.held == []) ∧
    goes (exec .peersApply { hs with matching := [(3, { state := 2 })] }) (fun t => t.agenda == [.peersApply]) := by decide +kernel

/-! ### The machine -/

/-- ADD W3, W1, W2 where the next step fetches: the move issues core 2, which selects entry 0, and the word stands at IP. -/
def ad : State := State.reset.withFetchWord 32 0b000000_000010_000001_000011_0000000_1
theorem test_step : (match ad.moves with | .issue 2 :: _ => true | _ => false) = true ∧
    (let s : State := { ad with turn := 1, moves := [] }
     s.onLocalPath 0 = false ∧ (match (s.issueCycle 2).chosen 2 with
       | some (e, t) => e == 0 && t.curEntry.ip == 0x3000 && loadOk t 0x3000 2 && loadOk t 0x3002 2 && loadByte t 0x3000 == 1 &&
           (match t.curEntry.wait with | .trap _ _ _ => false | _ => true)
       | none => false) = true) ∧ goes (step ad) (fun t => t.curEntry.ip == 0x3004 && wVal t 3 == 0) := by decide +kernel
/-- A trap of a walk that waited for another activation's ST.IT is taken once that is over, without running the instruction again. -/
def wt : State := { th.blockEntry 64 (.trap 0x0C 32 false) with moves := [.issue 2] }
theorem test_step_trap : goes (step wt) (fun t => t.curEntry.ip == 0x5000 && fld t.curEntry.st.toNat 48 6 == 0x0C &&
    fld t.curEntry.st.toNat 24 24 == 32) = true := by decide +kernel
/-- A step marks units in imaged slots alone; its new IP changes the entry's unit and no queue's. -/
theorem test_step_notes : ad.slots.all (fun p => !p.2.imaged) = true ∧ goes (step ad) (fun t => t.entryRecord 0 0 2 0 != ad.entryRecord 0 0 2 0 &&
    t.queueUnit 0 0 4 == ad.queueUnit 0 0 4) := by decide +kernel
/-- b 2 at 25:20, a 1 at 19:14, d 3 at 13:8, bit 0 set. -/
theorem test_encode : (Instr.add 3 1 2).wf = true ∧ encode (.add 3 1 2) = some (32, 0x204301) ∧ decodeTableWord 32 0x204301 = some (.add 3 1 2) :=
  ⟨rfl, rfl, rfl⟩
/-- Reset, where nothing is due, waits; the state above runs its instruction. -/
theorem test_reset : State.reset.memOk = true ∧ goesOn State.reset = true ∧ goesOn ad = true := by decide +kernel

/-! ### Waits and turns beside these -/

/-- A READY tile over line 74 of vat 0, which holds the registers 0x540 on of workspace 4. -/
def held74 (s : State) : State := s.setTile 0 5 { v := true, first := 74, state := .ready, uses := 1, uleft := 1 }
/-- An activation, a commit and a return into a workspace whose RES bits are not zero wait for such a tile. -/
theorem test_starts_wait : let s := ms.modEntry 64 (fun e => { e with state := .idle, lnch := true })
    let l : Launch := ⟨9, none, [1 * 2 ^ 24, 0, 0, 0, 0, 0x0120800000002000], [], 0, none, 0, [], []⟩
    (held74 s).startHeld 2 ((held74 s).entry 64) = true ∧ gives (exec (.activationStart 2 0) (held74 s)) (held74 s) ∧
    s.commitWaits 0 l = false ∧
    (let u : State := { held74 s with launches := [{ l with req := rq.set 5 0x0120800000002000 }] }
     gives (exec (.launchCommit 0 9) u) (u.later (.launchCommit 0 9))) := by decide +kernel
def er : State :=
  withWords ((sc.modEntry 64 (fun e => { e with st := 0x0108000007008000#64, wp := 0x2800, ip := 0x5000, ws := 0x6000 })).poke 0x256F 1 9) 0x2570 [0x3004, 1]
theorem test_eret_cleans : let s := er
    s.unclean 0 0x2000 = true ∧ goes (exec .eret s) (fun t => t.peek 0x256F 1 == 0 && t.curEntry.wp == 0x2000) ∧
    gives (exec .eret (held74 s)) ((held74 s).blockEntry 64 .retry) := by decide +kernel
/-- A trap whose handler's workspace must be cleaned waits for the tile, and is taken then. -/
theorem test_trap_cleans : let s := (th.poke 0x2D6F 1 9).modEntry 64 (fun e => { e with wait := .none })
    goes (exec (.trap 7) s) (fun t => t.peek 0x2D6F 1 == 0 && t.curEntry.wp == 0x2800) ∧
    goes (exec (.trap 7) (s.setTile 0 5 { v := true, first := 90, state := .ready, uses := 1, uleft := 1 })) (fun t => t.peek 0x2D6F 1 == 9 &&
      t.curEntry.wp == 0x2000) := by decide +kernel
/-- A stopped rectangle answers AWAY to a REPLY of its own too; a word in a blocked instruction's hand keeps its room. -/
theorem test_message_room : (let s := ms.modSlot 0 0 (fun r => { r with stopped := true })
     gives (exec (.messageAccept { mg with kind := 2 }) s) (s.later (.refusalArrival { mg with kind := 2 } 3))) ∧
    (let s := withBox (ms.modEntry 64 (fun e => { e with state := .blocked, wait := .reply 0, taken := [.chan 4 ⟨7, false, false⟩] })) 4 (List.replicate 14 0)
     s.chanHeld 2 4 = 1 ∧ gives (exec (.messageAccept mg) s) (s.later (.refusalArrival mg 1))) := by decide +kernel
/-- A SENDR of the own rectangle from channel 4 of core 2 is one to be answered, one of another rectangle is not; a refused REPLY that was to answer it
leaves it so. -/
theorem test_owed_tags : let m : Message := { mg with kind := 1, ret := 4 }
    let r : Message := { mg with chan := 0, kind := 2, owed := 37 }
    let u := ms.modSlot 0 0 (fun x => x.setOwes 36 1)
    (ms.slotOfLid 0 1).isSome = true ∧ ms.noteTag m = u ∧ ms.noteTag { m with lid := 7 } = ms ∧ ms.unanswered r = u ∧ ms.unanswered mg = ms ∧
    goes (exec (.messageAccept m) ms) (fun t => t.slots.map (·.2.tags) == [[(36, 1)]] && t.box 2 4 == [⟨1, false, false⟩, ⟨2, true, false⟩]) ∧
    gives (exec (.messageAccept r) ms) (u.later (.refusalArrival r 2)) := by decide +kernel
/-- A kept value of far granule 0x800 is found at first, and no more after a release that serves the reader and its acquire after that. -/
theorem test_recall : let c : Copy := { num := 0x800, data := 9, marks := [], kept := 4 }
    let s : State := { nf 2 with stale := [c] }
    goes (.next (s.recallCopy 64 0)) (fun t => (t.granule 64 0 true 0x800).isSome) ∧
    (let t : State := ({ s with stale := [{ c with bars := [⟨1, .package⟩] }] }).modEntry 64 (fun e => { e with relAt := 1 })
     gives (.next (t.recallCopy 64 0)) t) := by decide +kernel
/-- STATE of a command whose page's entry is being drained is 1, of one whose source line is empty 2, of one that can act 0. -/
theorem test_engq_states : let c (src : Nat) : Cmd := cmd0 .xfer (16 * 2 ^ 40 + 0x70004) src 0x5000 [] 16 []
    let s : State := { en with tlb := [(0, ⟨0x10000000000401C, 0x8000, true, 0⟩)], empty := [0x80] }
    let st (s : State) (src : Nat) : Nat := (s.setCmd 0 0 (c src)).cmdState 0 0 (c src)
    st s 0x4000 = 2 ∧ st en 0x4000 = 0 ∧ st s fa = 1 := by decide +kernel
/-- A fold of another vat joins the cycle at hand; one sent after it began, the second of its core there, or one after its phase 3 begins the next, whose
phase 1 dispatches the record. So does a core that issues again, or after an arrival from another vat. -/
theorem test_cycles : let at' (f : Slot → Slot) : State := mqR.modSlot 0 0 f
    let arrives (s : State) : State := s.cycleOf (.foldRequestArrival { fq 1 with src := 6 })
    let gone : Map MqRec := [(0, { rec1 with state := .dispatching, reason := 2 })]
    ((mqR.slot? 0 0).map (fun r => (r.cycle, r.mark, r.closed)) = some ([], 0, false)) ∧ (mqR.recsOf 0 0).length = 1 ∧
    arrives (at' (fun r => { r with mark := 1 })) = at' (fun r => { r with mark := 1, cycle := [6] }) ∧ (arrives mqR).mqs = gone ∧
    (arrives (at' (fun r => { r with mark := 1, cycle := [6] }))).mqs = gone ∧ (arrives (at' (fun r => { r with mark := 1, closed := true }))).mqs = gone ∧
    (mqR.issueCycle 2 = at' (fun r => { r with cycle := [2] })) ∧ ((at' (fun r => { r with cycle := [2] })).issueCycle 2).mqs = gone ∧
    ((at' (fun r => { r with cycle := [6] })).issueCycle 2).mqs = gone := by decide +kernel
/-- The five reasons of phase 1: lane 0 equals RVAL, FTH folds, age ATH, the drain mask, and beyond HWM; the second record of class 2 waits its turn, so it is
one of those that HWM sends; class 5 has no channel. -/
theorem test_phase_one : let r (n c rk : Nat) : MqRec := { rec1 with header := BitVec.ofNat 64 (rk * 2 ^ 56 + c * 2 ^ 48 + n), payload := 7, age := 5, order := n }
    let s : State := ({ mq with mqs := [(0, r 0 1 1), (1, r 1 2 0), (2, r 2 2 0), (3, r 3 3 0), (4, r 4 4 0), (5, r 5 5 0)] }).modSlot 0 0 (fun r => { r with
      hwm := 0, classes := [(1, { ch := 6, rval := 7 }), (2, { ch := 6, fth := 1 }), (3, { ch := 6, ath := 5 }), (4, { ch := 6 })] })
    (s.mqs.map (·.1)).Pairwise (· < ·) ∧ (s.phaseOne 0 0 16).mqs.map (fun p => p.2.reason) = [1, 2, 5, 3, 4, 0] ∧
    (s.phaseOne 0 0 16).mqs.map (fun p => decide (p.2.state = .waiting)) = [false, false, false, false, false, true] ∧
    (let t := s.modSlot 0 0 (fun r => { r with stopped := true })
     t.phaseOne 0 0 16 = t) := by decide +kernel
/-- An END for channel 4 of core 3 of service node 3; a restoring whose vat has a line in a READY tile. -/
theorem test_service_end : goes (.next ((on 2).deliver 0x30304 7)) (fun t => (t.waiting 8207 4).map (·.words) == [[7]]) ∧
    (let s : State := (rs { rg with got := [(0, some (rh, []) :: List.replicate 8 (some (0, [])))], answers := [(0, 0, 0)] }).setTile 0 5
       { v := true, first := 74, state := .ready, uses := 1, uleft := 1 }
     s.restoreWaits 4 = true ∧ gives (exec (.resumeRestore 4) s) (s.later (.resumeRestore 4))) := by decide +kernel
/-- Held: the line of W0 to W15. Every scalar form waits there; a vector one waits at the line of V2 (line 66), and at a full queue, V0 being N8. -/
theorem test_held_destinations : let s := held (setW (setW (withK (withK (withK (on 2) 0 0) 1 0) 2 9) 1 5) 2 7)
    let waits (i : Instr) : Bool := gives (exec i s) (s.blockEntry 64 .retry)
    wFree s 3 = false ∧ canTake s 3 = false ∧ kOk s 2 = true ∧ waits (.clz 3 1) ∧ waits (.addK 3 1 2) ∧ waits (.shlImm 3 1 2) ∧ waits (.movK 3 2) ∧
    waits (.arelK 3 1 2) ∧ waits (.arel 3 1 2) ∧ waits (.mov16 3 2) ∧ waits (.add16 3 2 1) ∧ waits (.add16 3 2 0) ∧ waits (.neg16 3 2 0) ∧
    (let v := (withV (withV (on 2) 1 tN8 5) 2 tN8 6).setTile 0 5 { v := true, first := 66, state := .ready, uses := 1, uleft := 1 }
     vCanTake v 18 = false ∧ gives (exec (.vadd 18 17 17 0) v) (v.blockEntry 64 .retry) ∧ gives (exec (.add16 18 17 0) v) (v.blockEntry 64 .retry)) := by
  decide +kernel
/-- 1 + 1.5 = 2.5; 2^24 + 1 is halfway in F32 and goes to the even 2^24; 2^128 is past the largest finite F32. An arithmetic shift of 0x80 as N8. -/
theorem test_rounding : let f := floatFormat tF32
    decodeFloat f 0x3F800000 = .fin false (2 ^ 23) (-23) ∧ decodeFloat f 0x3FC00000 = .fin false (3 * 2 ^ 22) (-23) ∧
    unitsOf false (2 ^ 23) (-23) (-23) + unitsOf false (3 * 2 ^ 22) (-23) (-23) = 5 * 2 ^ 22 ∧
    laneOp .add 0 tF32 0x3F800000 0x3FC00000 0 true = (0x40200000, {}) ∧ encodeVal 0 f (.fin false (5 * 2 ^ 22) (-23)) = (0x40200000, {}) ∧
    encodeVal 0 f (.fin false (2 ^ 24 + 1) 0) = (0x4B800000, { nx := true }) ∧ (encodeVal 0 f (.fin false 1 128)).1 = 0x7F800000 ∧
    (encodeVal 0 f (.fin false 1 128)).2.of = true ∧ (encodeVal 1 f (.fin false 1 128)).1 = 0x7F7FFFFF ∧
    laneOp .sar 0 tN8 0x80 1 0 true = (0xC0, {}) := by decide +kernel
theorem test_rounds_to : roundsTo 0 false (2 ^ 24 + 1) 2 (2 ^ 23) ∧ ¬ roundsTo 0 false (2 ^ 24 + 1) 2 (2 ^ 23 + 1) ∧ roundsTo 2 false (2 ^ 24 + 1) 2 (2 ^ 23 + 1) ∧
    roundsTo 3 false (2 ^ 24 + 1) 2 (2 ^ 23) ∧ roundsTo 3 true (2 ^ 24 + 1) 2 (2 ^ 23 + 1) := by simp +decide [roundsTo]
/-- The reserve codes in their order: slots, space, handler entries and channels of a core, banks, queue entries, semaphores. -/
theorem test_reserve_codes : let sl (sp ch rf : Nat) : Slot := ⟨1, 0, 0, 0, 0, sp, ch, rf, 0, 1, [], 0, none, none, [], false, false, 0, [], [], 0, false, []⟩
    let with' (sls : List Slot) : State := { State.reset with slots := (List.range sls.length).zip sls |>.map (fun p => (4 * 264 + p.1, p.2)) }
    let code (sls : List Slot) (req : List Nat) : Nat × Nat := (with' sls).reserveCode 264 req
    let far := 0x1100 -- four units from 0x100 on
    code (List.replicate 4 (sl far 0 0)) rq = (1, 0) ∧ code [sl 0x1007 0 0] rq = (2, 0) ∧ code [sl far 0 0] rq = (0, 0) ∧
    ({ State.reset with entries := (List.range 31).map (fun e => (32 * 1058 + e, { v := true })) }).reserveCode 264 rq = (3, 2) ∧
    code [sl far (8 * 2 ^ 32) 0] rq = (4, 2) ∧ code [sl (far + 100 * 2 ^ 20) 0 0] (rq.set 1 (0x1004 + 100 * 2 ^ 20)) = (5, 0) ∧
    code [sl (far + 300 * 2 ^ 28) 0 0] (rq.set 1 (0x1004 + 300 * 2 ^ 28)) = (6, 0) ∧ code [sl far 0 (2 ^ 17)] (rq.set 3 (0x500 + 2 ^ 17)) = (9, 0) := by
  decide +kernel
theorem test_places : workspacesPlaced (ls lh) ∧ requestOk rq = true ∧ bankRun [([0, 100 * 2 ^ 20], 0)] 28 100 ∧ ¬ bankRun [([0, 100 * 2 ^ 20], 0)] 29 99 := by
  unfold workspacesPlaced bankRun; decide +kernel
/-- A commit in slot 0: node, logical number and id in its window, the entries of the two handlers, SEMS 1 cleared. -/
theorem test_commit_effect : let l := { lh with req := rq.set 3 (0x500 + 2 ^ 17) }
    let s := (ls l).setSem 264 1 7
    s.commitWaits 264 l = false ∧ goes (exec (.launchCommit 264 9) s) (fun t =>
      let at' (i : Nat) : Nat := t.peek (0x200000 * 264 + 8 * i) 8
      at' 0 == 8 && at' 1 == 4 && at' 2 == 0 && at' 3 == 2 && at' 4 == 1 && at' 5 == 264 && at' 6 == 9 && at' 16 == 0 && t.semCount 264 1 == 0 &&
      (t.slot? 264 0).map (fun r => (r.gen, r.hwm, r.bank0, r.space)) == some (1, 0, 0, 0x1004) &&
      (t.entry (32 * 1058 + 1)).lhn == 1 && (t.entry (32 * 1058)).ws == 2048 * fld (rq.getD 5 0) 54 10 && mget (t.core 1058).eh 0 1 == 0) := by decide +kernel
/-- A quiet rectangle does not end while its IMAGE is under way. -/
theorem test_end_waits : let s := (on 2).modEntry 64 (fun e => { e with state := .idle })
    let j : ImageJob := { lid := 1, keep := true, incr := false, base := 0, endto := 7, auth := none, active := true }
    s.quiet 1 = true ∧ gives (exec (.rectangleEnd 1) { s with images := [j] }) (({ s with images := [j] }).later (.rectangleEnd 1)) := by decide +kernel
/-- A walk of core 2 on vat 0 whose node stands on vat 1 reads it as it is, and its handler has then seen vat 1 of this time; a store on its way holds it. -/
theorem test_walk_far_node : let q := 0x400B000
    let s := withWords (wl wj q) 0 [] |>.poke (0x200000 + 0xB000) 64 ((wl wj 0).peek 0xB000 64)
    nearPointer q (0x200000 + 0xB000) 64 128 ∧ walkFresh s 64 0 (0x200000 + 0xB000) 64 ∧ (walkSees s 64 0 (0x200000 + 0xB000)).curEntry.nearAt = [(1, s.turn + 1)] ∧
    goes (exec (.walkStepCommit 0) s) (fun t => t.peek 0x6000 16 == 2 ^ 58 + 77 && (t.entry 64).nearAt == [(1, s.turn + 1)]) ∧
    (let u := s.later (.nearStoreArrival ⟨2, 0, .write, 0x204000, 9, 0, 0, 1, 0⟩)
     goes (exec (.walkStepCommit 0) u) (fun t => t.peek 0x6000 8 == q)) := by
  unfold nearPointer walkFresh walkSees; decide +kernel

/-! ### Well-formedness: for each field, the greatest value and the first that does not fit -/

theorem test_wf_scalar :
    ([.mov16] : List (Nat → Nat → Instr)).all (fun f => (f 31 31).wf && !(f 32 0).wf && !(f 0 32).wf) = true ∧
    ([.add16, .sub16, .mul16, .min16, .max16, .and16, .or16, .xor16, .andn16, .shl16, .shr16, .sar16, .neg16, .abs16, .not16] : List (Nat → Nat →
      Nat → Instr)).all (fun f => (f 31 31 1).wf && !(f 32 0 0).wf && !(f 0 32 0).wf && !(f 0 0 2).wf) = true ∧
    ([.add, .sub, .mul, .mulh, .mulhu, .div, .divu, .rem, .and, .or, .xor, .andn, .shl, .shr, .sar, .ror, .min, .max, .minu, .maxu, .slt, .sltu,
      .seq, .remu, .sext, .arel, .axy, .shlImm, .shrImm, .sarImm, .rorImm, .mand, .mor, .mxor, .mqfold, .wrf, .cas, .amoAdd, .amoAnd, .amoOr,
      .amoXor, .amoMin, .amoMax, .amoMinu, .amoSwap, .strmx, .xfer, .gath, .mcast, .plane, .unplane, .lkenc, .lkdec] : List (Nat → Nat → Nat →
      Instr)).all (fun f => (f 63 63 63).wf && !(f 64 0 0).wf && !(f 0 64 0).wf && !(f 0 0 64).wf) = true ∧
    ([.mov, .clz, .ctz, .popc, .bswap, .mnot, .mmov, .bind, .hmask, .hprio, .peek, .launch, .mqbind, .mqstat, .mqcfg, .rld, .rst, .rdf, .ldf, .stf,
      .phase, .tstate, .twait, .lfill, .lempty, .semr, .strm, .engq, .glz, .tileEntryWrite, .tileEntryArm] : List (Nat → Nat → Instr)).all (fun f =>
      (f 63 63).wf && !(f 64 0).wf && !(f 0 64).wf) = true ∧
    ([.addK, .subK, .mulK, .mulhK, .andK, .orK, .xorK, .andnK, .minK, .maxK, .minuK, .maxuK, .sltK, .sltuK, .seqK, .divK, .divuK, .arelK, .axyK] :
      List (Nat → Nat → Nat → Instr)).all (fun f => (f 63 63 255).wf && !(f 64 0 0).wf && !(f 0 64 0).wf && !(f 0 0 256).wf) = true ∧
    ([.movK] : List (Nat → Nat → Instr)).all (fun f => (f 63 255).wf && !(f 64 0).wf && !(f 0 256).wf) = true ∧
    ([.beq, .bne, .blt, .bge, .bltu, .bgeu] : List (Nat → Nat → Nat → Instr)).all (fun f => (f 63 63 4095).wf && !(f 64 0 0).wf && !(f 0 64 0).wf &&
      !(f 0 0 4096).wf) = true ∧
    ([.loop] : List (Nat → Nat → Instr)).all (fun f => (f 63 4095).wf && !(f 64 0).wf && !(f 0 4096).wf) = true ∧
    ([.j, .call] : List (Nat → Instr)).all (fun f => (f 16777215).wf && !(f 16777216).wf) = true := by decide

theorem test_wf_vector :
    ([.jr, .callr, .unbind, .drop, .mqdrain, .fence, .semp, .semv, .strmoff, .halt, .image, .resume, .tlbw, .tlbiDrain, .tlbiConfirm, .fltrplRetry,
      .fltrplFail, .faultQueuePop, .faultQueueClearOvf, .fabricSend, .laneRetrain, .laneRepair] : List (Nat → Instr)).all (fun f => (f 63).wf && !(f
      64).wf) = true ∧
    ([.vadd, .vsub, .vmul, .vdiv, .vmin, .vmax, .vfma, .vfms, .vand, .vor, .vxor, .vandn, .vshl, .vshr, .vsar, .vsel, .vcmpeq, .vcmplt, .vcmple,
      .vdot, .vperm, .vbcast, .vext, .vins, .vcvt, .vtag, .vred, .vnzs, .vshlImm, .vshrImm, .vsarImm, .vaddRel, .vsubRel, .vmulRel, .vdivRel,
      .vminRel, .vmaxRel, .vfmaRel, .vfmsRel, .vandRel, .vorRel, .vxorRel, .vandnRel, .vshlRel, .vshrRel, .vsarRel, .vselRel, .vcmpeqRel,
      .vcmpltRel, .vcmpleRel, .vdotRel, .vpermRel, .sendr] : List (Nat → Nat → Nat → Nat → Instr)).all (fun f => (f 63 63 63 7).wf && !(f 64 0 0
      0).wf && !(f 0 64 0 0).wf && !(f 0 0 64 0).wf && !(f 0 0 0 8).wf) = true ∧
    ([.vmov, .vabs, .vneg, .vsqrt, .vmovRelA, .vmovRelD, .send, .reply] : List (Nat → Nat → Nat → Instr)).all (fun f => (f 63 63 7).wf && !(f 64 0
      0).wf && !(f 0 64 0).wf && !(f 0 0 8).wf) = true := by decide

theorem test_wf_matrix :
    ([.vaddK, .vsubK, .vmulK, .vfmaK, .vminK, .vmaxK, .vandK, .vorK, .vxorK, .vandnK, .vcmpeqK, .vcmpltK, .vcmpleK, .vbcastK] : List (Nat → Nat →
      Nat → Nat → Instr)).all (fun f => (f 63 63 255 7).wf && !(f 64 0 0 0).wf && !(f 0 64 0 0).wf && !(f 0 0 256 0).wf && !(f 0 0 0 8).wf) = true ∧
    ([.mma, .mmaz, .wstep] : List (Nat → Nat → Nat → Nat → Instr)).all (fun f => (f 7 7 7 1).wf && !(f 8 0 0 0).wf && !(f 0 8 0 0).wf && !(f 0 0 8
      0).wf && !(f 0 0 0 2).wf) = true ∧
    ([.achain, .winit, .wfix] : List (Nat → Nat → Instr)).all (fun f => (f 7 15).wf && !(f 8 0).wf && !(f 0 16).wf) = true ∧
    ([.tset, .aalloc] : List (Nat → Nat → Instr)).all (fun f => (f 7 255).wf && !(f 8 0).wf && !(f 0 256).wf) = true ∧
    ([.afree, .azero] : List (Nat → Instr)).all (fun f => (f 7).wf && !(f 8).wf) = true ∧
    ([.throttleStep, .throttleRecover] : List (DieTemp → Instr)).all (fun f => (f ⟨7, 300⟩).wf && !(f ⟨8, 0⟩).wf) = true ∧
    ([.astore, .aload] : List (Nat → Nat → Nat → Instr)).all (fun f => (f 7 1 15).wf && !(f 8 0 0).wf && !(f 0 2 0).wf && !(f 0 0 16).wf) = true ∧
    ([.amovv, .wres] : List (Nat → Nat → Nat → Instr)).all (fun f => (f 7 15 15).wf && !(f 8 0 0).wf && !(f 0 16 0).wf && !(f 0 0 16).wf) = true ∧
    ([.walk] : List (Nat → Nat → Nat → Nat → Nat → Instr)).all (fun f => (f 7 7 7 1 255).wf && !(f 8 0 0 0 0).wf && !(f 0 8 0 0 0).wf && !(f 0 0 8 0
      0).wf && !(f 0 0 0 2 0).wf && !(f 0 0 0 0 256).wf) = true ∧
    ([.wcnt] : List (Nat → Nat → Nat → Instr)).all (fun f => (f 7 7 15).wf && !(f 8 0 0).wf && !(f 0 8 0).wf && !(f 0 0 16).wf) = true ∧
    ([.ldB, .ldH, .ldW, .ldD, .ldSb, .ldSh, .ldSw, .stB, .stH, .stW, .stD] : List (Nat → Nat → Nat → Instr)).all (fun f => (f 15 15 1023).wf && !(f
      16 0 0).wf && !(f 0 16 0).wf && !(f 0 0 1024).wf) = true := by decide

theorem test_wf_system :
    ([.ldv, .stv] : List (Nat → Nat → Nat → Nat → Instr)).all (fun f => (f 15 15 31 1023).wf && !(f 16 0 0 0).wf && !(f 0 16 0 0).wf && !(f 0 0 32
      0).wf && !(f 0 0 0 1024).wf) = true ∧
    ([.srr, .srw] : List (Nat → Nat → Instr)).all (fun f => (f 63 16383).wf && !(f 64 0).wf && !(f 0 16384).wf) = true ∧
    ([.trap, .bkpt, .debugHalt, .debugRelease, .debugStep] : List (Nat → Instr)).all (fun f => (f 16383).wf && !(f 16384).wf) = true := by decide

theorem test_wf_events :
    ([.mirror] : List (Nat → Nat → Nat → Instr)).all (fun f => (f 3 255 1).wf && !(f 4 0 0).wf && !(f 0 256 0).wf && !(f 0 0 2).wf) = true ∧
    ([.activationStart] : List (Nat → Nat → Instr)).all (fun f => (f 16383 31).wf && !(f 16384 0).wf && !(f 0 32).wf) = true ∧
    ([.neverRefusedEntry] : List (Nat → Nat → Instr)).all (fun f => (f 16383 15).wf && !(f 16384 0).wf && !(f 0 16).wf) = true ∧
    ([.launchReserve, .launchCommit, .imageStop, .vatImage] : List (Nat → Nat → Instr)).all (fun f => (f 4095 4294967295).wf && !(f 4096 0).wf &&
      !(f 0 4294967296).wf) = true ∧
    ([.launchReject, .rectangleEnd, .imageVerdict] : List (Nat → Instr)).all (fun f => (f 4294967295).wf && !(f 4294967296).wf) = true ∧
    ([.mqDispatch, .dispatchDelivery, .streamFetch] : List (Nat → Nat → Instr)).all (fun f => (f 4095 3).wf && !(f 4096 0).wf && !(f 0 4).wf) = true ∧
    ([.ageTick, .arrayRetire, .walkStepCommit] : List (Nat → Instr)).all (fun f => (f 4095).wf && !(f 4096).wf) = true ∧
    ([.engineCompletion, .xferUnit, .gatherStage, .gatherElementIssue, .bufferFreeAcknowledgement, .glzPoint, .fabricDeliveryFailure] : List (Nat →
      Nat → Instr)).all (fun f => (f 4095 15).wf && !(f 4096 0).wf && !(f 0 16).wf) = true ∧
    ([.gatherElementLand] : List (Nat → Nat → Nat → Instr)).all (fun f => (f 4095 15 16777215).wf && !(f 4096 0 0).wf && !(f 0 16 0).wf && !(f 0 0
      16777216).wf) = true ∧
    ([.mcastUnit] : List (Nat → Nat → Nat → Instr)).all (fun f => (f 4095 15 2047).wf && !(f 4096 0 0).wf && !(f 0 16 0).wf && !(f 0 0 2048).wf) =
      true ∧
    ([.fabricAcknowledgement] : List (Nat → Nat → Nat → Instr)).all (fun f => (f 4095 15 255).wf && !(f 4096 0 0).wf && !(f 0 16 0).wf && !(f 0 0
      256).wf) = true ∧
    ([.matchArm, .matchDisarm] : List (Nat → Nat → Instr)).all (fun f => (f 63 127).wf && !(f 64 0).wf && !(f 0 128).wf) = true ∧
    ([.resumeReserve] : List (Nat → Nat → Instr)).all (fun f => (f 4095 18446744073709551615).wf && !(f 4096 0).wf && !(f 0
      18446744073709551616).wf) = true ∧
    ([.resumeRestore, .frameResend] : List (Nat → Instr)).all (fun f => (f 18446744073709551615).wf && !(f 18446744073709551616).wf) = true ∧
    ([.debugSetHob] : List (Nat → Nat → Instr)).all (fun f => (f 16383 1).wf && !(f 16384 0).wf && !(f 0 2).wf) = true ∧
    ([.marginMessage] : List (Nat → Nat → Nat → Instr)).all (fun f => (f 262143 65535 65535).wf && !(f 262144 0 0).wf && !(f 0 65536 0).wf && !(f 0
      0 65536).wf) = true ∧
    ([.retrainDone] : List (Nat → Instr)).all (fun f => (f 255).wf && !(f 256).wf) = true := by decide

theorem test_wf_other : Instr.nop.wf = true ∧ (Instr.refusalArrival mg 255).wf = true ∧ (Instr.refusalArrival mg 256).wf = false ∧
    (Instr.foldRefusalArrival (fq 0) 256).wf = false ∧ (Instr.farReplyArrival (fr .read 8 .store) 256 0).wf = false ∧
    (Instr.faultReplyArrival (2 ^ 64) true).wf = false ∧ (Instr.illegalEncoding 32 0xFFFFFFFF).wf = true ∧ (Instr.illegalEncoding 64 0).wf = false ∧
    (Instr.illegalEncoding 16 0x10000).wf = false := by decide

end Sys2Proof.Tests
end

/-!
PROOFS. Control instructions (05 R73 to R75): what a branch, a jump, a call and LOOP leave, and the statement `ControlResults`.
-/
namespace Sys2Proof.Machine
open Sys2Proof Sys2Proof.Claims

section
variable {s t orig : State} {bad : Option Nat}

/-! ### IP under reads and jumps -/

/-- An entry changed by functions that agree on it. -/
theorem modEntry_congr {k : Nat} {f g : Entry → Entry} (h : f (s.entry k) = g (s.entry k)) : s.modEntry k f = s.modEntry k g := by
  have h' : f (mget s.entries k {}) = g (mget s.entries k {}) := h
  simp only [State.modEntry, mmod, h']

theorem newPhase_curEntry_ip : (s.newPhase s.curKey).curEntry.ip = s.curEntry.ip := by
  simp [State.newPhase, State.curEntry]

/-- Reading a word operand leaves IP. -/
theorem source_curEntry_ip {f : Nat} {x : Word} (h : source s f = some (x, t)) : t.curEntry.ip = s.curEntry.ip := by
  unfold source at h
  split at h
  · obtain ⟨_, h⟩ := Option.ite_none_right_eq_some.mp h
    rw [← (Prod.mk.inj (Option.some.inj h)).2]
  split at h
  · cases h
  split at h
  · obtain ⟨p, _, hp⟩ := Option.map_eq_some_iff.mp h
    cases hp; rfl
  split at h
  · split at h
    · cases h
    · cases h
      split
      · exact newPhase_curEntry_ip
      · rfl
  · obtain ⟨_, h⟩ := Option.ite_none_right_eq_some.mp h
    rw [← (Prod.mk.inj (Option.some.inj h)).2]

theorem run_jumpTo_goTo (n disp : Nat) :
    jumpTo n disp ⟨s, orig, bad⟩ = .ok ((), ⟨goTo (branchTo s.curEntry.ip n disp) s, orig, bad⟩) := by
  rw [run_jumpTo, branchTo_eq, goTo, modEntry_congr]
  rfl

theorem run_writeLink (h : wFree s 15 = true) :
    writeLink ⟨s, orig, bad⟩ = .ok ((), ⟨setW s 15 (BitVec.ofNat 64 ((s.curEntry.ip + 4) % 0x200000)), orig, bad⟩) := by
  rw [writeLink, bind_ok run_getS]
  exact run_writeW h _

/-- An even address below 2^21 is a target of JR and CALLR. -/
theorem run_jumpReg {x : Word} (heven : x.toNat % 2 = 0) (hlt : x.toNat < 0x200000) :
    jumpReg x ⟨s, orig, bad⟩ = .ok ((), ⟨goTo x.toNat s, orig, bad⟩) := by
  have hc : (x.toNat % 2 == 1 || decide (0x200000 ≤ x.toNat)) = false := by simp [heven]; omega
  simp only [jumpReg, hc]
  rfl

end

/-! ### The instructions -/

/-- A form B branch whose sources can be read (R73). -/
theorem branchB_next {op : Nat} {cond : Word → Word → Bool} {a b i : Nat} {s s1 s2 : State} {x y : Word} (hr : running s 0 = true)
    (ha : wSource s a = true) (hb : wSource s b = true) (hx : source s a = some (x, s1)) (hy : source s1 b = some (y, s2)) :
    branchB op cond a b i s = .next (if cond x y then goTo (branchTo s.curEntry.ip 12 i) s2 else past 4 s2) := by
  have hip : s2.curEntry.ip = s.curEntry.ip := (source_curEntry_ip hy).trans (source_curEntry_ip hx)
  refine runInstr_ok (orig := s) hr ?_
  rw [bind_ok (run_classes (by simp [ha, hb])), bind_ok (run_srcW hx), bind_ok (run_srcW hy)]
  split
  · rw [run_jumpTo_goTo, hip]
  · exact run_advance 4

/-- The branches of Table 5-2 are form B branches on their conditions. -/
theorem exec_branches : ∀ p ∈ branches, ∃ op, ∀ a b i s, exec (p.1 a b i) s = branchB op p.2 a b i s := by
  have hge : (fun x y : Word => !x.slt y) = fun x y => decide (y.toInt ≤ x.toInt) := by
    funext x y; rw [BitVec.slt, ← decide_not, decide_eq_decide, not_lt]
  have hgeu : (fun x y : Word => !x.ult y) = fun x y => decide (y.toNat ≤ x.toNat) := by
    funext x y; rw [BitVec.ult, ← decide_not, decide_eq_decide, not_lt]
  simp only [branches, List.forall_mem_cons, List.not_mem_nil, false_implies, implies_true, and_true]
  rw [← hge, ← hgeu]
  refine ⟨?_, ?_, ?_, ?_, ?_, ?_⟩ <;> exact ⟨_, fun _ _ _ _ => rfl⟩

theorem execNop_next {s : State} (hr : running s 0 = true) : exec .nop s = .next (past 4 s) :=
  runInstr_ok (orig := s) hr (run_advance 4)

theorem execJ_next {s : State} {i : Nat} (hr : running s 0 = true) : exec (.j i) s = .next (goTo (branchTo s.curEntry.ip 24 i) s) :=
  runInstr_ok (orig := s) hr (run_jumpTo_goTo 24 i)

theorem execCall_next {s : State} {i : Nat} (hr : running s 0 = true) (hf : wFree s 15 = true) :
    exec (.call i) s = .next (goTo (branchTo s.curEntry.ip 24 i) (setW s 15 (BitVec.ofNat 64 ((s.curEntry.ip + 4) % 0x200000)))) := by
  refine runInstr_ok (orig := s) hr ?_
  rw [bind_ok (run_writeLink hf)]
  exact run_jumpTo_goTo 24 i

/-- LOOP ends at a count of 1 and otherwise branches with the count one lower (R74). -/
theorem execLoop_next {s : State} {a i : Nat} (hr : running s 0 = true) (ha : a < 16) (hok : wOk s a = true) (hf : wFree s a = true) :
    exec (.loop a i) s = .next (if wVal s a = 1 then past 4 (setW s a 0)
      else goTo (branchTo s.curEntry.ip 12 i) (setW s a (wVal s a - 1))) := by
  have hlast : (wVal s a - 1 != 0) = !decide (wVal s a = 1) := by
    rw [bne, beq_eq_decide, decide_eq_decide.mpr sub_eq_zero]
  refine runInstr_ok (orig := s) hr ?_
  rw [bind_ok (run_checkAll (by simp [isW, ha])), bind_ok (run_readW hok), bind_ok (run_writeW hf _), hlast]
  by_cases h1 : wVal s a = 1
  · simp only [h1, decide_true]
    exact run_advance 4
  · simp only [h1, decide_false]
    exact run_jumpTo_goTo 12 i

theorem execJr_next {s s1 : State} {a : Nat} {x : Word} (hr : running s 0 = true) (ha : wSource s a = true)
    (hx : source s a = some (x, s1)) (heven : x.toNat % 2 = 0) (hlt : x.toNat < 0x200000) :
    exec (.jr a) s = .next (goTo x.toNat s1) := by
  refine runInstr_ok (orig := s) hr ?_
  rw [bind_ok (run_classes (by simp [ha])), bind_ok (run_srcW hx)]
  exact run_jumpReg heven hlt

theorem execCallr_next {s s1 : State} {a : Nat} {x : Word} (hr : running s 0 = true) (ha : wSource s a = true)
    (hx : source s a = some (x, s1)) (heven : x.toNat % 2 = 0) (hlt : x.toNat < 0x200000) (hf : wFree s1 15 = true) :
    exec (.callr a) s = .next (goTo x.toNat (setW s1 15 (BitVec.ofNat 64 ((s.curEntry.ip + 4) % 0x200000)))) := by
  refine runInstr_ok (orig := s) hr ?_
  rw [bind_ok (run_classes (by simp [ha])), bind_ok (run_srcW hx), bind_ok (run_writeLink hf), source_curEntry_ip hx]
  exact run_jumpReg heven hlt

/-- Settles O4: every control instruction, by the lemma on its form. -/
theorem controlResults : Obligations.ControlResults := by
  refine ⟨fun s s1 s2 a b i x y hr ha hb hx hy p hp => ?_, fun s s1 a i x hr => ⟨execNop_next hr, execJ_next hr, execCall_next hr,
    execLoop_next hr, fun ha hx heven hlt => ⟨execJr_next hr ha hx heven hlt, execCallr_next hr ha hx heven hlt⟩⟩⟩
  obtain ⟨op, hexec⟩ := exec_branches p hp
  rw [hexec]
  exact branchB_next hr ha hb hx hy

end Sys2Proof.Machine

/-!
PROOFS. The vector compares (05 R79): the relations of lanes, the mask they give, the trap of a field that names no M register, and the
statement `CompareResults`.
-/
namespace Sys2Proof.Machine
open Sys2Proof Sys2Proof.Claims

/-! ### The order of lane codes -/

theorem elemBits_pos (t : Nat) : 0 < elemBits t := by
  unfold elemBits
  split <;> decide

theorem isIntTag_eq (t : Nat) : isIntTag t = (isNTag t || isSTag t) := by
  rw [Bool.eq_iff_iff]
  simp only [isIntTag, isNTag, isSTag, Bool.and_eq_true, Bool.or_eq_true, decide_eq_true_eq]
  omega

theorem isSTag_of_isNTag {t : Nat} (h : isNTag t = true) : isSTag t = false := by
  simp only [isNTag, isSTag, Bool.and_eq_true, Bool.and_eq_false_iff, decide_eq_true_eq, decide_eq_false_iff_not] at *
  omega

/-- The number by which the compares order lane codes: the integer that a code denotes, or the key of R57. -/
def laneKey (t x : Nat) : Int := if isIntTag t then intVal t x else fkey (elemBits t) x

theorem relHolds_eq_iff {t x y : Nat} : relHolds .eq t x y = true ↔ x = y := beq_iff_eq

theorem relHolds_lt_iff {t x y : Nat} : relHolds .lt t x y = true ↔ laneKey t x < laneKey t y := by
  by_cases h : isIntTag t = true <;> simp [relHolds, laneKey, h]

theorem relHolds_le_iff {t x y : Nat} : relHolds .le t x y = true ↔ laneKey t x ≤ laneKey t y := by
  by_cases h : isIntTag t = true <;> simp [relHolds, laneKey, h]

/-- The key of R57 turns the order of the codes with the sign bit round and lifts the others above them. -/
theorem fkey_eq {n x : Nat} (hn : 0 < n) (hx : x < 2 ^ n) :
    fkey n x = if 2 ^ (n - 1) ≤ x then 2 ^ n - 1 - x else x + 2 ^ (n - 1) := by
  have htwo : 2 ^ (n - 1) * 2 = 2 ^ n := Nat.two_pow_pred_mul_two hn
  have htop : (x / 2 ^ (n - 1) % 2 == 1) = decide (2 ^ (n - 1) ≤ x) := by
    have hq : x / 2 ^ (n - 1) < 2 := Nat.div_lt_of_lt_mul (htwo.symm ▸ hx)
    have hpos : 1 ≤ x / 2 ^ (n - 1) ↔ 2 ^ (n - 1) ≤ x := by
      rw [Nat.le_div_iff_mul_le (Nat.two_pow_pos _), one_mul]
    rw [Nat.mod_eq_of_lt hq, beq_eq_decide, decide_eq_decide, ← hpos]
    omega
  simp only [fkey, htop, Nat.mod_eq_of_lt hx, decide_eq_true_eq]

theorem laneKey_of_isNTag {t x : Nat} (ht : isNTag t = true) (hx : x < 2 ^ elemBits t) : laneKey t x = x := by
  simp [laneKey, intVal, isIntTag_eq, ht, isSTag_of_isNTag ht, Nat.mod_eq_of_lt hx]

theorem laneKey_of_isSTag {t x : Nat} (ht : isSTag t = true) : laneKey t x = Int.bmod x (2 ^ elemBits t) := by
  simp [laneKey, intVal, isIntTag_eq, ht, bmod_eq_signed]

theorem laneKey_of_float {t x : Nat} (hN : isNTag t = false) (hS : isSTag t = false) : laneKey t x = fkey (elemBits t) x := by
  simp [laneKey, isIntTag_eq, hN, hS]

/-- The relation "less" of R79 on lane codes: N lanes unsigned, S lanes signed, float lanes by the key of R57. -/
def laneLess (t x y : Nat) : Prop :=
  let top := fun (v : Nat) => 2 ^ (elemBits t - 1) ≤ v
  if isNTag t then x < y
  else if isSTag t then Int.bmod x (2 ^ elemBits t) < Int.bmod y (2 ^ elemBits t)
  else (top x ∧ ¬ top y) ∨ (¬ top x ∧ ¬ top y ∧ x < y) ∨ (top x ∧ top y ∧ y < x)

theorem fkey_lt_iff {n x y : Nat} (hn : 0 < n) (hx : x < 2 ^ n) (hy : y < 2 ^ n) :
    fkey n x < fkey n y ↔ (2 ^ (n - 1) ≤ x ∧ ¬ 2 ^ (n - 1) ≤ y) ∨ (¬ 2 ^ (n - 1) ≤ x ∧ ¬ 2 ^ (n - 1) ≤ y ∧ x < y) ∨
      (2 ^ (n - 1) ≤ x ∧ 2 ^ (n - 1) ≤ y ∧ y < x) := by
  have htwo : 2 ^ (n - 1) * 2 = 2 ^ n := Nat.two_pow_pred_mul_two hn
  rw [fkey_eq hn hx, fkey_eq hn hy]
  split <;> split <;> omega

theorem fkey_injective {n x y : Nat} (hn : 0 < n) (hx : x < 2 ^ n) (hy : y < 2 ^ n) (h : fkey n x = fkey n y) : x = y := by
  have htwo : 2 ^ (n - 1) * 2 = 2 ^ n := Nat.two_pow_pred_mul_two hn
  rw [fkey_eq hn hx, fkey_eq hn hy] at h
  split at h <;> split at h <;> omega

theorem bmod_injective {m x y : Nat} (hx : x < m) (hy : y < m) (h : Int.bmod x m = Int.bmod y m) : x = y := by
  have hmod : (x : Int) % m = (y : Int) % m := by rw [← Int.bmod_emod, h, Int.bmod_emod]
  rwa [Int.emod_eq_of_lt (by omega) (by omega), Int.emod_eq_of_lt (by omega) (by omega), Nat.cast_inj] at hmod

theorem laneKey_lt_iff {t x y : Nat} (hx : x < 2 ^ elemBits t) (hy : y < 2 ^ elemBits t) :
    laneKey t x < laneKey t y ↔ laneLess t x y := by
  unfold laneLess
  by_cases hN : isNTag t = true
  · simp [hN, laneKey_of_isNTag, hx, hy]
  by_cases hS : isSTag t = true
  · simp [hN, hS, laneKey_of_isSTag]
  · rw [Bool.not_eq_true] at hN hS
    simp only [hN, hS, laneKey_of_float hN hS, Nat.cast_lt, fkey_lt_iff (elemBits_pos t) hx hy]
    rfl

theorem laneKey_injective {t x y : Nat} (hx : x < 2 ^ elemBits t) (hy : y < 2 ^ elemBits t) (h : laneKey t x = laneKey t y) : x = y := by
  by_cases hN : isNTag t = true
  · simpa [laneKey_of_isNTag, hN, hx, hy] using h
  by_cases hS : isSTag t = true
  · rw [laneKey_of_isSTag hS, laneKey_of_isSTag hS] at h
    exact bmod_injective hx hy h
  · rw [Bool.not_eq_true] at hN hS
    rw [laneKey_of_float hN hS, laneKey_of_float hN hS, Nat.cast_inj] at h
    exact fkey_injective (elemBits_pos t) hx hy h

theorem laneKey_le_iff {t x y : Nat} (hx : x < 2 ^ elemBits t) (hy : y < 2 ^ elemBits t) :
    laneKey t x ≤ laneKey t y ↔ laneLess t x y ∨ x = y := by
  rw [le_iff_lt_or_eq, laneKey_lt_iff hx hy]
  exact or_congr_right ⟨laneKey_injective hx hy, congrArg _⟩

/-! ### The mask -/

theorem bitsFrom_lt (f : Nat → Bool) (n : Nat) : bitsFrom f n < 2 ^ n := by
  induction n with
  | zero => exact Nat.one_pos
  | succ n ih =>
    rw [bitsFrom, pow_succ]
    split <;> omega

theorem testBit_bitsFrom (f : Nat → Bool) (n i : Nat) : (bitsFrom f n).testBit i = (decide (i < n) && f i) := by
  induction n with
  | zero => simp [bitsFrom]
  | succ n ih =>
    have hlt := bitsFrom_lt f n
    have hhigh : (bitsFrom f n).testBit n = false := Nat.testBit_lt_two_pow hlt
    by_cases hf : f n = true
    · simp only [bitsFrom, hf, if_true, Nat.add_comm _ (2 ^ n)]
      rcases lt_trichotomy i n with h | rfl | h
      · rw [Nat.testBit_two_pow_add_gt h, ih]
        simp [h, h.trans (Nat.lt_succ_self n)]
      · simp [Nat.testBit_two_pow_add_eq, hhigh, hf]
      · have hsum : 2 ^ n + bitsFrom f n < 2 ^ i :=
          lt_of_lt_of_le (by rw [pow_succ]; omega) (Nat.pow_le_pow_right (by decide) h)
        rw [Nat.testBit_lt_two_pow hsum]
        simp; omega
    · rw [Bool.not_eq_true] at hf
      simp only [bitsFrom, hf, Bool.false_eq_true, if_false, Nat.add_zero, ih]
      by_cases h : i = n
      · simp [h, hf]
      · have hiff : i < n ↔ i < n + 1 := by omega
        simp only [hiff]

/-! ### The instruction -/

/-- A compare whose operands can be read and whose mask register is not held (R79). -/
theorem cmpVec_next {r : LaneRel} {opc d a mk : Nat} {b : BSrc} {s s1 s2 : State} {x y : VVal} (hr : running s 1 = true)
    (hd : isM d = true) (ha : vSource s a = true) (hx : vSourceOf s a = some (x, s1)) (hok : isLaneTag x.tag = true)
    (hy : bReads s s1 b x.tag = some (y, s2)) (ht : y.tag = x.tag) (hm : maskOk s2 mk = true) (hf : mFree s2 (d - 56) = true) :
    cmpVec r opc d a mk b s = .next (past 4 (setM s2 (d - 56) (BitVec.ofNat 64 (bitsFrom
      (fun i => active s2 mk i && relHolds r x.tag (laneAt (elemBits x.tag) x.val i) (laneAt (elemBits x.tag) y.val i))
      (lanesOf x.tag))))) := by
  obtain ⟨mask, hmask, hact⟩ := run_laneMask (orig := s) (bad := none) hm
  refine runInstr_ok (orig := s) hr ?_
  rw [bind_ok (run_classes (by simp [hd, ha, bCheck_ok hy])), bind_ok (run_lanePair ha hx hy hok ht)]
  simp only [← hact]
  rw [bind_ok hmask, bind_ok (run_writeM hf _)]
  rfl

/-- The compares are `cmpVec` with their relation and form. -/
theorem exec_compareForms : ∀ p ∈ compareForms, ∃ opc, ∀ d a b mk s, exec (p.1 d a b mk) s = cmpVec p.2.1 opc d a mk (p.2.2 b) s := by
  simp only [compareForms, List.forall_mem_cons, List.not_mem_nil, false_implies, implies_true, and_true]
  refine ⟨?_, ?_, ?_, ?_, ?_, ?_, ?_, ?_, ?_⟩ <;> exact ⟨_, fun _ _ _ _ _ => rfl⟩

/-- A trap that the slot's handler can take at once enters it (R29, R303). -/
theorem takeTrap_handled {s : State} (h : handled s) (cause info : Nat) :
    s.takeTrap s.curKey cause info false = entered s cause info s.curEntry.ip := by
  obtain ⟨hent, hit, hv, hother, hfree, hclean⟩ := h
  have hck : s.curKey / 32 = s.cur.ck := by rw [State.curKey]; omega
  have heh : mget (s.core s.cur.ck).eh s.curEntry.slot 0 = eh s := rfl
  have htwp : ehTwp (eh s) = (eh s).toNat / 2 ^ 54 := Nat.mod_eq_of_lt (Nat.div_lt_of_lt_mul (eh s).isLt)
  have hit' : stIT s.curEntry.st = false := (bitAt_eq _ _).trans hit
  have hv' : ehV (eh s) = true := (bitAt_eq _ _).trans hv
  have hheld : s.regsHeld s.curKey 0x570 16 = false := by simpa [regFree] using hfree
  have hcur : s.entry s.curKey = s.curEntry := rfl
  have hclean' : s.cleanWaits (nodeOf s.cur.ck) ((eh s).toNat / 2 ^ 54 * 2048) = false := hclean
  simp only [State.takeTrap, hit', hother, hck, hcur, heh, hv', htwp, hheld, hclean', Bool.not_true, Bool.or_self, Bool.false_eq_true,
    if_false]
  simp only [State.trapEntry, hck, hcur, heh, htwp]
  rfl

/-- A d field that names no M register traps first (R28, R79). -/
theorem cmpVec_illegal {r : LaneRel} {opc d a mk : Nat} {b : BSrc} {s : State} (hr : running s 1 = true) (hh : handled s)
    (hd : isM d = false) : cmpVec r opc d a mk b s = .next (entered s 0x02 (d % 64 * 8) s.curEntry.ip) := by
  rw [← takeTrap_handled hh]
  refine runInstr_trap hr (bind_error ?_)
  rw [classes, bind_ok run_getS]
  simp only [List.cons_append, checkAll, hd, Bool.false_eq_true, if_false]
  rfl

/-- Settles O7: the bits of `bitsFrom`, the first class check, and the order of lane codes by `laneKey`. -/
theorem compareResults : Obligations.CompareResults := by
  refine ⟨fun s s1 s2 d a b mk x y hr hd ha hx hok p hp hy ht hm hf => ?_, fun s d a b mk hr _ hh hd p hp => ?_,
    fun tag x y _ => ?_⟩
  · obtain ⟨opc, hexec⟩ := exec_compareForms p hp
    refine ⟨_, (hexec ..).trans (cmpVec_next hr hd ha hx hok hy ht hm hf), fun i hi => ?_⟩
    rw [BitVec.getLsbD_ofNat, testBit_bitsFrom, decide_eq_true hi, Bool.true_and, Bool.and_assoc]
  · obtain ⟨opc, hexec⟩ := exec_compareForms p hp
    exact ⟨d % 64 * 8, Nat.mul_mod_left _ _, (hexec ..).trans (cmpVec_illegal hr hh hd)⟩
  · intro n hx hy top lt
    exact ⟨relHolds_eq_iff, relHolds_lt_iff.trans (laneKey_lt_iff hx hy), relHolds_le_iff.trans (laneKey_le_iff hx hy)⟩

end Sys2Proof.Machine

/-!
PROOFS. VSEL and VPERM (05 R77, R81, R78): what they leave once their operands are there, and the statement `SelectResults`.
-/
namespace Sys2Proof.Machine
open Sys2Proof Sys2Proof.Claims

/-- The lanes of a tag fill at most the 64 bytes of a register. -/
theorem laneBytes_le (t : Nat) : elemBits t / 8 * lanesOf t ≤ 64 := by
  calc elemBits t / 8 * (512 / elemBits t) ≤ elemBits t * 512 / (8 * elemBits t) := Nat.div_mul_div_le ..
    _ = 64 := by rw [Nat.mul_comm 8, Nat.mul_div_mul_left _ _ (elemBits_pos t)]

/-- VSEL whose operands and selector can be read and whose destination can be written (R77). -/
theorem selVec_next {opc d a m : Nat} {b : BSrc} {s s1 s2 t : State} {x y : VVal} (hr : running s 1 = true) (hd : vDest s d = true)
    (ha : vSource s a = true) (hx : vSourceOf s a = some (x, s1)) (hok : isLane15 x.tag = true)
    (hy : bReads s s1 b x.tag = some (y, s2)) (ht : y.tag = x.tag) (hm : mOk s2 m = true)
    (hw : vDestOf s2 d x.tag (packFields (elemBits x.tag) ((List.range (lanesOf x.tag)).map (fun i =>
      if (mVal s2 m).getLsbD i then lane15 x.tag x.val i else lane15 x.tag y.val i))) = some t) :
    selVec opc d a m b s = .next (past 4 t) := by
  refine runInstr_ok (orig := s) hr ?_
  rw [bind_ok (run_classes (by simp [hd, ha, bCheck_ok hy])), bind_ok (run_lanePair ha hx hy hok ht)]
  dsimp only
  rw [bind_ok (run_readM hm)]
  simp only [bitAt_eq]
  rw [bind_ok (run_dstV (vDest_cases hd) hw)]
  rfl

/-- VPERM whose operands and mask can be read and whose destination can be written (R81). -/
theorem permVec_next {opc d a m : Nat} {b : BSrc} {s s1 s2 t : State} {x y : VVal} (hr : running s 1 = true) (hd : vDest s d = true)
    (ha : vSource s a = true) (hx : vSourceOf s a = some (x, s1)) (hok : isLane15 x.tag = true)
    (hy : bReads s s1 b x.tag = some (y, s2)) (ht : y.tag = tN8) (hm : maskOk s2 m = true)
    (hw : vLanesTo s2 d x.tag (elemBits x.tag / 8) ((List.range (lanesOf x.tag)).map (fun i =>
      if active s2 m i then some (lane15 x.tag x.val (laneAt 8 y.val i % lanesOf x.tag)) else none)) = some t) :
    permVec opc d a m b s = .next (past 4 t) := by
  obtain ⟨mask, hmask, hact⟩ := run_laneMask (orig := s) (bad := none) hm
  obtain ⟨n, hrel, hread⟩ := run_bReads (orig := s) (bad := none) hy
  have hfit : elemBits x.tag / 8 * ((List.range (lanesOf x.tag)).map (fun i =>
      if active s2 m i then some (lane15 x.tag x.val (laneAt 8 y.val i % lanesOf x.tag)) else none)).length ≤ 64 := by
    simpa using laneBytes_le x.tag
  refine runInstr_ok (orig := s) hr ?_
  rw [bind_ok (run_classes (by simp [hd, ha, bCheck_ok hy])), bind_ok hrel, bind_ok (run_srcV (vSource_cases ha) hx), bind_ok hread]
  simp only [hok, ht, Bool.not_true, bne_self_eq_false, Bool.false_eq_true, if_false]
  rw [bind_ok hmask]
  simp only [hact]
  rw [bind_ok (run_dstLanes (vDest_cases hd) (elemBits_whole (by simp [hok])) hfit hw)]
  rfl

/-- Settles O8: VSEL and VPERM, each in the form with a field and the form with a relative register. -/
theorem selectResults : Obligations.SelectResults := by
  intro s s1 s2 t d a b mk x y hr hd ha hx hok
  simp only [List.forall_mem_cons, List.not_mem_nil, false_implies, implies_true, and_true]
  exact ⟨⟨fun hy ht hm hw => selVec_next hr hd ha hx hok hy ht hm hw, fun hy ht hm hw => selVec_next hr hd ha hx hok hy ht hm hw⟩,
    fun hy ht hm hw => permVec_next hr hd ha hx hok hy ht hm hw, fun hy ht hm hw => permVec_next hr hd ha hx hok hy ht hm hw⟩

end Sys2Proof.Machine
